-- ==== Sys2Proof/Word.lean ====
section
/-! DEFINITION. The words of the KX9 (00_scope.md R13, 01_words.md R23): bytes, 32-bit words, 64-bit
doublewords, and the plainest arithmetic on them. -/

namespace Sys2Proof

/-- A byte of memory. -/
abbrev Byte := BitVec 8

/-- A 32-bit register or instruction word (R23, R27). -/
abbrev Word := BitVec 32

/-- A 64-bit pair, address or doubleword (R6, R32). -/
abbrev DWord := BitVec 64

/-- The 32-bit half at bits [31:0] of a pair (R32). -/
def DWord.lo (x : DWord) : Word := x.setWidth 32

/-- The 32-bit half at bits [63:32] of a pair (R32). -/
def DWord.hi (x : DWord) : Word := (x >>> 32).setWidth 32

/-- The pair whose bits [31:0] are `l` and whose bits [63:32] are `h` (R32). -/
def DWord.mk (h l : Word) : DWord := h ++ l

end Sys2Proof
end

