-- ==== Sys2Proof/Config.lean ====
section
/-! DEFINITION. What the part fixes, and the free values: results that the spec leaves open are opaque constants, so that
nothing can be proved of them (DESIGN CHOICE, notes/assumptions/2.md, 8.md). -/

namespace Sys2Proof.Config

/-- Whether an FP32 special function answers the upper of the two FP32 values around its exact result (R162 allows any
value within 1 ulp). Applied to the function's number in R41 order and the operand. -/
opaque sfUpper : Nat → Word → Bool

/-- A byte read from a line under a key other than the one it was written with (R290, R292): one more than the key it was written with
(0 for a line never written), the key it is read with, the address, and the byte stored. -/
opaque wrongKey : Nat → Nat → Nat → Byte → Byte

/-- Whether the host's root complex completes AtomicOps of 8 bytes (R109). -/
opaque hostAtomics : Bool

/-- Populated DDR-5 capacity in bytes (R257), at most 12 TiB. -/
opaque ddrBytes : Nat

/-- The FP32 data of a free value: `n` is the State's free-value counter (DESIGN CHOICE, notes/assumptions/2.md). -/
opaque freeWord : Nat → Word

/-- The package's own id on the Tarnil fabric (R93, R407). -/
opaque packageId : BitVec 16

/-- The temperature that a Pavilion measures, in 1/16 K, at a device time (R401, R402). -/
opaque pavTemp : Nat → Nat → BitVec 16

/-- The detuning of a ring that has just locked, by Pavilion, ring and device time (R402). -/
opaque ringErr : Nat → Nat → Nat → Nat

/-- The energy in µJ that a compute die is predicted to draw in a window at an operating point, by window, die and index (R416). -/
opaque predicted : Nat → Nat → Nat → Nat

/-- A compute die's part of the compute dies' share of a window's energy, by window, die and share (R416). -/
opaque diePart : Nat → Nat → Nat → Nat

end Sys2Proof.Config
end

