-- ==== Sys2Proof/Machine/FMap.lean ====
section
/-! DEFINITION. Sparse maps as plain data: a list of (key, value) pairs in one canonical form, keys strictly rising and
no value equal to the default. Equal maps in canonical form are equal lists. -/

namespace Sys2Proof.Machine

/-- A total map from `Nat` that lists only the entries that differ from `default`. -/
abbrev FMap (α : Type) := List (Nat × α)

/-- The value at `k`: the first listed one, else the default. -/
def FMap.get {α : Type} [Inhabited α] : FMap α → Nat → α
  | [], _ => default
  | (j, v) :: m, k => if j = k then v else FMap.get m k

/-- Insert `(k, v)` before the first key above `k`. -/
def FMap.insert {α : Type} (k : Nat) (v : α) : FMap α → FMap α
  | [] => [(k, v)]
  | (j, w) :: m => if k < j then (k, v) :: (j, w) :: m else (j, w) :: FMap.insert k v m

/-- Drop every entry at `k`. -/
def FMap.erase {α : Type} (m : FMap α) (k : Nat) : FMap α :=
  m.filter (fun e => decide (e.1 ≠ k))

/-- The map that reads `v` at `k` and as before elsewhere. Writing the default removes the entry. -/
def FMap.set {α : Type} [Inhabited α] [DecidableEq α] (m : FMap α) (k : Nat) (v : α) : FMap α :=
  if v = default then FMap.erase m k else FMap.insert k v (FMap.erase m k)

/-- Every key of the map lies above `k`. -/
def FMap.above {α : Type} (k : Nat) (m : FMap α) : Bool := m.all (fun e => decide (k < e.1))

/-- The canonical form: keys strictly rising, no default value listed. -/
def FMap.wf {α : Type} [Inhabited α] [DecidableEq α] : FMap α → Bool
  | [] => true
  | (k, v) :: m => decide (v ≠ default) && FMap.above k m && FMap.wf m

/-- Apply `f` to the value at `k`. -/
def FMap.modify {α : Type} [Inhabited α] [DecidableEq α] (m : FMap α) (k : Nat) (f : α → α) : FMap α :=
  m.set k (f (m.get k))

/-- The keys listed, in rising order. -/
def FMap.keys {α : Type} (m : FMap α) : List Nat := m.map (·.1)

/-- Write the values of `vs` at `k`, `k + 1` and so on. -/
def FMap.setMany {α : Type} [Inhabited α] [DecidableEq α] (m : FMap α) (k : Nat) : List α → FMap α
  | [] => m
  | v :: vs => FMap.setMany (m.set k v) (k + 1) vs

/-- The `n` values at `k`, `k + 1` and so on. -/
def FMap.getMany {α : Type} [Inhabited α] (m : FMap α) (k : Nat) : Nat → List α
  | 0 => []
  | n + 1 => m.get k :: FMap.getMany m (k + 1) n

end Sys2Proof.Machine
end

