-- ==== Sys2Proof/Machine/GridTypes.lean ====
section
/-! DEFINITION. The state of a core's Trellis (08_trellis.md): resident configurations, tokens, operands, edge nodes, colours,
captured pelotons, circuits, and the Kickstand registers. -/

namespace Sys2Proof.Machine

/-- A token (R314, R315) with the configuration it belongs to. `edge` says that `elem` is an edge node (R51). `src` is what sent it: an
element, 64 + an edge node, or, from another core, 128 × (that core + 1) + its tap (R319). -/
structure Tok where
  handle : Nat
  ctx : Nat
  colour : Nat
  tag : Nat
  edge : Bool
  elem : Nat
  slot : Nat
  port : Nat
  core : Nat
  width : Nat
  poison : Bool
  null : Bool
  stop : Nat
  fmt : Nat
  lanes : List Word
  route : Option DWord
  src : Nat
  deriving DecidableEq, Repr, Inhabited

/-- An operand waiting in an element's Arbour, or spilled from it (R320), with the count of the core's clock at its arrival (R16, R322). -/
structure Opd where
  tok : Tok
  spilled : Bool
  at_ : Nat
  deriving DecidableEq, Repr, Inhabited

/-- One element of an image (R309): slot words by slot, constants, and the scalar, vector and control switch words. -/
structure Elem where
  slots : FMap DWord
  consts : FMap Word
  scalar : Nat
  vector : Nat
  control : Nat
  deriving DecidableEq, Repr, Inhabited

/-- A placement image (R308 to R311). Edge records are numbers of 128 bits by node. -/
structure Image where
  captured : Bool
  saved : Bool
  spred : Nat
  head : DWord
  althalf : DWord
  altqtr : DWord
  orig : DWord
  colours : Nat
  elems : FMap Elem
  /-- The live-in map, lowest address first (R311). -/
  map : List DWord
  edges : FMap Nat
  deriving DecidableEq, Repr, Inhabited

/-- An address generator in layout mode (R199, R334): the layout lanes in force, the iterator, and the layout to follow. -/
structure Agen where
  active : Bool
  colour : Nat
  tag : Nat
  layout : List Word
  it : List Nat
  /-- The layout to follow: its colour, its tag and its lanes. -/
  nextL : Option (Nat × Nat × List Word)
  /-- A coordinate with an uncorrectable error has poisoned the rest of the fibre (R340). -/
  bad : Bool
  deriving DecidableEq, Repr, Inhabited

/-- A configuration of a reduction element (R198): operation, level, destination and port. -/
structure RedCfg where
  op : Nat
  level : Nat
  dst : Nat
  port : Nat
  deriving DecidableEq, Repr, Inhabited

/-- A reduction element (R198, R335): its configuration, the one to follow, the lanes of its four partials, arrivals, and poison. -/
structure Red where
  cfg : Option RedCfg
  nextCfg : Option RedCfg
  parts : FMap (List Word)
  j : Nat
  poison : Bool
  deriving DecidableEq, Repr, Inhabited

/-- A width adapter's conversion (R201). -/
structure Wad where
  sat : Bool
  target : Nat
  deriving DecidableEq, Repr, Inhabited

/-- A coordinate node's place in its two fibres (R200): positions and last coordinates. -/
structure Fib where
  posA : Nat
  posB : Nat
  lastA : Option Word
  lastB : Option Word
  deriving DecidableEq, Repr, Inhabited

/-- Where a resident configuration stands. -/
inductive CfgStage where
  | run
  /-- Its drop waits for its tokens to drain (R313). -/
  | dropping
  /-- Stopped at a boundary, to be shrunk or grown (`shrink`) or to be saved (R341, R342). -/
  | halted (shrink : Bool)
  /-- Overlaid by a drain configuration (R343). -/
  | clearing
  deriving DecidableEq, Repr, Inhabited

/-- A fault that a configuration without threads has met (R343, R346): code, node, slot, tag, colour number and address. -/
structure GridFault where
  code : Nat
  node : Nat
  slot : Nat
  tag : Nat
  colour : Nat
  addr : DWord
  deriving DecidableEq, Repr, Inhabited

/-- A resident configuration (R302). Captures have the head of their loop and no handle. -/
structure Cfg where
  handle : Nat
  ctx : Nat
  captured : Bool
  head : DWord
  last : DWord
  /-- Address of the image in memory, as loaded. -/
  addr : DWord
  image : Image
  stage : CfgStage
  /-- Colours held (R332). -/
  colours : List Nat
  agens : FMap Agen
  reds : FMap Red
  wads : FMap Wad
  fibs : FMap Fib
  /-- Count of the core's clock at its last firing (R344), and whether a hang has been reported. -/
  lastFire : Nat
  hung : Bool
  /-- 0 whole, 2 half or 4 quarter region; and by element the phase in force, and the count of the core's clock at its start (R341). -/
  phases : Nat
  phase : FMap Nat
  phaseSince : FMap Nat
  /-- Faults met during a shrink, which take effect once it completes (R331). -/
  faults : List GridFault
  /-- Elements that its predecessor has not yet handed over (R345). -/
  shared : List Nat
  /-- Ingress-tap stream progress: the tag of the next token sent (R337). -/
  tapTag : FMap Nat
  /-- Data tokens that an ingress tap has accepted and not yet sent, and whether the last of its stream is among them (R234, R337). -/
  tapBuf : FMap (List DWord)
  tapEnd : FMap Bool
  /-- Pages that the runtime has refused it (R286, R343): base and size. -/
  refused : List (Nat × Nat)
  /-- Of a capture: the offsets from the head, words and literals of the instructions of its body (R297, R302). -/
  code : List (Nat × Word × Word)
  /-- Of a capture: the element and slot of each instruction (R302). -/
  sites : List (Nat × Nat)
  /-- The pure sequences copied into its slots, by selector (R212, R387). -/
  useqs : FMap (List Word)
  deriving DecidableEq, Repr, Inhabited

/-- A colour of the core (R332): whether it is taken, its grant in lanes, the context and handle it serves, and the number that the
configuration's tokens name it by. -/
structure Colour where
  taken : Bool
  grant : Nat
  ctx : Nat
  handle : Nat
  num : Nat
  /-- Captured-peloton number, 0 for none. -/
  pel : Nat
  deriving DecidableEq, Repr, Inhabited

/-- An open vector circuit (R318); `since` counts the core's clock. -/
structure Circ where
  node : Nat
  dst : Nat
  left : Nat
  idle : Nat
  since : Nat
  deriving DecidableEq, Repr, Inhabited

/-- The Kickstand registers of a core (R347). KTRACE bits stand in `trace`. -/
structure Kick where
  stop : Bool
  /-- Device time and the count of the core's clock at the stop (R348). -/
  stopAt : Nat
  stopClk : Nat
  trace : Bool
  kdump : Nat
  kdcnt : Nat
  brk : FMap DWord
  trbase : Nat
  trsize : Nat
  trhead : Nat
  hrbase : Nat
  hrsize : Nat
  hrhead : Nat
  hsel : Nat
  deriving DecidableEq, Repr, Inhabited

/-- The Trellis of a core. -/
structure Grid where
  cfgs : List Cfg
  /-- Tokens sent and not yet delivered, in the order sent. -/
  toks : List Tok
  /-- Operands in the Arbours and their spill areas, in the order of arrival (R320). -/
  arb : List Opd
  colours : FMap Colour
  circuits : List Circ
  kick : Kick
  /-- Wait counters by element × 128 + slot × 8 + bucket (R322). -/
  hist : FMap Nat
  deriving DecidableEq, Repr, Inhabited

end Sys2Proof.Machine
end

