-- ==== Sys2Proof/Syntax.lean ====
section
/-! DEFINITION. The abstract syntax: the operand fields of each word format (01_words.md R28, R45, R48) and the
one inductive `Instr`, with one constructor for each row of spec/opcode_table.json. Rows without a word are the
part's indivisible events (95_what_each_step_holds.md); their constructors carry the event's arguments. -/

namespace Sys2Proof

/-! ### Thread formats (R28, R43). `g` is the guard, `nw` is NW, and `lit` is the literal word, zero where no field calls for one (R33). -/

/-- A format with D, A and B. -/
structure FA where
  g : BitVec 4
  d : BitVec 6
  a : BitVec 6
  b : BitVec 6
  nw : Bool
  lit : Word
  deriving DecidableEq, Repr, Inhabited

/-- A format with D and A; B is reserved. -/
structure FU where
  g : BitVec 4
  d : BitVec 6
  a : BitVec 6
  nw : Bool
  lit : Word
  deriving DecidableEq, Repr, Inhabited

/-- A format that writes predicate `p`; D[5:3] is reserved. -/
structure FP where
  g : BitVec 4
  p : BitVec 3
  a : BitVec 6
  b : BitVec 6
  nw : Bool
  lit : Word
  deriving DecidableEq, Repr, Inhabited

/-- A format that writes predicate `p` from A alone. -/
structure FPa where
  g : BitVec 4
  p : BitVec 3
  a : BitVec 6
  nw : Bool
  lit : Word
  deriving DecidableEq, Repr, Inhabited

/-- `sel`: FN names the predicate. -/
structure FSel where
  g : BitVec 4
  d : BitVec 6
  a : BitVec 6
  b : BitVec 6
  nw : Bool
  p : BitVec 3
  lit : Word
  deriving DecidableEq, Repr, Inhabited

/-- I format. -/
structure FI where
  g : BitVec 4
  d : BitVec 6
  a : BitVec 6
  i : BitVec 10
  lit : Word
  deriving DecidableEq, Repr, Inhabited

/-- I format of the shifts by an amount. -/
structure FSh where
  g : BitVec 4
  d : BitVec 6
  a : BitVec 6
  n : BitVec 5
  lit : Word
  deriving DecidableEq, Repr, Inhabited

/-- I format of `cmpi`. -/
structure FCi where
  g : BitVec 4
  p : BitVec 3
  a : BitVec 6
  i : BitVec 10
  lit : Word
  deriving DecidableEq, Repr, Inhabited

/-- U format. -/
structure FMv where
  g : BitVec 4
  d : BitVec 6
  i : BitVec 16
  deriving DecidableEq, Repr, Inhabited

/-- A format whose B is a format code `f`. -/
structure FSf where
  g : BitVec 4
  d : BitVec 6
  a : BitVec 6
  f : BitVec 6
  nw : Bool
  lit : Word
  deriving DecidableEq, Repr, Inhabited

/-- V format; `k` is BS. -/
structure FV where
  d : BitVec 6
  a : BitVec 6
  b : BitVec 6
  s : BitVec 6
  k : BitVec 2
  lit : Word
  deriving DecidableEq, Repr, Inhabited

/-- M format; `o` is OFF6, `c` is SC and `z` is SIZE. -/
structure FM where
  g : BitVec 4
  d : BitVec 6
  a : BitVec 6
  o : BitVec 6
  c : BitVec 2
  z : BitVec 2
  lit : Word
  deriving DecidableEq, Repr, Inhabited

/-- M format of `ldq` and `stq`. -/
structure FMq where
  g : BitVec 4
  d : BitVec 6
  a : BitVec 6
  o : BitVec 6
  lit : Word
  deriving DecidableEq, Repr, Inhabited

/-- M format of `ld.nc`. -/
structure FMn where
  g : BitVec 4
  d : BitVec 6
  a : BitVec 6
  o : BitVec 6
  z : BitVec 2
  lit : Word
  deriving DecidableEq, Repr, Inhabited

/-- M format of `pf`. -/
structure FMp where
  g : BitVec 4
  a : BitVec 6
  o : BitVec 6
  lit : Word
  deriving DecidableEq, Repr, Inhabited

/-- A format with A and B; D and NW are reserved. -/
structure FAB where
  g : BitVec 4
  a : BitVec 6
  b : BitVec 6
  lit : Word
  deriving DecidableEq, Repr, Inhabited

/-- A format with A, B and NW; D is reserved. -/
structure FABn where
  g : BitVec 4
  a : BitVec 6
  b : BitVec 6
  nw : Bool
  lit : Word
  deriving DecidableEq, Repr, Inhabited

/-- A format with A and NW; D and B are reserved. -/
structure FAn where
  g : BitVec 4
  a : BitVec 6
  nw : Bool
  lit : Word
  deriving DecidableEq, Repr, Inhabited

/-- A format with A alone. -/
structure FA1 where
  g : BitVec 4
  a : BitVec 6
  lit : Word
  deriving DecidableEq, Repr, Inhabited

/-- A word of the guard alone. -/
structure FG where
  g : BitVec 4
  deriving DecidableEq, Repr, Inhabited

/-- A format with D alone. -/
structure FD where
  g : BitVec 4
  d : BitVec 6
  nw : Bool
  deriving DecidableEq, Repr, Inhabited

/-- A format with D and A; B and NW are reserved. -/
structure FDa where
  g : BitVec 4
  d : BitVec 6
  a : BitVec 6
  lit : Word
  deriving DecidableEq, Repr, Inhabited

/-- Atomics; `w` is W. -/
structure FAm where
  g : BitVec 4
  d : BitVec 6
  a : BitVec 6
  b : BitVec 6
  w : Bool
  lit : Word
  deriving DecidableEq, Repr, Inhabited

/-- A format with D, A and B; NW is reserved. -/
structure FDab where
  g : BitVec 4
  d : BitVec 6
  a : BitVec 6
  b : BitVec 6
  lit : Word
  deriving DecidableEq, Repr, Inhabited

/-- J format. -/
structure FJ where
  g : BitVec 4
  o : BitVec 22
  deriving DecidableEq, Repr, Inhabited

/-- S format. -/
structure FS where
  g : BitVec 4
  d : BitVec 6
  n : BitVec 16
  lit : Word
  deriving DecidableEq, Repr, Inhabited

/-- X format, the user macro window; the selector is x:s. -/
structure FX where
  x : BitVec 2
  g : BitVec 4
  d : BitVec 6
  a : BitVec 6
  b : BitVec 6
  s : BitVec 4
  lit : Word
  deriving DecidableEq, Repr, Inhabited

/-! ### Static fields of Trellis-only words (R197) -/

/-- `unpack`: `c` is the static colour. -/
structure TUnpack where
  c : BitVec 4
  a : BitVec 6
  b : BitVec 6
  deriving DecidableEq, Repr, Inhabited

/-- `red.cfg`: `l` is the level and `o` the operation. -/
structure TRed where
  l : BitVec 2
  o : BitVec 3
  a : BitVec 6
  b : BitVec 6
  deriving DecidableEq, Repr, Inhabited

/-- `eos`: `l` is the level. -/
structure TEos where
  l : BitVec 2
  a : BitVec 6
  deriving DecidableEq, Repr, Inhabited

/-- `wadapt`: `s` is SAT and `f` the target tag. -/
structure TWadapt where
  s : Bool
  f : BitVec 4
  a : BitVec 6
  deriving DecidableEq, Repr, Inhabited

/-! ### Cadence formats (R45, R176, R180, R182) -/

/-- `mma`: `z` is ZA. -/
structure CMma where
  d : BitVec 5
  a : BitVec 5
  b : BitVec 5
  z : Bool
  deriving DecidableEq, Repr, Inhabited

/-- `mma.mxf6`: `p` and `q` are the FP6 kinds of A and B. -/
structure CMxf6 where
  d : BitVec 5
  a : BitVec 5
  b : BitVec 5
  q : Bool
  p : Bool
  z : Bool
  deriving DecidableEq, Repr, Inhabited

/-- `tld`: `k` is KC2 and `c` is SC. -/
structure CTld where
  d : BitVec 5
  a : BitVec 5
  b : BitVec 5
  k : Bool
  c : Bool
  deriving DecidableEq, Repr, Inhabited

/-- `tst`: `t` selects an accumulator. -/
structure CTst where
  d : BitVec 5
  a : BitVec 5
  b : BitVec 5
  t : Bool
  deriving DecidableEq, Repr, Inhabited

/-- `tst` to FP8: `s` is SAT. -/
structure CTstS where
  d : BitVec 5
  a : BitVec 5
  b : BitVec 5
  s : Bool
  t : Bool
  deriving DecidableEq, Repr, Inhabited

/-! ### Arguments of events -/

/-- A Tarnil packet (R407): its header fields and the payload bytes that follow. `rsvd` is true when a reserved
field is non-zero. -/
structure Packet where
  typ : Nat
  cls : Nat
  len : Nat
  src : Nat
  dst : Nat
  ctx : Nat
  tag : Nat
  offset : Nat
  size : Nat
  aop : Nat
  rsvd : Bool
  reason : Nat
  data : List Byte
  deriving DecidableEq, Repr, Inhabited

/-- What the counters measured in one window (R414, R416): the energy in microjoules of each compute die, of the memory dies, of the Commons
and the Pavilions, and of the rest of the package; the busy core cycles by die and launch; and the lines and flits that each launch moved. A
launch is named by context × 2^32 + id. The measured figures come from outside the model. -/
structure Measure where
  dies : List (Nat × Nat)
  mems : Nat
  commons : Nat
  rest : Nat
  busy : List (Nat × Nat × Nat)
  moved : List (Nat × Nat)
  deriving DecidableEq, Repr, Inhabited

/-- The unit that an error or a self-test names (R423, R424): `kind` as byte 8 of the error record. -/
structure UnitId where
  kind : Nat
  die : Nat
  idx : Nat
  addr : DWord
  deriving DecidableEq, Repr, Inhabited

/-- The instructions and events of spec/opcode_table.json, one constructor for each row. The words that may stand in a slot or a captured
loop come first: Lean's code generator lays out constructors with fields up to the 245th of a type (DESIGN CHOICE, notes/assumptions/3.md). -/
inductive Instr where
  /-- Writes the 32-bit sum of A and B to D (R63). -/
  | add (f : FA)
  /-- Writes the 32-bit difference A minus B to D (R63). -/
  | sub (f : FA)
  /-- Writes the bitwise and of A and B to D (R63). -/
  | and (f : FA)
  /-- Writes the bitwise or of A and B to D (R63). -/
  | or (f : FA)
  /-- Writes the bitwise xor of A and B to D (R63). -/
  | xor (f : FA)
  /-- Writes A and not B to D (R63). -/
  | andn (f : FA)
  /-- Writes A or not B to D (R63). -/
  | orn (f : FA)
  /-- Writes not (A xor B) to D (R63). -/
  | xnor (f : FA)
  /-- Shifts A left by the unsigned amount B, giving 0 for amounts of 32 or more (R63). -/
  | shl (f : FA)
  /-- Shifts A right logically by the unsigned amount B (R63). -/
  | shr (f : FA)
  /-- Shifts A right arithmetically by the unsigned amount B (R63). -/
  | sra (f : FA)
  /-- Rotates A left by B[4:0] (R63). -/
  | rol (f : FA)
  /-- Rotates A right by B[4:0] (R63). -/
  | ror (f : FA)
  /-- Counts the leading zero bits of A (R63). -/
  | clz (f : FU)
  /-- Counts the one bits of A (R63). -/
  | popc (f : FU)
  /-- Reverses the bit order of A (R63). -/
  | brev (f : FU)
  /-- Writes the signed minimum of A and B (R63). -/
  | minS (f : FA)
  /-- Writes the signed maximum of A and B (R63). -/
  | maxS (f : FA)
  /-- Writes the unsigned minimum of A and B (R63). -/
  | minU (f : FA)
  /-- Writes the unsigned maximum of A and B (R63). -/
  | maxU (f : FA)
  /-- Writes the two's-complement absolute value of A (R63). -/
  | abs (f : FU)
  /-- Writes 0 minus A (R63). -/
  | neg (f : FU)
  /-- Sign-extends A[7:0] (R63). -/
  | sextB (f : FU)
  /-- Sign-extends A[15:0] (R63). -/
  | sextH (f : FU)
  /-- Writes the low 32 bits of A times B (R64). -/
  | mul (f : FA)
  /-- Writes the high 32 bits of the signed 64-bit product (R64). -/
  | mulhiS (f : FA)
  /-- Writes the high 32 bits of the unsigned 64-bit product (R64). -/
  | mulhiU (f : FA)
  /-- Writes A times B plus the old D, modulo 2^32 (R64). -/
  | mad (f : FA)
  /-- Signed division toward zero with fixed results for the edge cases (R64). -/
  | divS (f : FA)
  /-- Unsigned division, 0xFFFF_FFFF on division by zero (R64). -/
  | divU (f : FA)
  /-- Signed remainder with the sign of the dividend (R64). -/
  | remS (f : FA)
  /-- Unsigned remainder, A on division by zero (R64). -/
  | remU (f : FA)
  /-- Adds two 64-bit pairs (R65). -/
  | addD (f : FA)
  /-- Subtracts two 64-bit pairs (R65). -/
  | subD (f : FA)
  /-- 64-bit multiply-add with the old pair D (R65). -/
  | madD (f : FA)
  /-- Exact signed 64-bit product of two 32-bit operands (R65). -/
  | mulwS (f : FA)
  /-- Exact unsigned 64-bit product of two 32-bit operands (R65). -/
  | mulwU (f : FA)
  /-- Shifts a 64-bit pair left by a 32-bit amount (R65). -/
  | shlD (f : FA)
  /-- Shifts a 64-bit pair right logically (R65). -/
  | shrD (f : FA)
  /-- Shifts a 64-bit pair right arithmetically (R65). -/
  | sraD (f : FA)
  /-- Sets predicate D[2:0] to A = B (R69). -/
  | cmpEq (f : FP)
  /-- Sets the predicate to A ≠ B (R69). -/
  | cmpNe (f : FP)
  /-- Sets the predicate to signed A < B (R69). -/
  | cmpLtS (f : FP)
  /-- Sets the predicate to signed A ≤ B (R69). -/
  | cmpLeS (f : FP)
  /-- Sets the predicate to unsigned A < B (R69). -/
  | cmpLtU (f : FP)
  /-- Sets the predicate to unsigned A ≤ B (R69). -/
  | cmpLeU (f : FP)
  /-- Sets the predicate to (A and B) ≠ 0 (R69). -/
  | cmpTst (f : FP)
  /-- Sets the predicate to (A and B) = 0 (R69). -/
  | cmpTstn (f : FP)
  /-- Writes A or B to D according to the predicate named by FN (R70). -/
  | sel (f : FSel)
  /-- Extracts a zero-extended bit field of A described by B (R66). -/
  | bfxU (f : FA)
  /-- Extracts a sign-extended bit field of A described by B (R66). -/
  | bfxS (f : FA)
  /-- Inserts the low bits of A into a field of the old D (R66). -/
  | bfi (f : FA)
  /-- Copies A to D (R66). -/
  | mov (f : FU)
  /-- Forms pair A plus sign-extended B shifted left by 1 (R66). -/
  | lea2 (f : FA)
  /-- Forms pair A plus sign-extended B shifted left by 2 (R66). -/
  | lea4 (f : FA)
  /-- Forms pair A plus sign-extended B shifted left by 3 (R66). -/
  | lea8 (f : FA)
  /-- Forms pair A plus sign-extended B shifted left by 4 (R66). -/
  | lea16 (f : FA)
  /-- Adds the sign-extended IMM10 to A (R67). -/
  | addi (f : FI)
  /-- Ands A with the sign-extended IMM10 (R67). -/
  | andi (f : FI)
  /-- Ors A with the sign-extended IMM10 (R67). -/
  | ori (f : FI)
  /-- Xors A with the sign-extended IMM10 (R67). -/
  | xori (f : FI)
  /-- Shifts A left by an immediate amount (R67). -/
  | shli (f : FSh)
  /-- Shifts A right logically by an immediate amount (R67). -/
  | shri (f : FSh)
  /-- Shifts A right arithmetically by an immediate amount (R67). -/
  | srai (f : FSh)
  /-- Rotates A left by an immediate amount (R67). -/
  | roli (f : FSh)
  /-- Sets a predicate to A = immediate (R67). -/
  | cmpiEq (f : FCi)
  /-- Sets a predicate to A ≠ immediate (R67). -/
  | cmpiNe (f : FCi)
  /-- Sets a predicate to signed A < immediate (R67). -/
  | cmpiLtS (f : FCi)
  /-- Sets a predicate to signed A ≤ immediate (R67). -/
  | cmpiLeS (f : FCi)
  /-- Sets a predicate to unsigned A < immediate (R67). -/
  | cmpiLtU (f : FCi)
  /-- Sets a predicate to unsigned A ≤ immediate (R67). -/
  | cmpiLeU (f : FCi)
  /-- Sets a predicate to signed A > immediate (R67). -/
  | cmpiGtS (f : FCi)
  /-- Sets a predicate to unsigned A > immediate (R67). -/
  | cmpiGtU (f : FCi)
  /-- Writes the sign-extended IMM16 to D (R68). -/
  | movi (f : FMv)
  /-- Replaces the high half of D with IMM16 (R68). -/
  | movhi (f : FMv)
  /-- FP32 addition rounded under fpcr.rnd (R144). -/
  | fadd (f : FA)
  /-- FP32 subtraction rounded under fpcr.rnd (R144). -/
  | fsub (f : FA)
  /-- FP32 multiplication rounded under fpcr.rnd (R144). -/
  | fmul (f : FA)
  /-- FP32 minimum with the NaN and signed-zero rules (R144). -/
  | fmin (f : FA)
  /-- FP32 maximum with the NaN and signed-zero rules (R144). -/
  | fmax (f : FA)
  /-- Clears bit 31 of A (R144). -/
  | fabs (f : FU)
  /-- Inverts bit 31 of A (R144). -/
  | fneg (f : FU)
  /-- Takes A's magnitude bits with B's sign (R144). -/
  | fcpsgn (f : FA)
  /-- Fused A×B+D with one rounding (R145). -/
  | fma (f : FA)
  /-- Fused A×B−D (R145). -/
  | fms (f : FA)
  /-- Fused −(A×B)+D (R145). -/
  | fnma (f : FA)
  /-- Fused −(A×B)−D (R145). -/
  | fnms (f : FA)
  /-- Multiplies packed FP16 halves (R145). -/
  | fmulH2 (f : FA)
  /-- Adds packed FP16 halves (R145). -/
  | faddH2 (f : FA)
  /-- Fused multiply-add on packed FP16 halves (R145). -/
  | fmaH2 (f : FA)
  /-- Fused multiply-add on packed BF16 halves (R145). -/
  | fmaB2 (f : FA)
  /-- Sets a predicate to A = B in FP32 (R146). -/
  | fcmpEq (f : FP)
  /-- Sets a predicate to A ≠ B, true when unordered (R146). -/
  | fcmpNe (f : FP)
  /-- Sets a predicate to A < B (R146). -/
  | fcmpLt (f : FP)
  /-- Sets a predicate to A ≤ B (R146). -/
  | fcmpLe (f : FP)
  /-- Sets a predicate to A ≥ B (R146). -/
  | fcmpGe (f : FP)
  /-- Sets a predicate to A > B (R146). -/
  | fcmpGt (f : FP)
  /-- Sets a predicate when A or B is NaN (R146). -/
  | fcmpUn (f : FP)
  /-- Sets a predicate when neither operand is NaN (R146). -/
  | fcmpOrd (f : FP)
  /-- Converts a signed integer to FP32 (R147). -/
  | cvtF32S (f : FU)
  /-- Converts FP32 to a saturated signed integer (R147). -/
  | cvtSF32 (f : FU)
  /-- Converts an unsigned integer to FP32 (R147). -/
  | cvtF32U (f : FU)
  /-- Converts FP32 to a saturated unsigned integer (R147). -/
  | cvtUF32 (f : FU)
  /-- Converts FP16 to FP32 exactly (R147). -/
  | cvtF32F16 (f : FU)
  /-- Converts FP32 to FP16 under fpcr.rnd (R147). -/
  | cvtF16F32 (f : FU)
  /-- Converts BF16 to FP32 exactly (R147). -/
  | cvtF32Bf16 (f : FU)
  /-- Converts FP32 to BF16 under fpcr.rnd (R147). -/
  | cvtBf16F32 (f : FU)
  /-- Rounds A to an integral value, nearest-even (R148). -/
  | frndNe (f : FU)
  /-- Rounds A to an integral value toward zero (R148). -/
  | frndZ (f : FU)
  /-- Rounds A to an integral value downward (R148). -/
  | frndDn (f : FU)
  /-- Rounds A to an integral value upward (R148). -/
  | frndUp (f : FU)
  /-- Writes the one-hot class mask of A (R148). -/
  | fcls (f : FU)
  /-- Scales A by 2 to the clamped power B (R148). -/
  | fldexp (f : FA)
  /-- Writes the unbiased exponent of A (R148). -/
  | fgetexp (f : FU)
  /-- Writes the mantissa of A normalised to [1, 2) (R148). -/
  | fgetman (f : FU)
  /-- Adds packed BF16 halves (R149). -/
  | addB2 (f : FA)
  /-- Subtracts packed BF16 halves (R149). -/
  | subB2 (f : FA)
  /-- Multiplies packed BF16 halves (R149). -/
  | mulB2 (f : FA)
  /-- BF16 minimum per half (R149). -/
  | minB2 (f : FA)
  /-- BF16 maximum per half (R149). -/
  | maxB2 (f : FA)
  /-- Subtracts packed FP16 halves (R149). -/
  | subH2 (f : FA)
  /-- FP16 minimum per half (R149). -/
  | minH2 (f : FA)
  /-- FP16 maximum per half (R149). -/
  | maxH2 (f : FA)
  /-- Packs four scaled FP32 registers into E4M3 codes (R151). -/
  | npkE4m3 (f : FA)
  /-- Packs four scaled FP32 registers into E5M2 codes (R151). -/
  | npkE5m2 (f : FA)
  /-- Packs five scaled FP32 registers into E3M2 codes (R151). -/
  | npkE3m2 (f : FA)
  /-- Packs five scaled FP32 registers into E2M3 codes (R151). -/
  | npkE2m3 (f : FA)
  /-- Packs eight scaled FP32 registers into E2M1 codes (R151). -/
  | npkE2m1 (f : FA)
  /-- Packs four scaled FP32 registers into INT8 codes (R151). -/
  | npkI8 (f : FA)
  /-- Packs eight scaled FP32 registers into INT4 codes (R151). -/
  | npkI4 (f : FA)
  /-- Unpacks four E4M3 codes to scaled BF16 (R152). -/
  | nupE4m3 (f : FA)
  /-- Unpacks four E5M2 codes to scaled BF16 (R152). -/
  | nupE5m2 (f : FA)
  /-- Unpacks five E3M2 codes to scaled BF16 (R152). -/
  | nupE3m2 (f : FA)
  /-- Unpacks five E2M3 codes to scaled BF16 (R152). -/
  | nupE2m3 (f : FA)
  /-- Unpacks eight E2M1 codes to scaled BF16 (R152). -/
  | nupE2m1 (f : FA)
  /-- Unpacks four INT8 codes to scaled BF16 (R152). -/
  | nupI8 (f : FA)
  /-- Unpacks eight INT4 codes to scaled BF16 (R152). -/
  | nupI4 (f : FA)
  /-- Accumulates a 4-element E4M3 dot product into D (R153). -/
  | dot4E4 (f : FA)
  /-- Accumulates a 4-element E5M2 dot product into D (R153). -/
  | dot4E5 (f : FA)
  /-- Accumulates an 8-element E2M1 dot product into D (R153). -/
  | dot8F4 (f : FA)
  /-- Accumulates a 4-element INT8 dot product modulo 2^32 (R153). -/
  | dot4I8 (f : FA)
  /-- Accumulates an 8-element INT4 dot product modulo 2^32 (R153). -/
  | dot8I4 (f : FA)
  /-- Accumulates a 2-element BF16 dot product in FP32 (R153). -/
  | dot2B2 (f : FA)
  /-- Accumulates a 2-element FP16 dot product in FP32 (R153). -/
  | dot2H2 (f : FA)
  /-- BF16 dot product that flushes subnormals (R153). -/
  | dot2B2f (f : FA)
  /-- Collective MX-scaled E2M1 dot accumulated into D (R154). -/
  | vmxF4 (f : FV)
  /-- Collective MX-scaled E4M3 dot accumulated into D (R154). -/
  | vmxE4 (f : FV)
  /-- Collective MX-scaled E5M2 dot accumulated into D (R154). -/
  | vmxE5 (f : FV)
  /-- Collective block quantisation to E2M1 codes (R155). -/
  | qntF4 (f : FA)
  /-- Collective block quantisation to E4M3 codes (R155). -/
  | qntE4 (f : FA)
  /-- Collective block quantisation to E5M2 codes (R155). -/
  | qntE5 (f : FA)
  /-- E2M1 quantisation electing outliers and appending them to a list in memory (R156). -/
  | qntF4o (f : FA)
  /-- E4M3 quantisation electing outliers and appending them to a list in memory (R156). -/
  | qntE4o (f : FA)
  /-- Collective largest magnitude of the non-elected block elements (R158). -/
  | amaxL (f : FA)
  /-- Turns a magnitude into an E8M0 scale for a target format (R159). -/
  | scl (f : FA)
  /-- Decodes the low KC2 index of A into eight E2M1 codes (R160). -/
  | kc2DecLo (f : FU)
  /-- Decodes the high KC2 index of A into eight E2M1 codes (R160). -/
  | kc2DecHi (f : FU)
  /-- Loads codebook entries from memory as one event (R161). -/
  | cbLd (f : FAB)
  /-- Natural exponential in the chosen format (R162). -/
  | exp (f : FSf)
  /-- Base-2 exponential (R162). -/
  | exp2 (f : FSf)
  /-- Natural logarithm (R162). -/
  | ln (f : FSf)
  /-- Base-2 logarithm (R162). -/
  | log2 (f : FSf)
  /-- Reciprocal (R162). -/
  | rcp (f : FSf)
  /-- Reciprocal square root (R162). -/
  | rsqrt (f : FSf)
  /-- Square root (R162). -/
  | sqrt (f : FSf)
  /-- Error function (R162). -/
  | erf (f : FSf)
  /-- Hyperbolic tangent (R162). -/
  | tanh (f : FSf)
  /-- Logistic sigmoid (R162). -/
  | sigm (f : FSf)
  /-- GELU computed as one function (R162). -/
  | gelu (f : FSf)
  /-- SiLU computed as one function (R162). -/
  | silu (f : FSf)
  /-- Sine with exact argument reduction (R162). -/
  | sin (f : FSf)
  /-- Cosine with exact argument reduction (R162). -/
  | cos (f : FSf)
  /-- Evaluates the piecewise-linear function of the active table bank (R163). -/
  | tbl (f : FSf)
  /-- Collective row maximum, treating MASK as absent (R166). -/
  | rsMax (f : FA)
  /-- Collective sum of exp(a − m) over the row in tree order (R166). -/
  | rsSexp (f : FA)
  /-- Collective exact row mean with one rounding (R166). -/
  | rsMean (f : FA)
  /-- Collective exact deviation sum about B (R166). -/
  | rsDev (f : FA)
  /-- Collective normalisation factor from a deviation sum (R166). -/
  | rsFin (f : FA)
  /-- Collective per-member softmax result, setting allmask on a masked row (R166). -/
  | smxFin (f : FA)
  /-- Writes the MASK code when B is non-zero, else A (R165). -/
  | mask (f : FA)
  /-- Lane collective reading A from an indexed lane (R75). -/
  | shflIdx (f : FA)
  /-- Lane collective reading A from a lower lane (R75). -/
  | shflUp (f : FA)
  /-- Lane collective reading A from a higher lane (R75). -/
  | shflDn (f : FA)
  /-- Lane collective reading A from lane L xor B (R75). -/
  | shflXor (f : FA)
  /-- Lane mask of active members with non-zero A (R75). -/
  | ballot (f : FU)
  /-- Lane mask of active members whose A equals the own A (R75). -/
  | laneMatch (f : FU)
  /-- 1 if some active member has non-zero A (R75). -/
  | laneAny (f : FU)
  /-- 1 if every active member has non-zero A (R75). -/
  | laneAll (f : FU)
  /-- Lane reduction by integer sum (R76). -/
  | redAdd (f : FU)
  /-- Lane reduction by signed minimum (R76). -/
  | redMin (f : FU)
  /-- Lane reduction by signed maximum (R76). -/
  | redMax (f : FU)
  /-- Lane reduction by bitwise and (R76). -/
  | redAnd (f : FU)
  /-- Lane reduction by bitwise or (R76). -/
  | redOr (f : FU)
  /-- Lane FP32 sum in the fixed tree order (R77). -/
  | redFadd (f : FU)
  /-- Inclusive integer prefix sum over active lanes (R76). -/
  | scanAdd (f : FU)
  /-- Inclusive FP32 prefix sum in ascending lane order (R77). -/
  | scanFadd (f : FU)
  /-- Loads a 2,064-byte table image into the shadow bank (R164). -/
  | tblLd (f : FA1)
  /-- Swaps the shadow and active table banks once all loads complete (R164). -/
  | tblSw (f : FG)
  /-- Reads a word of a table bank image (R164). -/
  | tblRd (f : FA)
  /-- Plain load, zero-extended (R98). -/
  | ld (f : FM)
  /-- Plain load of a byte or half, sign-extended (R98). -/
  | lds (f : FM)
  /-- Plain store of the low bytes of D (R98). -/
  | st (f : FM)
  /-- Loads 16 bytes into four registers (R98). -/
  | ldq (f : FMq)
  /-- Stores four registers as 16 bytes (R98). -/
  | stq (f : FMq)
  /-- Load read from home without using or keeping an L1 copy (R98). -/
  | ldNc (f : FMn)
  /-- Prefetches a line into the L1 and never faults (R100). -/
  | pf (f : FMp)
  /-- Acquire load read from home at a scope (R101). -/
  | lda (f : FM)
  /-- Release store after a scoped fence wait (R101). -/
  | stl (f : FM)
  /-- Atomic add at the home, returning the old value (R107). -/
  | amoAdd (f : FAm)
  /-- Atomic signed minimum (R107). -/
  | amoMinS (f : FAm)
  /-- Atomic signed maximum (R107). -/
  | amoMaxS (f : FAm)
  /-- Atomic unsigned minimum (R107). -/
  | amoMinU (f : FAm)
  /-- Atomic unsigned maximum (R107). -/
  | amoMaxU (f : FAm)
  /-- Atomic and (R107). -/
  | amoAnd (f : FAm)
  /-- Atomic or (R107). -/
  | amoOr (f : FAm)
  /-- Atomic xor (R107). -/
  | amoXor (f : FAm)
  /-- Atomic exchange (R107). -/
  | amoXchg (f : FAm)
  /-- Atomic compare-and-swap (R107). -/
  | amoCas (f : FAm)
  /-- Atomic FP32 add rounded to nearest-even (R107). -/
  | amoFadd (f : FDab)
  /-- Atomic add of two BF16 halves (R107). -/
  | amoFaddB2 (f : FDab)
  /-- Atomic FP32 maximum (R108). -/
  | amoFmax (f : FDab)
  /-- Atomic wrapping increment (R107). -/
  | amoIncW (f : FDab)
  /-- Atomic wrapping decrement (R107). -/
  | amoDecW (f : FDab)
  /-- PC-relative branch (R80). -/
  | br (f : FJ)
  /-- Runs the bound micro-sequence at a selector: compute phase, then commits (R210). -/
  | userMacro (f : FX)
  /-- Trellis word requesting a width grant for a colour (R197). -/
  | calloc (a : BitVec 6)
  /-- Trellis word joining the lanes of two tokens (R197). -/
  | pack (a b : BitVec 6)
  /-- Trellis word splitting a token's lanes in two (R197). -/
  | unpack (f : TUnpack)
  /-- Trellis word forwarding the token selected by a predicate (R197). -/
  | merge (a b : BitVec 6)
  /-- Trellis word routing a token by a predicate (R197). -/
  | steer (a : BitVec 6)
  /-- Trellis word configuring a reduction element (R198). -/
  | redCfg (f : TRed)
  /-- Trellis word sending a layout to an address generator (R199). -/
  | agen (a : BitVec 6)
  /-- Trellis word intersecting two coordinate fibres (R200). -/
  | isect (a b : BitVec 6)
  /-- Trellis word forming the union of two coordinate fibres (R200). -/
  | unionCoord (a b : BitVec 6)
  /-- Trellis word emitting a stop token of a level (R197). -/
  | eos (f : TEos)
  /-- Trellis word sending a token out of the grid with a route word (R338). -/
  | emit (a b : BitVec 6)
  /-- Trellis word setting a width adapter's conversion (R201). -/
  | wadapt (f : TWadapt)
  /-- Clears the full bits of n scratchpad lines (R104). -/
  | feClr (f : FAB)
  /-- Sets the full bits of n scratchpad lines after earlier window-1 stores (R104). -/
  | feSet (f : FAB)
  /-- Copies a line's full bit to a predicate (R104). -/
  | feTst (f : FPa)
  /-- Waits until a line's full bit is set (R104). -/
  | feWt (f : FAn)
  /-- Starts a gather performed by the Commons memory nodes (R115). -/
  | gat (f : FAB)
  /-- Starts a scatter performed by the Commons memory nodes (R115). -/
  | sct (f : FAB)
  /-- Allocates an ordering-token handle of the plot (R117). -/
  | otkNew (f : FD)
  /-- Waits for every operation on a handle and frees it (R117). -/
  | otkWt (f : FA1)
  /-- Waits for earlier loads, atomics and window-1 stores (R111). -/
  | fenceCore (f : FG)
  /-- Waits for earlier accesses and dtime beyond T.die (R111). -/
  | fenceDie (f : FG)
  /-- Waits for earlier accesses and dtime beyond T.pkg (R111). -/
  | fencePkg (f : FG)
  /-- Waits for earlier accesses and dtime beyond T.sys (R111). -/
  | fenceSys (f : FG)
  /-- Releases the named paths and makes acquired paths observe them (R112). -/
  | xfence (f : FAB)
  /-- Writes a completion time of the thread to a pair (R113). -/
  | gwct (f : FDa)
  /-- Makes later loads use only leases granted after it (R114). -/
  | leaseDrop (f : FG)
  /-- Arrives at the next phase of a group barrier (R119). -/
  | barArr (f : FA1)
  /-- Waits for the phase of the last group arrival (R119). -/
  | barWt (f : FA1)
  /-- Arrives at a group barrier and waits (R119). -/
  | barSync (f : FA1)
  /-- Arrives at a numbered barrier, releasing to the M path (R121). -/
  | nbarArr (f : FA1)
  /-- Waits for the phase of the last numbered-barrier arrival (R121). -/
  | nbarWt (f : FA1)
  /-- Waits until a barrier object reaches REMAIN 0 (R122). -/
  | bwait (f : FA1)
  /-- Initialises a barrier object atomically (R122). -/
  | bobjInit (f : FAB)
  /-- Hands copy descriptors to the copy engine and takes scoreboard entries (R124). -/
  | kick (f : FAB)
  /-- Starts a stream copy into a ring of slots (R125). -/
  | cpySt (f : FDa)
  /-- Frees the oldest filled slot of a stream (R126). -/
  | free (f : FA1)
  /-- Initialises a message ring header (R127). -/
  | ringInit (f : FABn)
  /-- Delivers a message into a plot's ring (R128). -/
  | send (f : FAn)
  /-- Consumes the message at HEAD of a ring (R127). -/
  | recvAdv (f : FAn)
  /-- PC-relative call pushing the return address (R80). -/
  | call (f : FJ)
  /-- Indirect branch (R81). -/
  | brx (f : FA1)
  /-- Indirect call (R81). -/
  | callx (f : FA1)
  /-- Pops a return address, or ends an empty-stack thread (R81). -/
  | ret (f : FG)
  /-- Ends the thread and frees its slot (R84). -/
  | exit (f : FG)
  /-- Restarts the thread's issue age (R81). -/
  | yield (f : FG)
  /-- Makes the thread not ready for a cycle count (R81). -/
  | sleep (f : FA1)
  /-- Does nothing but break the latches (R81). -/
  | nop (f : FG)
  /-- Sets the loop-monitor count of the next address to hotthr (R86). -/
  | hot (f : FG)
  /-- Creates a child thread in a spawn bin, failing at once on a full queue (R88). -/
  | spawn (f : FP)
  /-- Creates a child thread, waiting for queue room (R88). -/
  | spawnW (f : FP)
  /-- Files the thread in a regroup bin keyed by address and value (R90). -/
  | regroup (f : FA1)
  /-- Sets the capture-inhibit bit (R87). -/
  | nocap (f : FG)
  /-- Clears the capture-inhibit bit (R87). -/
  | capok (f : FG)
  /-- Raises a precise user trap (R85). -/
  | trap (f : FA1)
  /-- Submits a launch record to the die's internal ingress queue (R91). -/
  | lnch (f : FU)
  /-- Reads a special register (R92). -/
  | srd (f : FS)
  /-- Reads a control register (R130). -/
  | crd (f : FS)
  /-- Writes a control register (R130). -/
  | cwr (f : FS)
  /-- Returns from a trap handler (R133). -/
  | tret (f : FG)
  /-- Waits for an event posted to the die's runtime (R134). -/
  | wfi (f : FG)
  /-- Stops the thread until its core is reset (R134). -/
  | halt (f : FG)
  /-- Writes the ring distance between two virtual dies' physical dies (R134). -/
  | vdhop (f : FA)
  /-- Loads a placement image into the core's Trellis (R135). -/
  | cfgld (f : FA)
  /-- Removes a configuration once its tokens have drained (R134). -/
  | cfgDrop (f : FA1)
  /-- Verifies and loads a micro-sequence into a control-store bank (R136). -/
  | wcsld (f : FA)
  /-- Binds or unbinds a control-store bank for a context (R134). -/
  | wcsbind (f : FAB)
  /-- Reads an accumulator element (R195). -/
  | accRd (f : FA)
  /-- Writes an accumulator element and clears its poison (R195). -/
  | accWr (f : FDab)
  /-- Reads a 32-bit word of a tile (R195). -/
  | tileRd (f : FA)
  /-- Writes a 32-bit word of a tile (R195). -/
  | tileWr (f : FDab)
  /-- Reads an outlier-list entry (R195). -/
  | olRd (f : FA)
  /-- Writes an outlier-list entry and raises the count (R195). -/
  | olWr (f : FDab)
  /-- Reads a tile's outlier count (R195). -/
  | olCnt (f : FU)
  /-- Accumulates a BF16 tile product into an accumulator (R182). -/
  | mmaBf16 (f : CMma)
  /-- Accumulates an FP16 tile product (R182). -/
  | mmaF16 (f : CMma)
  /-- Accumulates an E4M3 tile product (R182). -/
  | mmaE4m3 (f : CMma)
  /-- Accumulates an E5M2 tile product (R182). -/
  | mmaE5m2 (f : CMma)
  /-- Accumulates a scaled E4M3 tile product (R182). -/
  | mmaMxe4 (f : CMma)
  /-- Accumulates a scaled E5M2 tile product (R182). -/
  | mmaMxe5 (f : CMma)
  /-- Accumulates a scaled FP6 tile product (R182). -/
  | mmaMxf6 (f : CMxf6)
  /-- Accumulates a scaled E2M1 tile product with outlier merge (R182). -/
  | mmaMxf4 (f : CMma)
  /-- Accumulates an INT8 tile product modulo 2^32 (R186). -/
  | mmaI8 (f : CMma)
  /-- Accumulates an INT4 tile product modulo 2^32 (R186). -/
  | mmaI4 (f : CMma)
  /-- Accumulates a BF16 product with B transposed (R182). -/
  | mmaBf16T (f : CMma)
  /-- Loads a tile, optionally its sidecar, KC2 decode and outlier list (R177). -/
  | tld (f : CTld)
  /-- Stores a tile or accumulator bits unchanged (R180). -/
  | tstRaw (f : CTst)
  /-- Stores an accumulator converted to BF16 (R180). -/
  | tstBf16 (f : CTst)
  /-- Stores an accumulator converted to FP16 (R180). -/
  | tstF16 (f : CTst)
  /-- Stores an accumulator converted to E4M3 (R180). -/
  | tstE4m3 (f : CTstS)
  /-- Stores an accumulator converted to E5M2 (R180). -/
  | tstE5m2 (f : CTstS)
  /-- Zeroes a tile's data, sidecar, list and poison (R174). -/
  | tzT (d : BitVec 5)
  /-- Zeroes an accumulator and its poison (R174). -/
  | tzA (d : BitVec 5)
  /-- Sets a tile's element width (R173). -/
  | tsetW (d a : BitVec 5)
  /-- Sets a tile's row count (R173). -/
  | tsetH (d a : BitVec 5)
  /-- Sets a tile's column count (R173). -/
  | tsetC (d a : BitVec 5)
  /-- Sets a tile's escape enable and list address (R173). -/
  | tsetEsc (d a : BitVec 5)
  /-- Adds two k registers (R189). -/
  | kadd (d a b : BitVec 5)
  /-- Subtracts two k registers (R189). -/
  | ksub (d a b : BitVec 5)
  /-- Multiplies two k registers (R189). -/
  | kmul (d a b : BitVec 5)
  /-- Ands two k registers (R189). -/
  | kand (d a b : BitVec 5)
  /-- Ors two k registers (R189). -/
  | kor (d a b : BitVec 5)
  /-- Shifts a k register left (R189). -/
  | kshl (d a b : BitVec 5)
  /-- Shifts a k register right logically (R189). -/
  | kshr (d a b : BitVec 5)
  /-- Copies a k register (R189). -/
  | kmov (d a : BitVec 5)
  /-- Adds a sign-extended immediate to a k register (R190). -/
  | kaddi (d : BitVec 5) (i : BitVec 16)
  /-- Loads a k register with a sign-extended immediate (R190). -/
  | kmovi (d : BitVec 5) (i : BitVec 16)
  /-- Pushes a counted loop onto the sequencer loop stack (R191). -/
  | krep (a : BitVec 5) (o : BitVec 16)
  /-- Branches when a k register is non-zero (R191). -/
  | kbnz (a : BitVec 5) (o : BitVec 16)
  /-- Counts down the top loop and branches or pops (R191). -/
  | kend
  /-- Sequencer arrival at a numbered barrier after its tile stores are performed (R192). -/
  | cadNbarArr (a : BitVec 5)
  /-- Sequencer wait for the phase of its last arrival (R192). -/
  | cadNbarWt (a : BitVec 5)
  /-- Ends the Cadence stream and departs the sequencer (R193). -/
  | cend
  /-- Sets a tile's outlier count to 0 (R175). -/
  | olClr (d : BitVec 5)
  /-- Sets a tile's outlier limit L (R175). -/
  | olLim (d a : BitVec 5)
  /-- Each cycle the core's packer forms and issues up to two pelotons (R217). -/
  | packerCycle (c : Nat)
  /-- When every live thread of a lane block waits at lane instructions, the collectives compute and pass as one event (R72). -/
  | laneEvent (p : Nat) (blk : Nat)
  /-- A barrier wait that has lasted 100 ms of resident time ends in BARRIER.TIMEOUT (R118). -/
  | barrierTimeout (seq : Bool) (k : Nat)
  /-- A sleeping thread becomes ready again when its count expires (R81). -/
  | sleepEnd (t : Nat)
  /-- A spawn.w waiting on a full task queue files its child when room appears (R88). -/
  | spawnQueueRoom (t : Nat)
  /-- A spawn.w still facing a full queue after 65,536 cycles gives up and clears its predicate (R88). -/
  | spawnWaitLimit (t : Nat)
  /-- A spawn bin with 32 children and 32 free lanes, or an expired bin that gains a free slot, releases children into slots (R226). -/
  | spawnBinRelease (p : Nat) (entry : DWord)
  /-- A spawn bin's timer expires and the bin is released or waits for a slot (R225). -/
  | spawnBinTimer (p : Nat) (entry : DWord)
  /-- A regroup bin that holds 32 threads, or whose plot has nothing else ready, releases its threads (R229). -/
  | regroupBinRelease (p : Nat) (pc : DWord) (v : Word)
  /-- A regroup bin's timer expires and the bin is released (R228). -/
  | regroupBinTimer (p : Nat) (pc : DWord) (v : Word)
  /-- The scheduler takes a launch record, reads its group table and checks its fields (R237). -/
  | launchTake (l : Nat)
  /-- After the runtime makes an absent group-table page present, the scheduler reads it again (R222). -/
  | groupTableReread (l : Nat)
  /-- A launch that has waited too long in its class is promoted to the next class (R241). -/
  | launchPromotion (l : Nat)
  /-- The scheduler places a plot of the oldest eligible launch on the lowest core with room (R242). -/
  | plotPlace (d : Nat)
  /-- A plot whose threads have exited, sequencer ended and accesses completed retires and frees its resources (R220). -/
  | plotRetire (p : Nat)
  /-- The runtime switches a plot out, stopping threads, grid, sequencer and copies and saving its state (R251). -/
  | contextSwitch (p : Nat)
  /-- A saved plot is restored on a core with room, keeping its home lanes (R254). -/
  | plotRestore (p : Nat)
  /-- The runtime removes a context without saving, cancelling its in-flight work (R255). -/
  | contextKill (x : Nat)
  /-- The runtime resumes a thread stopped by a fault that went to it (R131). -/
  | threadResume (t : Nat)
  /-- A TLB miss walks the four-level tables to a leaf or an ending (R286). -/
  | translationWalk (d : Nat) (x : Nat) (va : DWord) (acc : Nat)
  /-- The runtime makes a translation valid and every waiting access replays (R286). -/
  | pageResolve (d : Nat) (x : Nat) (va : DWord)
  /-- The runtime refuses a translation and the waiting access raises ADDR precisely (R286). -/
  | pageRefuse (d : Nat) (x : Nat) (va : DWord)
  /-- A write to INV starts an invalidation of a context's translations (R288). -/
  | invWrite (d : Nat) (v : DWord)
  /-- Once TLBs, walks and accesses through old entries are done, INVDONE rises (R288). -/
  | invalidationComplete (d : Nat)
  /-- A write to CTXSYNC starts dropping held copies of a context descriptor (R289). -/
  | ctxsyncWrite (d : Nat) (v : DWord)
  /-- Once every die has dropped the descriptor copy, CTXDONE rises (R289). -/
  | ctxsyncComplete (d : Nat)
  /-- A store to a device register that has no behaviour of its own stores the value (R399). -/
  | registerWrite (pa : Nat) (v : DWord)
  /-- A home slice serves a read of a line and may grant a lease (R265). -/
  | homeRead (t : Nat) (n : Nat)
  /-- A home performs a store after the line's leases end and returns its GWCT (R266). -/
  | storePerform (t : Nat) (n : Nat)
  /-- A home performs an atomic read-modify-write and returns the old value (R106). -/
  | atomicPerform (t : Nat) (n : Nat)
  /-- Load data returns to the thread and its destination is written (R268). -/
  | loadReturn (t : Nat) (n : Nat)
  /-- A fence's wait ends once accesses complete and device time passes the completion time (R111). -/
  | fenceWaitEnd (t : Nat)
  /-- Copy bytes performed at their homes are counted off the barrier object and may set full bits (R274). -/
  | copyBytesPerform (c : Nat) (n : Nat) (k : Nat)
  /-- A copy whose destination bytes are all performed retires and frees its scoreboard entry (R124). -/
  | copyRetire (c : Nat) (n : Nat)
  /-- Copies still in flight 200 µs after a switch begins are cancelled and saved with RESTART (R124). -/
  | copyCancel (c : Nat)
  /-- The copy engine fills a stream slot with the next tile and sets its full bits (R125). -/
  | streamSlotFill (c : Nat) (h : Nat)
  /-- A freed-slot notice reaches the copy engine (R280). -/
  | freedSlotNotice (c : Nat) (h : Nat)
  /-- A memory node performs one gather or scatter element and counts it off (R283). -/
  | gsElementPerform (p : Nat) (n : Nat) (i : Nat)
  /-- A send waiting for ring space writes its message once space appears (R128). -/
  | sendSpaceAvailable (t : Nat)
  /-- A send that has waited 1 ms for space raises RING.TIMEOUT (R128). -/
  | sendTimeout (t : Nat)
  /-- An event posted to the die's runtime ends a wfi (R134). -/
  | wfiWake (t : Nat)
  /-- A weight-store bank closes or reopens for its refresh window (R264). -/
  | weightBankRefresh (d : Nat) (b : Nat)
  /-- The runtime's loader writes a weight-store region (R263). -/
  | weightStoreLoad (d : Nat) (off : Nat) (data : List Byte)
  /-- A host write to an ingress port's TOKEN area delivers tokens to the port buffer (R231). -/
  | ingressTokenWrite (port : Nat) (off : Nat) (data : List Byte)
  /-- A complete launch record enters the die's ingress queue and receives a launch id (R233). -/
  | ingressRecordEnqueue (port : Nat)
  /-- Data tokens leave the port buffer when the configuration's ingress tap accepts them (R234). -/
  | ingressTapFeed (port : Nat)
  /-- Writing 1 to STATUS bits clears the sticky bits (R230). -/
  | ingressStatusClear (port : Nat) (v : Word)
  /-- A write to RESET abandons the stream and empties the port (R230). -/
  | ingressReset (port : Nat)
  /-- A host write to device memory is performed at its home before completion is returned (R294). -/
  | hostWrite (pa : Nat) (data : List Byte)
  /-- A host read of device memory reads the home (R294). -/
  | hostRead (pa : Nat) (n : Nat)
  /-- A host AtomicOp into BAR 2 is performed as a 64-bit atomic at the home (R411). -/
  | hostAtomicop (pa : Nat) (op : Nat) (x : DWord) (y : DWord)
  /-- Every 1 ms a PTM exchange, over link 0 where none is named, corrects device time by slewing (R412). -/
  | ptmExchange (ns : Nat) (link : Nat := 0)
  /-- A time word from the named Tarnil link, link 0 where none is named, corrects device time (R412). -/
  | fabricTimeWord (ns : Nat) (link : Nat := 0)
  /-- Placement of a recorded body ends and the waiting threads enter the grid or run on (R299). -/
  | capturePlace (c : Nat) (x : Nat) (head : DWord)
  /-- Threads taking the branch to a resident image enter the grid as one captured peloton (R300). -/
  | captureEntry (c : Nat) (x : Nat) (head : DWord)
  /-- An element fires a complete slot on a colour and tag (R321). -/
  | slotFire (c : Nat) (col : Nat) (e : Nat) (sl : Nat) (tag : Nat)
  /-- A token arrives at an element's Arbour, or is discarded with ADDR when its route is invalid (R315). -/
  | tokenDeliver (c : Nat) (n : Nat)
  /-- An iteration closes once its memory operations pass their checks and lower tags have closed (R325). -/
  | iterationClose (c : Nat) (col : Nat)
  /-- A fault, unmapped exit, poison or pre-emption starts draining a captured peloton (R329). -/
  | drain (c : Nat) (col : Nat)
  /-- A drain that has waited 65,536 cycles for lower iterations takes the lowest open iteration as B (R329). -/
  | drainCloseLimit (c : Nat) (col : Nat)
  /-- After the commits are sent, the drain discards tokens, rebuilds registers and releases the colour (R329). -/
  | drainComplete (c : Nat) (col : Nat)
  /-- An address generator produces the next address of its layout and stop tokens (R199). -/
  | agenStep (c : Nat) (h : Nat) (node : Nat)
  /-- A value or stop token arrives at a reduction element (R198). -/
  | reductionArrival (c : Nat) (n : Nat)
  /-- A width adapter converts a token and sends it in parts (R336). -/
  | widthAdapt (c : Nat) (n : Nat)
  /-- An ingress tap packs data tokens into a Trellis token of its grant (R337). -/
  | ingressTapInject (c : Nat) (h : Nat) (node : Nat)
  /-- A set-up packet reserves a vector circuit to another core (R318). -/
  | circuitSetup (c : Nat) (node : Nat) (dst : Nat) (xfers : Nat)
  /-- A circuit whose IDLE timer expires without a transfer is torn down (R318). -/
  | circuitIdle (c : Nat) (k : Nat)
  /-- A release packet or the last transfer tears down a circuit (R318). -/
  | circuitRelease (c : Nat) (k : Nat)
  /-- A configuration is stopped at B and reloaded into its half or quarter alternative (R341). -/
  | regionShrink (c : Nat) (h : Nat) (quarter : Bool)
  /-- A kept element switches phase after 256 cycles or when no slot of its phase is complete (R341). -/
  | phaseSwitch (c : Nat) (h : Nat) (e : Nat := 0)
  /-- A save configuration writes a region's checkpoints and state as a saved image (R342). -/
  | regionSave (c : Nat) (h : Nat) (va : DWord)
  /-- A drain configuration is loaded so that every node consumes and emits nothing (R343). -/
  | regionClear (c : Nat) (h : Nat)
  /-- A cleared region is released when its occupancy tree reports no token (R343). -/
  | regionRelease (c : Nat) (h : Nat)
  /-- A region with tokens and no firing for 2^24 cycles writes a hang record and posts an event (R344). -/
  | hangDetect (c : Nat) (h : Nat)
  /-- A dropped configuration's tokens have drained, so its slots, switch set and colours are freed (R313). -/
  | cfgDropDone (c : Nat) (h : Nat)
  /-- Setting STOP halts the core's Trellis and front-end issue and dumps the Arbours (R348). -/
  | kctlStop (c : Nat)
  /-- Writing RESUME continues every stopped state exactly (R348). -/
  | kctlResume (c : Nat)
  /-- Setting TRACE enables trace records (R350). -/
  | kctlTrace (c : Nat) (on : Bool)
  /-- A write to HVAL0 or HVAL1 clears the selected slot's counters (R347). -/
  | hvalClear (c : Nat) (second : Bool)
  /-- A write of a handle or colour to KCLR clears it under the drain configuration (R347). -/
  | kclrWrite (c : Nat) (v : DWord)
  /-- An mma finishes on the matrix array, releasing instructions waiting on its tiles or accumulator (R188). -/
  | mmaComplete (c : Nat)
  /-- After 1,024 idle cycles the matrix array's quadrants go cold (R188). -/
  | arrayIdle (c : Nat)
  /-- The runtime resumes a stopped sequencer at a chosen program counter (R170). -/
  | sequencerResume (p : Nat) (pc : DWord)
  /-- A wcsld or wcsbind takes effect when no macro of the bank is committing (R383). -/
  | wcsUpdateApply (c : Nat)
  /-- After the scoreboard wait, a macro performs all its commits as one event (R210). -/
  | macroCommit (t : Nat)
  /-- A write of a context to BANKDONE makes the scheduler treat the requested core as having room (R386). -/
  | bankdoneWrite (d : Nat) (v : DWord)
  /-- A write to a ring's heater register sets its drive and service state, starting acquisition when EN rises (R401). -/
  | htrWrite (k : Nat) (n : Nat) (v : Word)
  /-- A ring acquisition ends locked or with EN cleared (R402). -/
  | ringAcquisitionDone (k : Nat) (n : Nat) (locked : Bool) (drive : Nat)
  /-- A BANK write setting SUBEN retunes ring 15 onto channel SUB (R405). -/
  | bankSubSet (k : Nat) (b : Nat) (s : Nat)
  /-- A BANK write clearing SUBEN retunes ring 15 back to channel 15 (R405). -/
  | bankSubClear (k : Nat) (b : Nat)
  /-- A data ring out of lock for 10 µs has its lane retired (R403). -/
  | laneRetire (k : Nat) (b : Nat) (i : Nat)
  /-- A ring locked for 10 µs returns its lane to service (R403). -/
  | laneReturn (k : Nat) (b : Nat) (i : Nat)
  /-- At Pavilion start every ring is acquired onto its channel (R402). -/
  | pavilionStart (k : Nat)
  /-- A write to LGO submits LREC to the service core and places its plot (R398). -/
  | lgoWrite (k : Nat)
  /-- Writing 1 to LSTAT bits clears DROP or REJECT (R398). -/
  | lstatClear (k : Nat) (v : DWord)
  /-- A write to LKILL ends the service core's resident plot (R398). -/
  | lkillWrite (k : Nat)
  /-- A read packet arrives at the destination package (R407). -/
  | tarnilRead (q : Packet)
  /-- Read data returns to the requesting package (R407). -/
  | tarnilReadData (q : Packet)
  /-- A write packet arrives and is performed at the remote home (R407). -/
  | tarnilWrite (q : Packet)
  /-- An atomic packet arrives and is performed at the remote home (R407). -/
  | tarnilAtomic (q : Packet)
  /-- An atomic's old value returns to the requester (R407). -/
  | tarnilAtomicData (q : Packet)
  /-- A Trellis token arrives from another package and is delivered under its route (R407). -/
  | tarnilToken (q : Packet)
  /-- A circuit set-up packet opens a fabric circuit (R408). -/
  | tarnilCircuitSetup (q : Packet)
  /-- A circuit data packet arrives on an open fabric circuit (R408). -/
  | tarnilCircuitData (q : Packet)
  /-- A circuit release packet closes a fabric circuit (R408). -/
  | tarnilCircuitRelease (q : Packet)
  /-- A refusal returns and the requesting access raises its code (R410). -/
  | tarnilRefusal (q : Packet)
  /-- A fabric circuit idle for 4,096 cycles closes (R408). -/
  | fabricCircuitIdle (k : Nat)
  /-- A CRC error or sequence gap makes the link resend from the first missing flit (R409). -/
  | linkReplay (link : Nat)
  /-- A link that needs 16 replays in a row retrains while its traffic waits (R409). -/
  | linkRetrain (link : Nat)
  /-- A remote access with no response within 10 ms is refused with reason 5 (R410). -/
  | remoteTimeout (tag : Nat)
  /-- Sets the energy of the next 1 ms window (R413). -/
  | pwinWrite (v : DWord)
  /-- Sets the bulk energy reserve (R413). -/
  | prsvWrite (v : DWord)
  /-- Adds a signed credit to a context's Pannier (R413). -/
  | pancrWrite (v : DWord)
  /-- Caps the compute dies' operating-point index (R413). -/
  | pcapWrite (v : DWord)
  /-- Sets a new PANNIER limit for the launch named by PLIMID, resuming it at the next window (R415). -/
  | plimsetWrite (v : DWord)
  /-- At each 1 ms window the device debits Panniers and chooses operating points (R414). -/
  | energyWindow (m : Measure)
  /-- The die restarts its clocks at the new operating point (R418). -/
  | opPointSettled (d : Nat)
  /-- A compute die powers its rails and begins starting its core columns (R419). -/
  | dieWake (d : Nat)
  /-- The next core column of a waking die starts, 2 µs after the previous one (R419). -/
  | columnStart (d : Nat)
  /-- An unbound compute die is gated and loses its state (R420). -/
  | dieGate (d : Nat)
  /-- A write to DRST starts a die reset with a deadline (R421). -/
  | drstWrite (d : Nat) (v : DWord)
  /-- A quiescent resetting die is fenced, closing its stations and links (R421). -/
  | dieFence (d : Nat)
  /-- The reset deadline passes and fencing is forced (R421). -/
  | dieResetDeadline (d : Nat)
  /-- A fenced die resets and wakes with its weight store zeroed (R422). -/
  | dieResetWake (d : Nat)
  /-- A corrected or uncorrectable error starts a test of the unit that held it (R423). -/
  | errorDetect (u : UnitId)
  /-- A unit test ends, sparing, fencing or passing the unit and writing an error record (R423). -/
  | selfTestDone (u : UnitId) (outcome : Nat)
  /-- Service firmware loads an encryption key slot (R291). -/
  | keySlotLoad (n : Nat)
  /-- Service firmware empties a key slot after its lines are written back and dropped (R291). -/
  | keySlotEmpty (n : Nat)
  /-- Package reset draws slot 0's key and restarts device time (R290). -/
  | packageReset
  /-- Core reset empties and unbinds its control-store banks and ends halted threads (R382). -/
  | coreReset (c : Nat)
  /-- A thread issues a word with an unassigned major, FN, SC or selector, or major 0x3A or 0x3B, and raises ILLEGAL.OP (R35). -/
  | illegalOp
  /-- A Cadence sequencer fetches a word with a major above 0x0B or an unassigned FN and raises ILLEGAL.OP as a Cadence fault (R169). -/
  | cadenceIllegalOp
  /-- A ring drifts with temperature until |ERR| exceeds 8, so LOCK clears and the 10 µs retire timer starts, or SBF is set for ring 15 (R403). -/
  | ringLockLost (k : Nat) (n : Nat) (err : Word)
  /-- A drifting ring comes back within the lock window, so LOCK is set and the 10 µs return timer starts (R403). -/
  | ringLockRegained (k : Nat) (n : Nat) (err : Word)
  /-- A retraining Tarnil link finishes training within 1 ms, and its waiting traffic resumes (R409). -/
  | linkRetrainComplete (link : Nat)
  /-- A Tarnil link goes down, and remote accesses over it are refused with reason 5 (R410). -/
  | tarnilLinkDown (link : Nat)
  /-- PCIe link 0, or the one named, goes down; without link 0 device time follows PTM of link 1 (R412). -/
  | hostLinkDown (link : Nat := 0)
  /-- PCIe link 0, or the one named, returns; with link 0 device time follows its PTM again (R412). -/
  | hostLinkUp (link : Nat := 0)
  /-- The platform posts a message to a die's runtime, ending a wfi (R134). -/
  | platformMessage (d : Nat)
  deriving DecidableEq, Repr

end Sys2Proof
end

