-- ==== Sys2Proof/Machine/Shape.lean ====
section
/-! DEFINITION. The operand shape of each thread instruction: which fields it has, what each names (01_words.md R30 to
R34, R43, and the field rules of each instruction's own description), whether it is of the producer kind (R36), and the
lowest privilege that may run it (R134). Decoding, the latch rules, the literal length and the operand waits all read it. -/

namespace Sys2Proof.Machine

/-- What a 6-bit register field names. The number is how many 32-bit registers it spans. -/
inductive Role where
  /-- A destination of `n` registers (R31, R32). -/
  | dst (n : Nat)
  /-- A destination that is also read as the accumuland (R43). -/
  | acc (n : Nat)
  /-- A source of one register or of a pair (R30, R32). -/
  | src (n : Nat)
  /-- A source of a lane instruction, which may not read a latch (R74). -/
  | laneSrc (n : Nat)
  /-- The four registers of `ldq` (R98). -/
  | dstQuad
  /-- The four registers of `stq` (R98). -/
  | srcQuad
  /-- The compare and new value of `amo.cas` with W = 0 (R107). -/
  | casPair
  /-- The compare and new value of `amo.cas` with W = 1 (R107). -/
  | casQuad
  /-- The `k` source registers of `npk` (R151). -/
  | npkGrp (k : Nat)
  /-- The `k` destination registers of `nup` (R152). -/
  | nupGrp (k : Nat)
  /-- The eight element registers of a quantiser (R155). -/
  | qntGrp
  /-- The control quad of the outlier forms (R156). -/
  | qntQuad
  deriving DecidableEq, Repr, Inhabited

/-- The values a field of this role may hold; any other raises ILLEGAL.FIELD (R35 step 4). -/
def Role.ok (r : Role) (v : BitVec 6) : Bool :=
  let n := v.toNat
  match r with
  | .dst 1 | .acc 1 => n < 60 || n == 62
  | .dst _ | .acc _ => (n < 60 && n % 2 == 0) || n == 62
  | .src 1 => true
  | .src _ => 60 ≤ n || n % 2 == 0
  | .laneSrc 1 => n != 60 && n != 61
  | .laneSrc _ => n == 62 || n == 63 || (n < 60 && n % 2 == 0)
  | .dstQuad | .srcQuad => (n < 60 && n % 4 == 0) || n == 62
  | .casPair => n % 2 == 0
  | .casQuad => n % 4 == 0
  | .npkGrp 4 => (n < 60 && n % 4 == 0) || n == 62
  | .npkGrp 5 => n ≤ 55 || n == 62
  | .npkGrp _ => (n ≤ 48 && n % 8 == 0) || n == 62
  | .nupGrp 2 => (n < 60 && n % 2 == 0) || n == 62
  | .nupGrp 3 => n ≤ 57 || n == 62
  | .nupGrp _ => (n < 60 && n % 4 == 0) || n == 62
  | .qntGrp => n ≤ 48 && n % 8 == 0
  | .qntQuad => n ≤ 56 && n % 4 == 0

/-- Whether the field is read as a source, so that 60 and 61 read a latch and 63 calls for the literal (R30). -/
def Role.isSrc : Role → Bool
  | .src _ | .laneSrc _ | .casPair | .casQuad => true
  | _ => false

/-- How many general registers the field spans (R32). -/
def Role.span : Role → Nat
  | .dst n | .acc n | .src n | .laneSrc n | .npkGrp n | .nupGrp n => n
  | .dstQuad | .srcQuad | .casQuad | .qntQuad => 4
  | .casPair => 2
  | .qntGrp => 8

/-- The shape of one thread instruction. -/
structure Shape where
  /-- The guard G; 0b0111 for the V format, which has none (R29). -/
  g : BitVec 4
  /-- The register fields with their roles. -/
  fields : List (Role × BitVec 6)
  /-- The literal word carried, zero when none is called for (R33). -/
  lit : Word
  /-- An M-format offset of −32, which calls for the literal (R34). -/
  litOff : Bool
  /-- Producer kind (R36). -/
  producer : Bool
  /-- 0 user, 1 runtime, 2 service (R12, R134). -/
  priv : Nat
  /-- Every other check of R35 step 4: reserved fields and code fields. -/
  extra : Bool
  deriving DecidableEq, Repr, Inhabited

/-- Some field calls for the literal word (R33). -/
def Shape.wantsLit (s : Shape) : Bool :=
  s.litOff || s.fields.any (fun f => f.1.isSrc && f.2 == 63)

/-- The instruction's length in bytes (R27). -/
def Shape.len (s : Shape) : Nat := if s.wantsLit then 8 else 4

/-- Some field reads latch `b0` (value 60) or `b1` (value 61) (R30). -/
def Shape.reads (s : Shape) (v : BitVec 6) : Bool :=
  s.fields.any (fun f => f.1.isSrc && f.2 == v)

/-- The general registers that the fields name. -/
def Shape.regs (s : Shape) : List Nat :=
  s.fields.flatMap (fun f => if f.2.toNat < 60 then (List.range f.1.span).map (f.2.toNat + ·) else [])

/-- Step 2 and step 4 of R35, and the literal of R33: an instruction that calls for none carries zero. -/
def Shape.ok (s : Shape) : Bool :=
  s.g != 15 && s.fields.all (fun f => f.1.ok f.2) && s.extra && (s.wantsLit || s.lit == 0)

/-- The D field when it is a destination: reserved under NW (R31). -/
def dstField (nw : Bool) (n : Nat) (d : BitVec 6) : List (Role × BitVec 6) :=
  if nw then [] else [(.dst n, d)]

/-- A-format shape: `dn`, `an`, `bn` are the register counts of D, A and B. -/
def shA (f : FA) (dn an bn : Nat) : Shape :=
  ⟨f.g, dstField f.nw dn f.d ++ [(.src an, f.a), (.src bn, f.b)], f.lit, false, true, 0, !f.nw || f.d == 0⟩

/-- A-format shape whose D is also the accumuland (R43). With NW = 1 it still names the accumuland (R31's last sentence). -/
def shAcc (f : FA) (dn an bn : Nat) : Shape :=
  ⟨f.g, [(.acc dn, f.d), (.src an, f.a), (.src bn, f.b)], f.lit, false, true, 0, true⟩

/-- Unary shape. -/
def shU (f : FU) (dn an : Nat) : Shape :=
  ⟨f.g, dstField f.nw dn f.d ++ [(.src an, f.a)], f.lit, false, true, 0, !f.nw || f.d == 0⟩

/-- Lane unary shape (R74). -/
def shLU (f : FU) : Shape :=
  ⟨f.g, dstField f.nw 1 f.d ++ [(.laneSrc 1, f.a)], f.lit, false, true, 0, !f.nw || f.d == 0⟩

/-- Lane shape with B of `bn` registers (R74, R142). -/
def shLA (f : FA) (bn : Nat) : Shape :=
  ⟨f.g, dstField f.nw 1 f.d ++ [(.laneSrc 1, f.a), (.laneSrc bn, f.b)], f.lit, false, true, 0, !f.nw || f.d == 0⟩

/-- Quantiser shape (R155, R158). -/
def shQ (f : FA) (dn : Nat) : Shape :=
  ⟨f.g, dstField f.nw dn f.d ++ [(.qntGrp, f.a), (.laneSrc 1, f.b)], f.lit, false, true, 0, !f.nw || f.d == 0⟩

/-- Outlier-form shape (R156); breaker kind (R36). -/
def shQO (f : FA) (dn : Nat) : Shape :=
  ⟨f.g, dstField f.nw dn f.d ++ [(.qntGrp, f.a), (.qntQuad, f.b)], f.lit, false, false, 0, !f.nw || f.d == 0⟩

/-- Compare shape (R69, R146). -/
def shP (f : FP) : Shape :=
  ⟨f.g, [(.src 1, f.a), (.src 1, f.b)], f.lit, false, true, 0, !f.nw || f.p == 0⟩

/-- I-format shape (R67). -/
def shI (f : FI) : Shape := ⟨f.g, [(.dst 1, f.d), (.src 1, f.a)], f.lit, false, true, 0, true⟩

/-- Shift-immediate shape (R67). -/
def shSh (f : FSh) : Shape := ⟨f.g, [(.dst 1, f.d), (.src 1, f.a)], f.lit, false, true, 0, true⟩

/-- `cmpi` shape (R67). -/
def shCi (f : FCi) : Shape := ⟨f.g, [(.src 1, f.a)], f.lit, false, true, 0, true⟩

/-- Special-function shape: B is a format code 0 to 4 (R43). -/
def shSf (f : FSf) : Shape :=
  ⟨f.g, dstField f.nw 1 f.d ++ [(.src 1, f.a)], f.lit, false, true, 0, (!f.nw || f.d == 0) && decide (f.f.toNat ≤ 4)⟩

/-- `sel` shape (R70). -/
def shSel (f : FSel) : Shape :=
  ⟨f.g, dstField f.nw 1 f.d ++ [(.src 1, f.a), (.src 1, f.b)], f.lit, false, true, 0, !f.nw || f.d == 0⟩

/-- `movi` shape (R68). -/
def shMovi (f : FMv) : Shape := ⟨f.g, [(.dst 1, f.d)], 0, false, true, 0, true⟩

/-- `movhi` shape: D is also read (R68). -/
def shMovhi (f : FMv) : Shape := ⟨f.g, [(.acc 1, f.d)], 0, false, true, 0, true⟩

/-- `npk` shape (R151). -/
def shNpk (f : FA) (k : Nat) : Shape :=
  ⟨f.g, dstField f.nw 1 f.d ++ [(.npkGrp k, f.a), (.src 1, f.b)], f.lit, false, true, 0, !f.nw || f.d == 0⟩

/-- `nup` shape (R152). -/
def shNup (f : FA) (k : Nat) : Shape :=
  ⟨f.g, (if f.nw then [] else [(.nupGrp k, f.d)]) ++ [(.src 1, f.a), (.src 1, f.b)], f.lit, false, true, 0, !f.nw || f.d == 0⟩

/-- V-format shape; A and B span `n` registers (R154). -/
def shV (f : FV) (n : Nat) : Shape :=
  ⟨7, [(.acc 1, f.d), (.laneSrc n, f.a), (.laneSrc n, f.b), (.src 1, f.s)], f.lit, false, true, 0, true⟩

/-- The registers of an M-format data operand of SIZE `z`. -/
def sizeRegs (z : BitVec 2) : Nat := if z == 3 then 2 else 1

/-- M-format shape: `dr` is the role of D. A field of 63 with OFF6 = −32 is refused (R33). -/
def shM (f : FM) (dr : Role) (extra : Bool) : Shape :=
  ⟨f.g, [(dr, f.d), (.src 2, f.a)], f.lit, f.o == 32, false, 0,
    extra && !(f.o == 32 && (f.a == 63 || (dr.isSrc && f.d == 63)))⟩

/-- Shape of the words with A and B sources only; `an`, `bn` registers. -/
def shAB (f : FAB) (an bn : Nat) (priv : Nat) : Shape :=
  ⟨f.g, [(.src an, f.a), (.src bn, f.b)], f.lit, false, false, priv, true⟩

/-- Shape of the words with A alone. -/
def shA1 (f : FA1) (an : Nat) (priv : Nat) : Shape :=
  ⟨f.g, [(.src an, f.a)], f.lit, false, false, priv, true⟩

/-- Shape of the words with the guard alone. -/
def shG (f : FG) (priv : Nat) : Shape := ⟨f.g, [], 0, false, false, priv, true⟩

/-- Shape of an atomic: `b` is B's role, `dn` the destination's registers (R105, R107). -/
def shAmo (g : BitVec 4) (d a b : BitVec 6) (lit : Word) (dn : Nat) (br : Role) : Shape :=
  ⟨g, [(.dst dn, d), (.src 2, a), (br, b)], lit, false, false, 0, true⟩

/-- Registers of an atomic's operand under W. -/
def wRegs (w : Bool) : Nat := if w then 2 else 1

/-- A shape of the system words that write D (breaker kind). -/
def shD (f : FA) (an bn priv : Nat) : Shape :=
  ⟨f.g, dstField f.nw 1 f.d ++ [(.src an, f.a), (.src bn, f.b)], f.lit, false, false, priv, !f.nw || f.d == 0⟩

/-- A shape of the words that write D from A alone (breaker kind). -/
def shDU (f : FU) (an : Nat) : Shape :=
  ⟨f.g, dstField f.nw 1 f.d ++ [(.src an, f.a)], f.lit, false, false, 0, !f.nw || f.d == 0⟩

/-- A shape whose D is a source beside A and B (R195). -/
def shW (f : FDab) : Shape :=
  ⟨f.g, [(.src 1, f.d), (.src 1, f.a), (.src 1, f.b)], f.lit, false, false, 0, true⟩

/-- The width in registers of the special register with number `n`; none for an unassigned number (R24). -/
def srWidth (n : Nat) : Option Nat :=
  if n ≤ 5 then some 1
  else if 8 ≤ n && n ≤ 0xB then some 1
  else if n = 0x10 || n = 0x11 then some 1
  else if n = 0x12 || n = 0x14 || n = 0x18 then some 2
  else if n = 0x16 || n = 0x17 || n = 0x1A then some 1
  else none

/-- The width in registers of the control register with number `n`; none for an unassigned number (R25). -/
def crWidth (n : Nat) : Option Nat :=
  if n ≤ 2 then some 1
  else if n = 4 || n = 6 || n = 0x11 then some 2
  else if n = 8 || n = 9 || n = 0x10 then some 1
  else if 0x1000 ≤ n && n ≤ 0x1FFF then some 1
  else none

/-- Shape of `ldq` (R98). -/
def shLdq (f : FMq) : Shape :=
  ⟨f.g, [(.dstQuad, f.d), (.src 2, f.a)], f.lit, f.o == 32, false, 0, !(f.o == 32 && f.a == 63)⟩

/-- Shape of `stq` (R98). -/
def shStq (f : FMq) : Shape :=
  ⟨f.g, [(.srcQuad, f.d), (.src 2, f.a)], f.lit, f.o == 32, false, 0, !(f.o == 32 && f.a == 63)⟩

/-- Shape of `ld.nc` (R98). -/
def shLdNc (f : FMn) : Shape :=
  ⟨f.g, [(.dst (sizeRegs f.z), f.d), (.src 2, f.a)], f.lit, f.o == 32, false, 0, !(f.o == 32 && f.a == 63)⟩

/-- Shape of `pf` (R98). -/
def shPf (f : FMp) : Shape :=
  ⟨f.g, [(.src 2, f.a)], f.lit, f.o == 32, false, 0, !(f.o == 32 && f.a == 63)⟩

/-- Shape of `fe.tst` (R104). -/
def shFeTst (f : FPa) : Shape :=
  ⟨f.g, [(.src 2, f.a)], f.lit, false, false, 0, !f.nw || f.p == 0⟩

/-- Shape of `otk.new` (R117). -/
def shOtkNew (f : FD) : Shape :=
  ⟨f.g, dstField f.nw 1 f.d, 0, false, false, 0, !f.nw || f.d == 0⟩

/-- Shape of `xfence`: an empty set of paths is refused (R43, R112). -/
def shXfence (f : FAB) : Shape :=
  ⟨f.g, [], f.lit, false, false, 0, f.a != 0 && f.b != 0⟩

/-- Shape of `gwct` (R113). -/
def shGwct (f : FDa) : Shape :=
  ⟨f.g, [(.dst 2, f.d)], f.lit, false, false, 0, decide (f.a.toNat ≤ 3)⟩

/-- Shape of `cpy.st` (R125). -/
def shCpySt (f : FDa) : Shape :=
  ⟨f.g, [(.dst 1, f.d), (.src 2, f.a)], f.lit, false, false, 0, true⟩

/-- Shape of `ring.init` (R127). -/
def shRingInit (f : FABn) : Shape :=
  ⟨f.g, [(.src 2, f.a), (.src 1, f.b)], f.lit, false, false, 0, true⟩

/-- Shape of `send` and `recv.adv` (R127). -/
def shAn (f : FAn) : Shape := ⟨f.g, [(.src 2, f.a)], f.lit, false, false, 0, true⟩

/-- Shape of `br` and `call` (R80). -/
def shJ (f : FJ) : Shape := ⟨f.g, [], 0, false, false, 0, true⟩

/-- Shape of `spawn` and `spawn.w` (R88). -/
def shSpawn (f : FP) : Shape := ⟨f.g, [(.src 2, f.a), (.src 1, f.b)], f.lit, false, false, 0, !f.nw || f.p == 0⟩

/-- Shape of a user macro (R44). -/
def shX (f : FX) : Shape := ⟨f.g, [(.src 1, f.d), (.src 1, f.a), (.src 1, f.b)], f.lit, false, false, 0, true⟩

/-- Shape of `srd` (R24, R92). -/
def shSrd (f : FS) : Shape :=
  ⟨f.g, [(.dst ((srWidth f.n.toNat).getD 1), f.d)], f.lit, false, false, 0, (srWidth f.n.toNat).isSome⟩

/-- Shape of `crd` (R25, R130). -/
def shCrd (f : FS) : Shape := ⟨f.g, [(.dst ((crWidth f.n.toNat).getD 1), f.d)], f.lit, false, false, 0, true⟩

/-- Shape of `cwr` (R25, R130). -/
def shCwr (f : FS) : Shape := ⟨f.g, [(.src ((crWidth f.n.toNat).getD 1), f.d)], f.lit, false, false, 0, true⟩

/-- The shape of a thread instruction. Constructors that are no thread word have no fields. -/
def shape : Instr → Shape
  | .add f | .sub f | .and f | .or f | .xor f | .andn f | .orn f | .xnor f
  | .shl f | .shr f | .sra f | .rol f | .ror f
  | .minS f | .maxS f | .minU f | .maxU f
  | .mul f | .mulhiS f | .mulhiU f | .divS f | .divU f | .remS f | .remU f
  | .bfxU f | .bfxS f
  | .fadd f | .fsub f | .fmul f | .fmin f | .fmax f | .fcpsgn f | .fldexp f
  | .addB2 f | .subB2 f | .mulB2 f | .minB2 f | .maxB2 f | .subH2 f | .minH2 f | .maxH2 f
  | .scl f | .mask f | .tblRd f => shA f 1 1 1
  | .clz f | .popc f | .brev f | .abs f | .neg f | .sextB f | .sextH f | .mov f
  | .fabs f | .fneg f
  | .cvtF32S f | .cvtSF32 f | .cvtF32U f | .cvtUF32 f | .cvtF32F16 f | .cvtF16F32 f | .cvtF32Bf16 f | .cvtBf16F32 f
  | .frndNe f | .frndZ f | .frndDn f | .frndUp f | .fcls f | .fgetexp f | .fgetman f
  | .kc2DecLo f | .kc2DecHi f => shU f 1 1
  | .mad f | .bfi f | .fma f | .fms f | .fnma f | .fnms f | .fmulH2 f | .faddH2 f | .fmaH2 f | .fmaB2 f
  | .dot4E4 f | .dot4E5 f | .dot8F4 f | .dot4I8 f | .dot8I4 f | .dot2B2 f | .dot2H2 f | .dot2B2f f => shAcc f 1 1 1
  | .addD f | .subD f => shA f 2 2 2
  | .madD f => shAcc f 2 2 2
  | .mulwS f | .mulwU f => shA f 2 1 1
  | .shlD f | .shrD f | .sraD f => shA f 2 2 1
  | .lea2 f | .lea4 f | .lea8 f | .lea16 f => shA f 2 2 1
  | .cmpEq f | .cmpNe f | .cmpLtS f | .cmpLeS f | .cmpLtU f | .cmpLeU f | .cmpTst f | .cmpTstn f
  | .fcmpEq f | .fcmpNe f | .fcmpLt f | .fcmpLe f | .fcmpGe f | .fcmpGt f | .fcmpUn f | .fcmpOrd f => shP f
  | .sel f => shSel f
  | .addi f | .andi f | .ori f | .xori f => shI f
  | .shli f | .shri f | .srai f | .roli f => shSh f
  | .cmpiEq f | .cmpiNe f | .cmpiLtS f | .cmpiLeS f | .cmpiLtU f | .cmpiLeU f | .cmpiGtS f | .cmpiGtU f => shCi f
  | .movi f => shMovi f
  | .movhi f => shMovhi f
  | .npkE4m3 f | .npkE5m2 f | .npkI8 f => shNpk f 4
  | .npkE3m2 f | .npkE2m3 f => shNpk f 5
  | .npkE2m1 f | .npkI4 f => shNpk f 8
  | .nupE4m3 f | .nupE5m2 f | .nupI8 f => shNup f 2
  | .nupE3m2 f | .nupE2m3 f => shNup f 3
  | .nupE2m1 f | .nupI4 f => shNup f 4
  | .vmxF4 f => shV f 1
  | .vmxE4 f | .vmxE5 f => shV f 2
  | .qntF4 f | .amaxL f => shQ f 1
  | .qntE4 f | .qntE5 f => shQ f 2
  | .qntF4o f => shQO f 1
  | .qntE4o f => shQO f 2
  | .cbLd f => shAB f 2 1 0
  | .exp f | .exp2 f | .ln f | .log2 f | .rcp f | .rsqrt f | .sqrt f | .erf f
  | .tanh f | .sigm f | .gelu f | .silu f | .sin f | .cos f | .tbl f => shSf f
  | .rsMax f | .rsSexp f | .rsMean f | .rsDev f | .rsFin f => shLA f 1
  | .smxFin f => shLA f 2
  | .shflIdx f | .shflUp f | .shflDn f | .shflXor f => shLA f 1
  | .ballot f | .laneMatch f | .laneAny f | .laneAll f
  | .redAdd f | .redMin f | .redMax f | .redAnd f | .redOr f | .redFadd f | .scanAdd f | .scanFadd f => shLU f
  | .tblLd f => shA1 f 2 0
  | .tblSw f => shG f 0
  | .ld f => shM f (.dst (sizeRegs f.z)) (f.c != 3)
  | .lds f => shM f (.dst 1) (f.c != 3 && decide (f.z.toNat ≤ 1))
  | .st f => shM f (.src (sizeRegs f.z)) (f.c != 3)
  | .ldq f => shLdq f
  | .stq f => shStq f
  | .ldNc f => shLdNc f
  | .pf f => shPf f
  | .lda f => shM f (.dst (sizeRegs f.z)) true
  | .stl f => shM f (.src (sizeRegs f.z)) true
  | .feClr f | .feSet f => shAB f 2 1 0
  | .feTst f => shFeTst f
  | .feWt f => shAn f
  | .gat f | .sct f => shAB f 2 1 0
  | .otkNew f => shOtkNew f
  | .otkWt f => shA1 f 1 0
  | .amoAdd f | .amoMinS f | .amoMaxS f | .amoMinU f | .amoMaxU f | .amoAnd f | .amoOr f | .amoXor f | .amoXchg f =>
      shAmo f.g f.d f.a f.b f.lit (wRegs f.w) (.src (wRegs f.w))
  | .amoCas f => shAmo f.g f.d f.a f.b f.lit (wRegs f.w) (if f.w then .casQuad else .casPair)
  | .amoFadd f | .amoFaddB2 f | .amoFmax f | .amoIncW f | .amoDecW f => shAmo f.g f.d f.a f.b f.lit 1 (.src 1)
  | .fenceCore f | .fenceDie f | .fencePkg f | .fenceSys f | .leaseDrop f => shG f 0
  | .xfence f => shXfence f
  | .gwct f => shGwct f
  | .barArr f | .barWt f | .barSync f | .nbarArr f | .nbarWt f => shA1 f 1 0
  | .bwait f => shA1 f 2 0
  | .bobjInit f => shAB f 2 2 0
  | .kick f => shAB f 2 1 0
  | .cpySt f => shCpySt f
  | .free f => shA1 f 1 0
  | .ringInit f => shRingInit f
  | .send f | .recvAdv f => shAn f
  | .br f | .call f => shJ f
  | .brx f | .callx f => shA1 f 2 0
  | .ret f | .exit f | .yield f | .nop f | .hot f | .nocap f | .capok f => shG f 0
  | .sleep f | .regroup f | .trap f => shA1 f 1 0
  | .spawn f | .spawnW f => shSpawn f
  | .lnch f => shDU f 2
  | .srd f => shSrd f
  | .crd f => shCrd f
  | .cwr f => shCwr f
  | .tret f => shG f 0
  | .wfi f => shG f 1
  | .halt f => shG f 2
  | .vdhop f => shD f 1 1 0
  | .cfgld f | .wcsld f => shD f 2 1 1
  | .cfgDrop f => shA1 f 1 1
  | .wcsbind f => shAB f 1 1 1
  | .accRd f | .tileRd f | .olRd f => shD f 1 1 0
  | .accWr f | .tileWr f | .olWr f => shW f
  | .olCnt f => shDU f 1
  | .userMacro f => shX f
  | _ => ⟨7, [], 0, false, false, 0, true⟩

/-- The field checks of a Cadence word that need no state (R46, R169 steps 2 and 3, R180, R191). -/
def cadenceOk : Instr → Bool
  | .mmaBf16 f | .mmaF16 f | .mmaE4m3 f | .mmaE5m2 f | .mmaMxe4 f | .mmaMxe5 f | .mmaMxf4 f | .mmaI8 f | .mmaI4 f | .mmaBf16T f =>
      decide (f.d.toNat < 4) && decide (f.a.toNat < 16) && decide (f.b.toNat < 16)
  | .mmaMxf6 f => decide (f.d.toNat < 4) && decide (f.a.toNat < 16) && decide (f.b.toNat < 16)
  | .tld f => decide (f.d.toNat < 16) && f.a.toNat % 2 == 0 && f.b.toNat % 2 == 0
  | .tstRaw f => decide (f.d.toNat < (if f.t then 4 else 16)) && f.a.toNat % 2 == 0
  | .tstBf16 f | .tstF16 f => f.t && decide (f.d.toNat < 4) && f.a.toNat % 2 == 0
  | .tstE4m3 f | .tstE5m2 f => f.t && decide (f.d.toNat < 4) && f.a.toNat % 2 == 0
  | .tzT d | .olClr d => decide (d.toNat < 16)
  | .tzA d => decide (d.toNat < 4)
  | .tsetW d _ | .tsetH d _ | .tsetC d _ | .olLim d _ => decide (d.toNat < 16)
  | .tsetEsc d a => decide (d.toNat < 16) && a.toNat % 2 == 0
  | .krep _ o => decide (0 < o.toInt)
  | .cadNbarArr a | .cadNbarWt a => decide (a.toNat < 16)
  | _ => true

/-- A source field of a Trellis slot: ports 0 to 3, constants 8 to 15, or `zero` (R49). -/
def slotSrc (v : BitVec 6) : Bool := decide (v.toNat < 4) || (decide (8 ≤ v.toNat) && decide (v.toNat < 16)) || v == 62

/-- The field checks of a Trellis-only word (R197, R201). -/
def trellisOk : Instr → Bool
  | .calloc a | .steer a | .agen a => slotSrc a
  | .pack a b | .merge a b | .isect a b | .unionCoord a b | .emit a b => slotSrc a && slotSrc b
  | .unpack f => slotSrc f.a && slotSrc f.b
  | .redCfg f => f.l != 0 && slotSrc f.a && slotSrc f.b
  | .eos f => f.l != 0 && slotSrc f.a
  | .wadapt f => decide (f.f.toNat < 8) && slotSrc f.a
  | _ => true

end Sys2Proof.Machine
end

