-- ==== Sys2Proof/Machine/ThreadTypes.lean ====
section
/-! DEFINITION. The state of a thread: registers, latches, call stack, completion times, waits, and the accesses it has in
flight (01_words.md R23, 02_integer_control.md R82, 03_memory_system_instructions.md R110, 06_threads.md R214 and R216,
07_memory.md R267 and R268). -/

namespace Sys2Proof.Machine

/-- The state of a thread that a precise fault restores: the state before the first member of a latch chain (R39), or before a
load or atomic that is refused after later instructions have issued (R97, R410). No chain member but the last changes the
call stack. -/
structure Snap where
  pc : DWord
  g : FMap Word
  p : BitVec 7
  fpsr : Word
  lfsr : Word
  cs : List DWord
  csSp : Nat
  deriving DecidableEq, Repr, Inhabited

/-- A valid bypass latch (R37): its value, the state before the oldest producer it descends from, and how many
instructions have issued since, that producer included (R38). -/
structure Latch where
  val : DWord
  snap : Snap
  age : Nat
  deriving DecidableEq, Repr, Inhabited

/-- An open latch chain (R38): the state before its first member and how many members have issued. -/
structure Chain where
  snap : Snap
  len : Nat
  deriving DecidableEq, Repr, Inhabited

/-- The home of a byte (R106, R256): device memory under a key slot, host memory, device register space, the plot's
scratchpad, a die's weight store, or a remote package. -/
inductive Loc where
  | dev (pa key : Nat)
  | host (ha : Nat)
  | reg (pa : Nat)
  | scr (off : Nat)
  | wgt (die off : Nat)
  | rem (pkg off : Nat)
  deriving DecidableEq, Repr, Inhabited

/-- The kinds of access (R426). -/
inductive Acc where
  | read
  | write
  | atomic
  | fetch
  deriving DecidableEq, Repr, Inhabited

/-- Retention hints (R100). -/
inductive Hint where
  | dflt
  | stream
  | keep
  deriving DecidableEq, Repr, Inhabited

/-- An access in flight that is not named by a thread's own instruction alone, as the homes' arrival queues (R266) and requests to other
packages (R271) name it: a held access of a thread, a tile store of a sequencer, a piece of a copy, four bytes of a stream, an element
of a gather or scatter, what a sequencer reads, a host access, a packet, an access of a grid node or of a captured lane. -/
inductive AccId where
  | held (u seq off : Nat)
  | tile (p seq : Nat)
  | copy (c id piece : Nat)
  | stream (c h pos : Nat)
  | gs (p seq elem : Nat)
  | seqRead (p : Nat)
  | host (pa : Nat)
  | packet (src tag typ : Nat)
  | node (c h node place : Nat)
  | lane (u seq : Nat)
  deriving DecidableEq, Repr, Inhabited

/-- Where the bytes of a load go: nowhere, to the `n` general registers from `d` on (sign-extended where `signed`), or to
the instruction that waits for them (a fill of the call stack, a descriptor, an image: `Thread.bulk`), whose accesses have `unit` bytes each (0 for one access). A prefetch of a line has no destination and raises no fault (R100). -/
inductive LoadDst where
  | none
  | line
  | regs (d : Nat) (n : Nat) (signed : Bool)
  | bulk (unit : Nat)
  deriving DecidableEq, Repr, Inhabited

/-- Whether the bytes of a load go to the instruction that waits for them. -/
def LoadDst.isBulk : LoadDst → Bool
  | .bulk _ => true
  | _ => false

/-- One part of a split access (R99): bytes `off` to `off + len - 1` of the access, at `loc`; `data` once its home has
read it (R268). -/
structure Part where
  loc : Loc
  off : Nat
  len : Nat
  data : Option (List Byte)
  deriving DecidableEq, Repr, Inhabited

/-- An outstanding load of the F path (R268). `seq` is its place in program order. -/
structure Load where
  seq : Nat
  addr : DWord
  size : Nat
  dst : LoadDst
  parts : List Part
  hint : Hint
  nc : Bool
  acq : Bool
  pc : DWord
  snap : Snap
  /-- One more than the number of the peloton access that covers one line and has one instant (R275), or 0. -/
  grp : Nat
  deriving DecidableEq, Repr, Inhabited

/-- The operations of the atomics (R107). -/
inductive AOp where
  | add | minS | maxS | minU | maxU | and | or | xor | xchg | cas | fadd | faddB2 | fmax | incW | decW
  deriving DecidableEq, Repr, Inhabited

/-- What a held access does at its home: store bytes, or an atomic with operand `x` (and compare value `y` for `cas`)
whose old value goes to the registers from `d` on; `d = 62` discards it (R106, R267). `q` is the state before the atomic. -/
inductive HeldOp where
  | store (data : List Byte)
  | amo (op : AOp) (x y : DWord) (d : Nat) (q : Snap)
  deriving DecidableEq, Repr, Inhabited

/-- A store part or an atomic that its home has not yet performed (R267). `sent` says that it has left for another package. -/
structure Held where
  seq : Nat
  addr : DWord
  loc : Loc
  len : Nat
  op : HeldOp
  pc : DWord
  sent : Bool
  /-- The scope of a release store of a captured iteration (R326). -/
  rel : Option Nat
  /-- Bytes 40 to 47 of a fault record where a captured iteration made it, so that what it meets at its home is imprecise (R325, R346);
  else 0. -/
  grid : Nat
  /-- One more than the number of the peloton access that covers one line and has one instant (R275), or 0. -/
  grp : Nat
  deriving DecidableEq, Repr, Inhabited

/-- The lane instructions (R72, R142). -/
inductive LaneKind where
  | shflIdx | shflUp | shflDn | shflXor | ballot | matchV | anyV | allV
  | redAdd | redMin | redMax | redAnd | redOr | redFadd | scanAdd | scanFadd
  | vmxF4 | vmxE4 | vmxE5 | qntF4 | qntE4 | qntE5 | qntF4o | qntE4o | amaxL
  | rsMax | rsSexp | rsMean | rsDev | rsFin | smxFin
  deriving DecidableEq, Repr, Inhabited

/-- A lane instruction as a thread waits at it: its kind, fields and shape, and whether the guard is true (R72). `k` is BS and `e` the
S field of the V format. -/
structure LaneOp where
  kind : LaneKind
  d : BitVec 6
  a : BitVec 6
  b : BitVec 6
  e : BitVec 6
  k : BitVec 2
  nw : Bool
  lit : Word
  sh : Shape
  active : Bool
  deriving DecidableEq, Repr, Inhabited

/-- A message on its way (R128): the destination plot, its ring's header, the sender's tid, the payload, and where the sender goes
on. -/
structure Msg where
  plot : Nat
  ring : Nat
  tid : Word
  data : List Byte
  nextPc : DWord
  deriving DecidableEq, Repr, Inhabited

/-- A child that `spawn.w` has not been able to file (R88): entry, argument, the predicate to write, and where the parent goes on. -/
structure SpawnReq where
  entry : DWord
  arg : Word
  p : BitVec 3
  nw : Bool
  nextPc : DWord
  deriving DecidableEq, Repr, Inhabited

/-- The waits of a thread (R216). `retry` waits run their instruction again from its start; the others are ended by the
event that completes them. -/
inductive Wait where
  /-- None: the thread is ready when its operands are. -/
  | none
  /-- A translation is being walked (R286). -/
  | walk (va : DWord) (acc : Acc)
  /-- A PAGE event is with the runtime (R94). -/
  | page (va : DWord) (acc : Acc)
  /-- The bytes that its instruction reads as a descriptor, image or call-stack fill have not returned. -/
  | bulk
  /-- A fence, release store or `spawn`, `lnch` wait for the thread's own accesses (R111). -/
  | fence
  /-- `sleep` until the core's clock reaches the stated count, in thousandths of a cycle (R16, R81). -/
  | sleep (until_ : Nat)
  /-- At a lane instruction, waiting for the lane event of the block (R72). -/
  | lane (op : LaneOp)
  /-- A full bit (R102, R104). -/
  | full
  /-- The range scoreboard (R103) or the engine's scoreboard entries (R124). -/
  | scoreboard
  /-- A group barrier (R119, R120). -/
  | bar
  /-- A group barrier whose previous phase must complete before the thread can arrive again (R120). -/
  | barStall
  /-- A numbered barrier (R121). -/
  | nbar
  /-- A barrier object (R122). -/
  | bobj
  /-- An ordering token (R117). -/
  | otk
  /-- `xfence` (R112). -/
  | xfence
  /-- `spawn.w` waiting for queue room until the core's clock reaches the stated count, with its child (R16, R88). -/
  | queue (until_ : Nat) (q : SpawnReq)
  /-- `send` waiting for ring space until the stated time, with its message (R128). -/
  | space (until_ : Nat) (m : Msg)
  /-- `free` waiting for earlier window-1 loads (R126). -/
  | loads
  /-- `wfi`, with the count of events posted when it began (R134). -/
  | wfi (posted : Nat)
  /-- A regroup bin (R228). -/
  | bin
  /-- `halt` (R134). -/
  | halt
  /-- Stopped for the device runtime (R131). -/
  | stopped
  /-- A closed weight-store bank (R264). -/
  | bank
  /-- An update of a control-store bank that has not taken effect (R383). -/
  | bankWait
  /-- In the grid, as a lane of a captured peloton (R300). -/
  | grid
  /-- At a captured loop's first instruction, waiting for placement to end (R299). -/
  | capture
  deriving DecidableEq, Repr, Inhabited

/-- Whether a wait is a barrier wait for BARRIER.TIMEOUT (R118). -/
def Wait.isBarrier : Wait → Bool
  | .lane _ | .full | .bar | .barStall | .nbar | .bobj => true
  | _ => false

/-- Whether a turn of the thread runs its instruction again (the condition waited for is tested anew). -/
def Wait.retries : Wait → Bool
  | .none | .fence | .full | .scoreboard | .bar | .barStall | .nbar | .bobj | .otk | .xfence | .loads | .bank | .bankWait => true
  | _ => false

/-- The record of a fault that stopped a thread for the runtime (R131). -/
structure Stop where
  code : Nat
  sub : Nat
  addr : DWord
  site : DWord
  restart : DWord
  deriving DecidableEq, Repr, Inhabited

/-- A probe slot of a macro (R206): the checked address, its size in bytes and the homes of its parts, as the translations stood. -/
structure Probe where
  addr : DWord
  size : Nat
  parts : List Part
  deriving DecidableEq, Repr, Inhabited

/-- A macro that waits in its compute phase or for the scoreboard (R210): its operands as read, temporaries, probes, pending flags,
the index of its next word, its bank and selector, its D field, and where the thread goes on. -/
structure MacroRun where
  bank : Nat
  sel : Nat
  d : Nat
  next : DWord
  da : DWord
  db : DWord
  dd : DWord
  m : FMap Word
  q0 : Option Probe
  q1 : Option Probe
  flags : Word
  i : Nat
  deriving DecidableEq, Repr, Inhabited

/-- A thread. The default is an absent thread. -/
structure Thread where
  /-- It has been created and has not exited (R71). -/
  live : Bool
  /-- It has exited and its stores may still be held (R84). -/
  exited : Bool
  plot : Nat
  ctx : Nat
  tid : Word
  spawnArg : Word
  slot : Nat
  pc : DWord
  g : FMap Word
  p : BitVec 7
  b0 : Option Latch
  b1 : Option Latch
  chain : Option Chain
  /-- The chain start of the instruction the thread waits at, where that instruction reads a latch (R39). -/
  pend : Option Snap
  /-- The threads that issued with it the last instruction that no chain held it to (R39, R217). -/
  packed : List Nat
  /-- On-chip return entries, newest first (R82). -/
  cs : List DWord
  csSp : Nat
  lfsr : Word
  fpcr : Word
  fpsr : Word
  sbase : DWord
  area : Nat
  tCore : Nat
  tDie : Nat
  tPkg : Nat
  tSys : Nat
  nocap : Bool
  /-- Indices of its groups among 1 to 255, ascending (R222). -/
  grps : List Nat
  /-- Arrivals at each group so far (R120). -/
  arr : FMap Nat
  /-- The `bar.sync` at which the thread waits, or that it will run again, has counted its arrival (R119). -/
  barArr : Bool
  /-- One more than the phase of its last arrival at each numbered barrier; 0 before the first (R121). -/
  nbLast : FMap Nat
  wait : Wait
  /-- Device time at which the wait began (R118). -/
  since : Nat
  /-- Count of the core's clock when a wait for accesses of its own began (R16, R88). -/
  sinceC : Nat
  /-- Cycle at which the thread last became ready (R216). -/
  age : Nat
  /-- Target of its last taken backward branch (R24). -/
  hotHead : Option DWord
  loads : List Load
  /-- The bytes that the instruction at `pc` read and now runs with. -/
  bulk : Option (List Byte)
  /-- A `tbl.ld` of the thread has been issued and has not completed (R164). -/
  tblLd : Bool
  stores : List Held
  seq : Nat
  /-- Device time of its last `lease.drop`; only copies granted later are hit (R114). -/
  leaseDrop : Nat
  stop : Option Stop
  mrun : Option MacroRun
  /-- Captured-peloton number while in the grid (R300), and the sequence number from which its stores wait for their iteration to
  close (R325). -/
  pel : Nat
  spec : Option Nat
  deriving DecidableEq, Repr, Inhabited

end Sys2Proof.Machine
end

