-- ==== Sys2Proof/Machine/PlotTypes.lean ====
section
/-! DEFINITION. The state of plots, launches, contexts and of a core's copy engine (03_memory_system_instructions.md R115 to
R128, 06_threads.md R219 to R255, 07_memory.md R276 to R283). -/

namespace Sys2Proof.Machine

/-- A numbered barrier of a plot (R121): the current phase and the parties that have arrived at it. Party 0 is the
sequencer and party `u + 1` the thread `u`. -/
structure NBar where
  phase : Nat
  arrived : List Nat
  deriving DecidableEq, Repr, Inhabited

/-- A pending child (R89), with the group-0 arrival count it inherits (R120). -/
structure Child where
  tid : Word
  arg : Word
  arr0 : Nat
  deriving DecidableEq, Repr, Inhabited

/-- A spawn bin (R224): its entry address, the count of the core's clock at which its timer ends (R16), and its children in filing order. -/
structure Bin where
  entry : DWord
  ends : Nat
  kids : List Child
  deriving DecidableEq, Repr, Inhabited

/-- A regroup bin (R228): its key, the count of the core's clock at which its timer ends (R16), and its threads in filing order. -/
structure RBin where
  pc : DWord
  val : Word
  ends : Nat
  members : List Nat
  deriving DecidableEq, Repr, Inhabited

/-- A gather or scatter in flight (R115). `seq` orders the operations of a handle. -/
structure Gs where
  seq : Nat
  scatter : Bool
  handle : Nat
  thread : Nat
  pc : DWord
  table : DWord
  index : DWord
  dense : DWord
  count : Nat
  esz : Nat
  op : Nat
  bobj : Nat
  /-- One more than the time each element was performed, and which are counted off. -/
  done : FMap Nat
  counted : FMap Bool
  /-- Elements on their way to another package (R283), and those that were skipped, so that they are counted off with ERR (R116). -/
  sent : FMap Bool
  errs : FMap Bool
  /-- Pages that the runtime has refused it: base and size. -/
  refused : List (Nat × Nat)
  deriving DecidableEq, Repr, Inhabited

/-- A tile register of a plot (R23, R171 to R173). Elements are kept by row, `data` by byte of the 32 KiB. -/
structure Tile where
  w : Nat
  h : Nat
  c : Nat
  esc : DWord
  data : FMap Byte
  side : FMap Byte
  /-- Poison of elements by row-major number, and of sidecar bytes. -/
  poison : FMap Bool
  sidePoison : FMap Bool
  list : FMap Word
  listPoison : FMap Bool
  listCount : Nat
  /-- 128 minus the list limit L (R173), so that the default is the limit at plot creation. -/
  limGap : Nat
  deriving DecidableEq, Repr, Inhabited

/-- An accumulator (R23): elements by row × 128 + column; +0.0 is 0. -/
structure Accum where
  v : FMap Word
  poison : FMap Bool
  deriving DecidableEq, Repr, Inhabited

/-- What a Cadence sequencer waits for (R170, R192). -/
inductive SeqWait where
  | none
  /-- A PAGE event is with the runtime (R170). -/
  | page (va : DWord) (acc : Acc)
  /-- A numbered barrier (R192). -/
  | nbar
  /-- The matrix array or an `mma` in flight (R188). -/
  | array
  /-- A closed weight-store bank (R264). -/
  | bank
  /-- Bytes of another package (R177, R271). -/
  | remote
  /-- Its own tile stores (R192, R193). -/
  | stores
  deriving DecidableEq, Repr, Inhabited

/-- A Cadence sequencer (R168). -/
structure Seq where
  present : Bool
  running : Bool
  /-- `cend` has been executed (R193). -/
  ended : Bool
  /-- Stopped by a fault (R170). -/
  faulted : Bool
  pc : DWord
  k : FMap Word
  /-- Loop stack, innermost first: count left and address after `krep` (R168, R191). -/
  loops : List (Nat × DWord)
  wait : SeqWait
  since : Nat
  /-- One more than the phase of its last arrival at each numbered barrier; 0 before the first (R192). -/
  nbLast : FMap Nat
  /-- Tile stores not yet performed at their homes (R181). -/
  stores : List Held
  /-- Tile stores made so far: the place of the next one in the stream's order (R168). -/
  seq : Nat
  /-- Latest completion time of its stores (R112, R220). -/
  tDone : Nat
  deriving DecidableEq, Repr, Inhabited

/-- A stream copy's ring slot (R125, R126): empty and waiting to be filled, filled with a tile, or freed with its notice
under way. -/
inductive RSlot where
  | ready
  | filled (tile : Nat)
  | noticed
  deriving DecidableEq, Repr, Inhabited

/-- A stream copy (R125). -/
structure Strm where
  active : Bool
  ctx : Nat
  plot : Nat
  thread : Nat
  pc : DWord
  src : DWord
  slotB : Nat
  nslot : Nat
  ring : Nat
  tstride : Int
  ntile : Nat
  bobj : Nat
  /-- Next tile to fill (R125). -/
  next : Nat
  /-- Bytes of that tile already filled, one more than the time the latest of them was performed where their line has not been made full,
  and whether some of that line's could not be read (R274, R279). -/
  pos : Nat
  posAt : Nat
  err : Bool
  /-- Tiles freed so far (R126). -/
  freed : Nat
  slots : FMap RSlot
  /-- Pages that the runtime has refused it: base and size. -/
  refused : List (Nat × Nat)
  deriving DecidableEq, Repr, Inhabited

/-- A copy descriptor as the engine read it (R123). -/
structure CopyDesc where
  src : DWord
  dst : DWord
  rowlen : Nat
  rows : Nat
  sstride : Int
  dstride : Int
  bobj : Nat
  setfull : Bool
  restart : Bool
  rsvd : Bool
  deriving DecidableEq, Repr, Inhabited

/-- A copy in flight (R124): who kicked it, its descriptor and where that lies, one more than the time each destination piece was
performed, which pieces are on their way to another package, which are counted off, how far its barrier object has been lowered, and the
pages (base and size) that the runtime has refused it. -/
structure Copy where
  id : Nat
  ctx : Nat
  plot : Nat
  thread : Nat
  pc : DWord
  desc : CopyDesc
  descOff : Nat
  done : FMap Nat
  sent : FMap Bool
  counted : FMap Bool
  ncount : Nat
  refused : List (Nat × Nat)
  deriving DecidableEq, Repr, Inhabited

/-- A plot (R7, R219). The default is an absent plot. -/
structure Plot where
  /-- Placed and not retired or killed. -/
  live : Bool
  /-- On its core, not switched out (R252). -/
  resident : Bool
  ctx : Nat
  launch : Nat
  num : Nat
  vdie : Nat
  core : Nat
  /-- Threads created at placement (R235). -/
  threads0 : Nat
  /-- Its lane blocks, ascending (R215, R225). -/
  blocks : List Nat
  ntiles : Nat
  naccs : Nat
  areas : Nat
  argp : DWord
  scratchLen : Nat
  scratch : FMap Byte
  /-- Scratchpad lines that hold an uncorrectable error (R97, R423). -/
  badScr : FMap Bool
  /-- Lines whose full bit is clear (R104). -/
  empty : FMap Bool
  /-- `bintmr` less 256, so that the default is the value at creation (R25). -/
  bintmrOff : Int
  tiles : FMap Tile
  accs : FMap Accum
  seq : Seq
  nbCount : FMap Nat
  nb : FMap NBar
  bins : List Bin
  rbins : List RBin
  /-- Ordering-token handles held (R117). -/
  otk : List Nat
  gss : List Gs
  gsSeq : Nat
  /-- Latest completion time of its gathers and scatters (R112). -/
  gsDone : Nat
  /-- Latest completion time of its copies and fabric transfers (R112). -/
  cpyDone : Nat
  /-- Device time at which the switch that is under way began (R251). -/
  switching : Option Nat
  /-- Copies cancelled and saved by a switch (R124), and stream copies saved, by handle (R251). -/
  savedCopies : List Copy
  savedStreams : FMap Strm
  /-- Time left on the timers of the spawn bins and then of the regroup bins, saved by a switch (R252). -/
  savedTimers : List Nat
  /-- State of the context on the core, saved by a switch (R252): its codebook, and the table banks where they are its own (R163). -/
  savedBook : FMap Word
  savedTbl : Option (FMap Byte × FMap Byte)
  /-- Captured images of the context, saved by a switch (R252, R313). -/
  savedCfgs : List Cfg
  deriving DecidableEq, Repr, Inhabited

/-- Where a launch record stands (R239, R244). -/
inductive LStage where
  /-- No such launch. -/
  | none
  /-- In an ingress or internal queue, not yet taken. -/
  | queued
  /-- Its group table waits for a page (R222). -/
  | reading
  /-- Taken, in its class queue. -/
  | waiting
  /-- Every plot placed. -/
  | placed
  /-- Every plot retired. -/
  | completed
  | dropped
  | killed
  deriving DecidableEq, Repr, Inhabited

/-- A launch (R235, R239). `record` is the 128-byte record; the fields of R235 are read from it. -/
structure Launch where
  stage : LStage
  ctx : Nat
  id : Nat
  record : List Byte
  /-- Address of the record for `lnch`, 0 for ingress (R238). -/
  recAddr : DWord
  home : Nat
  /-- Delivered through a Pavilion's launch port (R398). -/
  pav : Option Nat
  arrival : Nat
  cls : Nat
  /-- Time of entry into its current class (R241). -/
  clsSince : Nat
  /-- Group lists as taken, by index: ranges of tids (R222). -/
  groups : FMap (List (Nat × Nat))
  nextPlot : Nat
  retired : Nat
  /-- Spawned ids handed out (R89). -/
  spawned : Nat
  /-- µJ debited to it (R415). -/
  debit : Nat
  paused : Bool
  deriving DecidableEq, Repr, Inhabited

/-- A context descriptor as a die holds it (R289). -/
structure Desc where
  root : DWord
  flags : Word
  vd : List Word
  deriving DecidableEq, Repr, Inhabited

/-- A context's registers and accounts (R25, R91, R244, R413). -/
structure Ctx where
  /-- Lowest privilege code its threads run at: 0 user, 1 runtime, 2 service (R12). -/
  priv : Nat
  tvec : DWord
  /-- `hotthr` less 64, so that the default is the reset value (R25). -/
  hotthrOff : Int
  panCtl : Word
  panRsv : DWord
  pannier : Int
  /-- Ids issued so far (R91). -/
  ids : Nat
  /-- Outcomes of ended launches, latest first: id and stage (R244). -/
  outcomes : List (Nat × LStage)
  paused : Bool
  throttled : Bool
  deriving DecidableEq, Repr, Inhabited

/-- An L1 copy of a line (R265): grant time and lease end. -/
structure Lease where
  grant : Nat
  ends : Nat
  deriving DecidableEq, Repr, Inhabited

/-- A translation a die holds (R287): context, base and size of the page, and the leaf entry. -/
structure TlbE where
  ctx : Nat
  base : Nat
  size : Nat
  leaf : DWord
  deriving DecidableEq, Repr, Inhabited

/-- The events posted to a die's runtime (R134). -/
inductive MailKind where
  | fault
  | drop
  | page
  | stopped
  | headReject
  | headLoad
  | bank
  | pannier
  | message
  | other
  deriving DecidableEq, Repr, Inhabited

/-- An event in a runtime's mailbox: its kind, its record bytes where it has a record, and its arguments. -/
structure Mail where
  kind : MailKind
  data : List Byte
  args : List Nat
  deriving DecidableEq, Repr, Inhabited

/-- A page event that waits for the runtime (R286, R287): context, address, and size of the page. -/
structure PageEv where
  ctx : Nat
  va : DWord
  size : Nat
  deriving DecidableEq, Repr, Inhabited

end Sys2Proof.Machine
end

