-- ==== Sys2Proof/Machine/CoreTypes.lean ====
section
/-! DEFINITION. The state of a core and of a compute die (00_scope.md R1, 03_memory_system_instructions.md R124 and R134,
04_number_instructions.md R161 and R163, 06_threads.md R230 to R243, 07_memory.md R263 to R265 and R287 to R289,
10_outliers_microseq.md R382, 11_package.md R417 to R424). -/

namespace Sys2Proof.Machine

/-- A control-store bank (R382): owner, context bound, and the words of each selector (empty: none). -/
structure Bank where
  owner : Option Nat
  bound : Option Nat
  seqs : FMap (List Word)
  deriving DecidableEq, Repr, Inhabited

/-- A pending update of a bank (R383): the loading of a sequence, or a binding. -/
inductive BankUpdate where
  | load (bank sel : Nat) (words : List Word)
  | bind (bank ctx : Nat)
  | unbind (ctx : Nat)
  deriving DecidableEq, Repr, Inhabited

/-- A loop-monitor entry (R295). -/
structure LoopMon where
  ctx : Nat
  head : DWord
  count : Nat
  deriving DecidableEq, Repr, Inhabited

/-- An `mma` in flight on a core's matrix array (R188): its plot, accumulator and tiles, and the count of the core's clock at which it may
finish. -/
structure MmaRun where
  plot : Nat
  d : Nat
  a : Nat
  b : Nat
  ends : Nat
  deriving DecidableEq, Repr, Inhabited

/-- A core (R1). The default is an enabled core with nothing on it. -/
structure Core where
  /-- Disabled at shipping (R5). -/
  disabled : Bool
  /-- Not yet started after a wake (R419). -/
  off : Bool
  fenced : Bool
  l1 : FMap Lease
  /-- First-level TLB, latest first (R287). -/
  tlb : List TlbE
  copies : List Copy
  copySeq : Nat
  streams : FMap Strm
  tblAct : FMap Byte
  tblShd : FMap Byte
  tblOwner : Option Nat
  codebooks : FMap (FMap Word)
  banks : FMap Bank
  /-- Updates that wait, each with its thread. -/
  updates : List (Nat × BankUpdate)
  /-- The loop monitor, most recently used first (R295). -/
  monitor : List LoopMon
  /-- Loops marked as failing the capture rules, by context and head (R298). -/
  failed : List (Nat × DWord)
  /-- Contexts that a switch keeps off the core until it completes (R251). -/
  barred : List Nat
  /-- Matrix array: the `mma` in flight, whether the array is warm, and the count of the core's clock when it last finished one (R188). -/
  mmaBusy : Option MmaRun
  arrayWarm : Bool
  arrayLast : Nat
  deriving DecidableEq, Repr, Inhabited

/-- An ingress port (R230). -/
structure Port where
  buf : List DWord
  /-- Open stream: its head token and the tokens still to come (R232). -/
  open_ : Option (DWord × Nat)
  loadWait : Bool
  ovf : Bool
  badwr : Bool
  reject : Bool
  drops : Nat
  lastId : Word
  /-- Tokens of a rejected stream still to discard (R232). -/
  skip : Nat
  /-- Discarding every token until RESET (R231, R232). -/
  dead : Bool
  deriving DecidableEq, Repr, Inhabited

/-- Progress of a die through gating, waking, fencing and reset (R419 to R422). -/
inductive DieStage where
  | up
  | gated
  /-- Waking: its core columns start one after another, the next at the device time given (R419). -/
  | waking (next : Nat)
  /-- Reset requested: fenced when its traffic has drained or the deadline passes (R421). -/
  | draining (deadline : Nat)
  /-- Fenced, to be reset and woken (R421, R422). -/
  | resetting
  deriving DecidableEq, Repr, Inhabited

/-- A compute die (R1). The default is an enabled die that is awake. -/
structure Die where
  disabled : Bool
  stage : DieStage
  fenced : Bool
  /-- Launches in the ingress queue and in the internal queue, in order (R233, R91). -/
  ingress : List Nat
  internal : List Nat
  /-- Last-level TLB, latest first (R287). -/
  tlb : List TlbE
  /-- Descriptors held, by context (R289). -/
  held : FMap (Option Desc)
  pages : List PageEv
  mail : List Mail
  /-- Events posted so far (R134). -/
  posted : Nat
  invPend : List DWord
  ctxPend : List DWord
  invDone : Nat
  ctxDone : Nat
  ctxBase : Nat
  weight : FMap Byte
  /-- 512-byte units of the weight store that hold an uncorrectable error (R97, R423). -/
  badWgt : FMap Bool
  /-- Thousandths of a cycle of the die clock since it woke (R264). -/
  mcycles : Nat
  drst : DWord
  /-- Core columns started since the wake (R419). -/
  cols : Nat
  /-- Errors counted, by kind × 65536 + index of the unit (R424), and tests under way: kind, index and the time of their start. -/
  errs : FMap Nat
  tests : List (Nat × Nat × Nat)
  /-- Spares used, by kind × 65536 + index of the unit (R423). -/
  spares : FMap Nat
  /-- Throttle steps in force (R415). -/
  throttle : Nat
  /-- Nominal index 5 less the operating point in force, and the point it is changing to (R417, R418). -/
  opBelow : Int
  opNext : Option Nat
  /-- Bank requests that the runtime has not answered (R386), as (core, context). -/
  bankReq : List (Nat × Nat)
  deriving DecidableEq, Repr, Inhabited

end Sys2Proof.Machine
end

