-- ==== Sys2Proof/Machine/PackTypes.lean ====
section
/-! DEFINITION. The state of the Pavilions, the Tarnil fabric, the energy registers and the error records
(11_package.md R397 to R424). -/

namespace Sys2Proof.Machine

/-- A ring (R401, R402). The default is the state before its first acquisition: DRIVE 0x800 with EN set, MON 0. -/
structure Ring where
  /-- EN is 0. -/
  off : Bool
  /-- DRIVE less 0x800. -/
  driveGap : Int
  err : Int
  lock : Bool
  /-- An acquisition runs (R402). -/
  acq : Bool
  /-- Device time at which LOCK last changed (R403). -/
  since : Nat
  deriving DecidableEq, Repr, Inhabited

/-- A ring bank (R401, R403 to R405). -/
structure RBank where
  sub : Nat
  suben : Bool
  /-- Ring 15 is being retuned: none, onto channel s, or back to channel 15. -/
  tuning : Option Nat
  /-- Lane s has moved to ring 15. -/
  moved : Bool
  sbf : Bool
  /-- Retired lanes, ascending. -/
  down : List Nat
  deriving DecidableEq, Repr, Inhabited

/-- A Pavilion (R397, R398, R401). -/
structure Pav where
  started : Bool
  rings : FMap Ring
  banks : FMap RBank
  lrec : FMap Byte
  busy : Bool
  drop : Bool
  reject : Bool
  reason : Nat
  lastId : Nat
  lctx : Nat
  deriving DecidableEq, Repr, Inhabited

/-- A Tarnil link (R409, R410). -/
structure Link where
  down : Bool
  retraining : Bool
  /-- Replays in a row, and link errors counted (R407). -/
  replays : Nat
  errors : Nat
  deriving DecidableEq, Repr, Inhabited

/-- What an outstanding request to another package answers to (R407, R410): a load, a store or an atomic of a thread; the bytes that an
engine, a sequencer or a node reads; bytes that one of them has sent; and an addition of a scatter. -/
inductive RemKind where
  | load (seq off : Nat)
  | store (seq off : Nat)
  | amo (seq : Nat)
  | fetch (k : AccId) (off len : Nat)
  | put (k : AccId) (off : Nat)
  | addTo (k : AccId) (off : Nat)
  deriving DecidableEq, Repr, Inhabited

/-- On whose account an access is made, as a record of its imprecise fault names it (R129, R346): the thread (0 for none), the plot, the
program counter, the address, the grid coordinates, and the core and name of the configuration whose access it is (0 for none). -/
structure Cause where
  thread : Nat
  plot : Nat
  pc : DWord
  addr : DWord
  grid : Nat
  cfg : Nat × Nat
  deriving DecidableEq, Repr, Inhabited

/-- What another package has answered to a read of an engine, a sequencer or a node: the bytes, or the reason of its refusal (R410). -/
structure RemAns where
  key : AccId
  off : Nat
  reason : Nat
  data : List Byte
  deriving DecidableEq, Repr, Inhabited

/-- An outstanding request to another package. `late` marks one that was refused with reason 5 (R410). -/
structure RemReq where
  tag : Nat
  pkg : Nat
  thread : Nat
  kind : RemKind
  issued : Nat
  late : Bool
  cause : Cause
  deriving DecidableEq, Repr, Inhabited

/-- An open fabric circuit (R408): whether this package opened it, the package and context at its other end, its tag, the next
address, the packets left, and its last use. -/
structure FabCirc where
  outward : Bool
  peer : Nat
  ctx : Nat
  tag : Nat
  addr : Nat
  left : Nat
  since : Nat
  deriving DecidableEq, Repr, Inhabited

/-- The registers of the Commons status page (R413). -/
structure Energy where
  pwin : Nat
  prsv : Nat
  windows : Nat
  used : Nat
  /-- 7 less PCAP, so that the default is the reset value. -/
  capGap : Nat
  plimid : DWord
  deriving DecidableEq, Repr, Inhabited

end Sys2Proof.Machine
end

