-- ==== Sys2Proof/Machine/PelTypes.lean ====
section
/-! DEFINITION. Captured pelotons (08_trellis.md R295 to R307, R328 to R332). -/

namespace Sys2Proof.Machine

/-- What a lane's checkpoint of a tag holds (R303, R307): the thread's state at H before that iteration, and its sequence number. -/
structure Ckpt where
  thread : Nat
  snap : Snap
  seq : Nat
  deriving DecidableEq, Repr, Inhabited

/-- A drain in progress (R329): the failing tag, the count of the core's clock when it began, and the boundary B once known. -/
structure Drain where
  f : Nat
  since : Nat
  b : Option Nat
  deriving DecidableEq, Repr, Inhabited

/-- A captured peloton (R300). Tags are counted from entry; a token's tag is the count modulo 2^16 (R301). -/
structure Pel where
  live : Bool
  core : Nat
  ctx : Nat
  plot : Nat
  head : DWord
  last : DWord
  colour : Nat
  /-- Every lane, in ascending home-lane order, by thread. -/
  lanes : List Nat
  /-- The iteration that executes, and the lowest open one. -/
  tag : Nat
  open_ : Nat
  /-- Checkpoints of the open tags. -/
  ckpts : FMap (List Ckpt)
  /-- Lanes that have left, with the tag they left at, until that tag closes (R304). -/
  left : List (Nat × Nat)
  /-- Registers whose token is poisoned: 0 to 59 general, 64 to 70 predicates, 72 and 73 the latches (R364). -/
  poison : List Nat
  /-- The count of the core's clock at its entry, and by register one more than the count at which its token was last produced (R321, R322). -/
  entered : Nat
  produced : FMap Nat
  drain : Option Drain
  deriving DecidableEq, Repr, Inhabited

/-- A recorded body that waits for placement (R296, R299): core, context, head, end, the threads that wait, and the count of the core's clock when it
was recorded. -/
structure Body where
  core : Nat
  ctx : Nat
  head : DWord
  last : DWord
  threads : List Nat
  since : Nat
  deriving DecidableEq, Repr, Inhabited

end Sys2Proof.Machine
end

