-- ==== Sys2Proof/Machine/State.lean ====
section
/-! DEFINITION. The machine's state as plain data, its reasons to stop, and the state after reset. INVENTORY.md lists every
piece with the rule that names it. -/

namespace Sys2Proof.Machine

/-- A firing of a slot (R321): the configuration's place in the core's list, element, slot, slot word, colour and tag, the operands
by port, and whether it goes to an edge node. -/
structure Firing where
  cfg : Nat
  elem : Nat
  slot : Nat
  word : DWord
  colour : Nat
  tag : Nat
  width : Nat
  ports : List (Option Tok)
  deriving DecidableEq, Repr, Inhabited

/-- Who moves in a step (DESIGN CHOICE, notes/assumptions/1.md): a thread issues its next instruction, or the threads of a peloton do, a sequencer runs
its next word, a slot of a core's Trellis executes the Trellis-only word of a firing, an event of opcode_table.json takes place, or
device time passes. -/
inductive Turn where
  | thread (t : Nat)
  | peloton (ts : List Nat)
  | seq (p : Nat)
  | fire (c : Nat) (f : Firing)
  | event (i : Instr)
  | wait (ns : Nat)
  deriving DecidableEq, Repr

/-- The whole package. -/
structure State where
  /-- Threads by unique number; a number is never used again. -/
  threads : FMap Thread
  /-- Plots by unique number. -/
  plots : FMap Plot
  /-- Cores by die × 160 + number; the service core of Pavilion k is 1280 + k. -/
  cores : FMap Core
  dies : FMap Die
  ctxs : FMap Ctx
  /-- Launches by context × 2^32 + id. -/
  launches : FMap Launch
  ports : FMap Port
  nextThread : Nat
  nextPlot : Nat
  /-- The Trellis of each core, its captured pelotons by number, and the recorded bodies that wait for placement. -/
  grids : FMap Grid
  pels : FMap Pel
  nextPel : Nat
  bodies : List Body
  /-- Loop heads whose backward branch the present issue has counted, by context (R295). -/
  counted : List (Nat × DWord)
  pavs : FMap Pav
  links : FMap Link
  /-- One more than the link of each package id (R408). -/
  routes : FMap Nat
  /-- Requests to other packages, and the packets sent to them, latest last. -/
  remReqs : List RemReq
  /-- Answers to reads of engines, sequencers and nodes that wait to be used (R271, R410). -/
  remGot : List RemAns
  outbox : List Packet
  fabCircs : List FabCirc
  /-- Pages that packets from other packages wait for: context, page number, and whether the runtime has refused it (R286, R410). -/
  fabPages : List (Nat × Nat × Bool)
  energy : Energy
  /-- Lines of device memory that hold an uncorrectable error (R97, R423). -/
  bad : FMap Bool
  /-- 128-byte lines of host memory whose data arrives with an uncorrectable error (R97). -/
  badHost : FMap Bool
  /-- Device memory by physical address (R257). -/
  mem : FMap Byte
  /-- Host memory by host address (R96). -/
  hostMem : FMap Byte
  /-- Lease end that the home records for each line (R265), and the time of its last performed access (R266). -/
  leaseEnd : FMap Nat
  lastP : FMap Nat
  /-- Accesses that have reached the home of a line and wait to be performed there, in order of arrival, each with the time of its arrival
  (R266), by home slice × 2^44 + line (R258, R259). -/
  lineQ : FMap (List (AccId × Nat))
  /-- Writes of a core's debug registers to device memory that its leases hold back, oldest first (R266, R314, R322, R350). -/
  phys : List (Nat × List Byte)
  /-- One more than the key under which each line was written (R292), and how many keys each slot has held (R290, R291). -/
  lineKey : FMap Nat
  keyGen : FMap Nat
  /-- Fenced Commons slices (R259). -/
  slices : BitVec 512
  /-- Key slots loaded, slot 0 apart (R290, R291). -/
  keys : FMap Bool
  /-- Device time in ns (R16). -/
  time : Nat
  /-- Correction that device time has still to be slewed by, the ns that have passed toward the next ns of correction, and the Tarnil link
  whose time words it follows where its source is the fabric (R412). -/
  skew : Int
  slewRest : Nat
  fabricTime : Option Nat
  /-- Whether each of the two host links is down (R1, R412). -/
  hostDown : FMap Bool
  /-- Bytes that the host's latest read or AtomicOp returned (R294, R411). -/
  hostData : List Byte
  /-- The thread and the plot for which `exec` runs an instruction word. -/
  cur : Nat
  curPlot : Nat
  /-- The firing for which `exec` runs a Trellis-only word: its core, and the token that carries the operands. -/
  curCore : Nat
  curFire : Option Firing
  /-- What is to move next (DESIGN CHOICE, notes/assumptions/1.md). -/
  agenda : List Turn
  /-- The next free value (DESIGN CHOICE, notes/assumptions/2.md). -/
  free : Nat
  deriving DecidableEq, Repr

/-- Why a step can stop. No step of a machine whose agenda holds only turns stops: every fault of the spec is taken. -/
inductive Fault where
  /-- `exec` was asked to run a thread word while `cur` names no live thread. Raised by every thread meaning; safe: no
  machine of the spec runs an instruction for nobody, and `step` never asks for it. -/
  | noThread
  /-- `exec` was asked to run a Cadence word while `curPlot` names no plot with a running sequencer. Raised by every Cadence
  meaning; safe, as above. -/
  | noSequencer
  /-- `exec` was asked to run a Trellis-only word while no slot is firing. Raised by every Trellis meaning; safe, as above. -/
  | noFiring
  deriving DecidableEq, Repr

/-- An instruction to which the model gives no meaning. -/
inductive Refusal where
  /-- The instruction with this mnemonic has no meaning yet. Raised by an arm of `exec`; safe: nothing is claimed of it. -/
  | notModelled (mnemonic : String)
  deriving DecidableEq, Repr

/-- The package right after reset: no thread, plot, context or launch (R23), memory with nothing listed, and every register at
the value of the spec or of notes/assumptions/5.md. -/
def State.reset : State where
  threads := []
  plots := []
  cores := []
  dies := []
  ctxs := []
  launches := []
  ports := []
  nextThread := 1
  nextPlot := 1
  grids := []
  pels := []
  nextPel := 1
  bodies := []
  counted := []
  pavs := []
  links := []
  routes := []
  remReqs := []
  remGot := []
  outbox := []
  fabCircs := []
  fabPages := []
  energy := default
  bad := []
  badHost := []
  mem := []
  hostMem := []
  leaseEnd := []
  lastP := []
  lineQ := []
  phys := []
  lineKey := []
  keyGen := []
  slices := 0
  keys := []
  time := 0
  skew := 0
  slewRest := 0
  fabricTime := none
  hostDown := []
  hostData := []
  cur := 0
  curPlot := 0
  curCore := 0
  curFire := none
  agenda := []
  free := 0

end Sys2Proof.Machine
end

