-- ==== Sys2Proof/Machine/Memory.lean ====
section
/-! DEFINITION. Memory as bytes (00_scope.md R13, 07_memory.md R257, R290 to R292), and the little-endian readings of byte
lists that every wider access goes through. -/

namespace Sys2Proof.Machine

/-- A memory: bytes by address. An unlisted address reads 0 (DESIGN CHOICE, notes/assumptions/4.md). -/
abbrev Memory := FMap Byte

/-- The canonical form of a memory: addresses strictly rising, no entry equal to what an unlisted address reads as. -/
def Memory.wf (m : Memory) : Bool := FMap.wf m

/-- The `n` bytes from `a` on. -/
def Memory.read (m : Memory) (a n : Nat) : List Byte := FMap.getMany m a n

/-- The memory with the bytes `bs` at `a` on. -/
def Memory.write (m : Memory) (a : Nat) (bs : List Byte) : Memory := FMap.setMany m a bs

/-- The number that little-endian bytes stand for (R13). -/
def leNat : List Byte → Nat
  | [] => 0
  | b :: bs => b.toNat + 256 * leNat bs

/-- The low `n` bytes of `v`, little-endian (R13). -/
def leBytes : Nat → Nat → List Byte
  | 0, _ => []
  | n + 1, v => BitVec.ofNat 8 v :: leBytes n (v / 256)

/-- Bits `lo` to `lo + n - 1` of a number. -/
def bits (v lo n : Nat) : Nat := v / 2 ^ lo % 2 ^ n

/-- Bit `i` of a number. -/
def bit (v i : Nat) : Bool := v / 2 ^ i % 2 == 1

/-- Truth as a number. -/
def b2n (b : Bool) : Nat := if b then 1 else 0

/-- `v`, taken as `n` bits, as a signed number (R34). -/
def sgn (n v : Nat) : Int := if v % 2 ^ n < 2 ^ (n - 1) then (v % 2 ^ n : Nat) else (v % 2 ^ n : Nat) - (2 ^ n : Nat)

/-- `v` rounded up to a multiple of 8 (R128's pad8). -/
def pad8 (v : Nat) : Nat := (v + 7) / 8 * 8

/-- Number of a 128-byte line. -/
def lineOf (a : Nat) : Nat := a / 128

/-- The key that slot `key` holds (R290, R291): a slot that is loaded, and slot 0 at a package reset, holds another than before. -/
def State.keyId (s : State) (key : Nat) : Nat := key + 8192 * s.keyGen.get key

/-- A byte of device memory as it reads under key slot `key` (R290, R292): the stored byte when the line was written under that key, or
never written and no package reset has come since; a free byte otherwise. -/
def State.devByte (s : State) (pa key : Nat) : Byte :=
  let w := s.lineKey.get (lineOf pa)
  let k := s.keyId key
  if w = k + 1 ∨ (w = 0 ∧ s.keyGen.get 0 = 0) then s.mem.get pa else Config.wrongKey w k pa (s.mem.get pa)

/-- The `n` bytes of device memory from `pa` on under key slot `key`. -/
def State.devRead (s : State) (pa key : Nat) : Nat → List Byte
  | 0 => []
  | n + 1 => s.devByte pa key :: State.devRead s (pa + 1) key n

/-- Bring the line of `pa` under key slot `key` (R292): the rest of a line written under another slot reads as free bytes. -/
def State.rekey (s : State) (pa key : Nat) : State :=
  let l := lineOf pa
  let w := s.lineKey.get l
  let k := s.keyId key
  if w = k + 1 then s
  else if w = 0 ∧ s.keyGen.get 0 = 0 then { s with lineKey := s.lineKey.set l (k + 1) }
  else { s with mem := s.mem.setMany (128 * l) (s.devRead (128 * l) key 128), lineKey := s.lineKey.set l (k + 1) }

/-- Write one byte of device memory under key slot `key`. -/
def State.devSet (s : State) (pa key : Nat) (b : Byte) : State :=
  let s := s.rekey pa key
  { s with mem := s.mem.set pa b }

/-- Write bytes of device memory from `pa` on under key slot `key`. -/
def State.devWrite (s : State) (pa key : Nat) : List Byte → State
  | [] => s
  | b :: bs => State.devWrite (s.devSet pa key b) (pa + 1) key bs

/-- The 8-byte doubleword of device memory at `pa`, as the machine's own walks read it (R286): under key slot 0 (DESIGN CHOICE,
notes/assumptions/34.md). -/
def State.devDword (s : State) (pa : Nat) : Nat := leNat (s.devRead pa 0 8)

end Sys2Proof.Machine
end

