-- ==== Sys2Proof/Machine/Addr.lean ====
section
/-! DEFINITION. Addresses: windows and their checks (03_memory_system_instructions.md R93 to R95), context descriptors and the
virtual die table (06_threads.md R248, 07_memory.md R289), four-level translation (07_memory.md R284 to R287), and the home of
every byte (R256, R257). -/

namespace Sys2Proof.Machine

/-- Number of the first service core (R1): the core of Pavilion k is `serviceBase + k`. -/
def serviceBase : Nat := 1280

/-- The physical die that a core's translations, mailbox and queues belong to: its own, or the first of the two beside its
Pavilion (R1; DESIGN CHOICE, notes/assumptions/9.md). -/
def dieOf (core : Nat) : Nat := if core < serviceBase then core / 160 else 2 * (core - serviceBase)

/-- Whether a core is a Pavilion service core (R397). -/
def isService (core : Nat) : Bool := decide (serviceBase ≤ core)

/-- The descriptor of context `x` in device memory at `base` (R289). -/
def State.readDesc (s : State) (base x : Nat) : Desc :=
  let a := base + 128 * x
  ⟨BitVec.ofNat 64 (s.devDword a), BitVec.ofNat 32 (leNat (s.devRead (a + 8) 0 4)),
    (List.range 16).map (fun i => BitVec.ofNat 32 (leNat (s.devRead (a + 16 + 4 * i) 0 4)))⟩

/-- The descriptor of context `x` that die `d` uses: the copy it holds, else the one in memory (R289). -/
def State.desc (s : State) (d x : Nat) : Desc :=
  match (s.dies.get d).held.get x with
  | some q => q
  | none => s.readDesc (s.dies.get d).ctxBase x

/-- Die `d` holds the descriptor of context `x` from its first use on (R289). -/
def State.holdDesc (s : State) (d x : Nat) : State :=
  { s with dies := s.dies.modify d (fun q => { q with held := q.held.set x (some (s.desc d x)) }) }

/-- Whether a die takes part in virtual die tables: enabled and not gated (R5, R248). -/
def Die.usable (d : Die) : Bool :=
  !d.disabled && match d.stage with
    | .gated => false
    | _ => true

/-- The physical die and weight-store offset that virtual die `v` names in a table (R248); none when unbound. -/
def State.boundDie (s : State) (vd : List Word) (v : Nat) : Option (Nat × Nat) :=
  match vd[v]? with
  | none => none
  | some e =>
    let pd := bits e.toNat 0 3
    if bit e.toNat 7 && (s.dies.get pd).usable then some (pd, bits e.toNat 8 8) else none

/-- How a walk ends (R286): a leaf, or the ending's number and level of R426. -/
inductive WalkRes where
  | leaf (e : TlbE)
  | ending (code level : Nat)
  deriving DecidableEq, Repr

/-- Low bit of the index field of a level (R284). -/
def levelShift (l : Nat) : Nat := if l = 0 then 16 else if l = 1 then 21 else if l = 2 then 30 else 43

/-- Width of the index field of a level (R284). -/
def levelBits (l : Nat) : Nat := if l = 0 then 5 else if l = 1 then 9 else if l = 2 then 13 else 14

/-- Whether a leaf grants an access (R285). -/
def leafGrants (leaf : Nat) (a : Acc) : Bool :=
  match a with
  | .read => bit leaf 2
  | .write | .atomic => bit leaf 3
  | .fetch => bit leaf 4

/-- Whether a reserved bit of an entry is 1 (R285). -/
def entryReserved (e : Nat) : Bool :=
  if bit e 1 then bits e 7 9 != 0 else bits e 2 6 != 0 || bits e 51 13 != 0

/-- The end of a walk at the entry of level `l` in the table at `table`, or what `down` finds in the table below (R284 to
R286). -/
def State.walkEntry (s : State) (x va : Nat) (a : Acc) (l : Nat) (down : Nat → WalkRes) (table : Nat) : WalkRes :=
  let e := s.devDword (table + 8 * bits va (levelShift l) (levelBits l))
  let size := 2 ^ levelShift l
  if !bit e 0 then .ending 0 l
  else if entryReserved e then .ending 1 l
  else if bit e 1 then
    if l = 3 then .ending 2 l
    else if bits e 16 35 * 65536 % size ≠ 0 then .ending 3 l
    else if !leafGrants e a then .ending 4 l
    else .leaf ⟨x, va / size * size, size, BitVec.ofNat 64 e⟩
  else if l = 0 then .ending 2 0
  else down (bits e 8 43 * 256)

/-- The walk from level `l` down, over the table at the address given (R284). -/
def State.walkFrom (s : State) (x va : Nat) (a : Acc) : Nat → Nat → WalkRes
  | 0 => s.walkEntry x va a 0 (fun _ => .ending 2 0)
  | l + 1 => s.walkEntry x va a (l + 1) (State.walkFrom s x va a l)

/-- The walk of context `x` on die `d` for virtual address `va` (R286, R289). -/
def State.walk (s : State) (d x va : Nat) (a : Acc) : WalkRes :=
  let q := s.desc d x
  if bit q.root.toNat 0 then s.walkFrom x va a 3 (bits q.root.toNat 17 34 * 131072) else .ending 5 3

/-- The translation of `va` that a die's TLB holds for context `x`, where it grants the access (R287). -/
def tlbFind (tlb : List TlbE) (x va : Nat) (a : Acc) : Option TlbE :=
  tlb.find? (fun e => e.ctx == x && decide (e.base ≤ va) && decide (va < e.base + e.size) && leafGrants e.leaf.toNat a)

/-- The Commons slice that the hash gives the line of `pa` (R258). -/
def homeSlice (pa : Nat) : Nat :=
  ((((bits pa 7 9 ^^^ bits pa 16 9) ^^^ bits pa 25 9) ^^^ bits pa 34 9) ^^^ bits pa 43 8)

/-- The home slice of the line of `pa` (R259): the slice that the hash gives, or in its place the first unfenced one of h xor 1, h xor 2,
and so on. Where every slice is fenced it is the hash's own (no access is refused then: DESIGN CHOICE, notes/assumptions/83.md). -/
def State.homeOf (s : State) (pa : Nat) : Nat :=
  let h := homeSlice pa
  (((List.range 512).map (fun i => h ^^^ i)).find? (fun k => !s.slices.getLsbD k)).getD h

/-- First and last address of the HBM4 and DDR-5 regions and of device register space (R257). -/
def inDevice (pa : Nat) : Bool :=
  decide (pa < 0xC000000000) || (decide (0x10000000000 ≤ pa) && decide (pa < 0x10000000000 + min Config.ddrBytes (12 * 2 ^ 40)))

/-- Whether a physical address lies in device register space (R257). -/
def inRegs (pa : Nat) : Bool := decide (0x400000000000 ≤ pa) && decide (pa < 0x400001000000)

/-- The 64 KiB page of device register space that an address lies in (R399). -/
def regPage (pa : Nat) : Nat := (pa - 0x400000000000) / 65536

/-- Whether an access of `n` bytes, one part of which is the `len` bytes at `pa` in device register space, is one that the page takes
(R398 to R400): the page exists, a launch port is reached by aligned doublewords at service privilege, and a ring page by
aligned words. -/
def regOk (priv pa len n : Nat) : Bool :=
  let u := regPage pa
  let o := pa % 65536
  if u ≤ 20 then true
  else if 24 ≤ u && u ≤ 27 then
    !(0x8000 ≤ o && o < 0x80A0) || (priv == 2 && n == 8 && len == 8)
  else if 28 ≤ u && u ≤ 31 then n == 4 && len == 4 && o % 4 == 0
  else false

/-- The home of the byte at `va` under a translation; none where the leaf points outside every region (R257, R285). -/
def homeUnder (e : TlbE) (va : Nat) : Option Loc :=
  let leaf := e.leaf.toNat
  let pa := bits leaf 16 35 * 65536 + (va - e.base)
  if bit leaf 5 then some (.host pa)
  else if bit leaf 6 then (if inRegs pa then some (.reg pa) else none)
  else if inDevice pa then some (.dev pa (bits leaf 51 13))
  else none

/-- On whose behalf an access is made: its context, its plot, the die and the core (none for a party that has no first-level TLB) whose
translations serve it (R261, R287), whether it comes from a Pavilion service core, and its privilege (R397, R398). -/
structure Who where
  ctx : Nat
  plot : Nat
  die : Nat
  core : Option Nat
  svc : Bool
  priv : Nat
  deriving DecidableEq, Repr, Inhabited

/-- What the checks of an access answer (R94): the homes of its parts, a fault code, or a translation that is missing. -/
inductive Chk where
  | ok (parts : List Part)
  | bad (code : Nat)
  | miss (va : DWord)
  deriving DecidableEq, Repr

/-- Fault codes (R132). -/
def codeOp : Nat := 1
def codeField : Nat := 2
def codeAddr : Nat := 3
def codeStraddle : Nat := 4
def codeAlign : Nat := 5
def codePage : Nat := 6
def codeEcc : Nat := 7
def codeMeta : Nat := 8
def codeOvf : Nat := 9
def codeTileFmt : Nat := 10
def codeWcsReject : Nat := 11
def codeWcsPriv : Nat := 12
def codeRing : Nat := 13
def codeBarrier : Nat := 14
def codeFenced : Nat := 15
def codeHostAtomic : Nat := 16
def codePoison : Nat := 17
def codeGroups : Nat := 18
def codeUser : Nat := 64

/-- The parts of an access of `n` bytes at `a`, split at 8-byte boundaries (R99): offset and length of each. `fuel` bounds
their number. -/
def splitParts : Nat → Nat → Nat → Nat → List (Nat × Nat)
  | 0, _, _, _ => []
  | fuel + 1, a, off, n =>
    if n = 0 then []
    else
      let k := min n (8 - (a + off) % 8)
      (off, k) :: splitParts fuel a (off + k) (n - k)

/-- The translations that serve a requester: its core's TLB, then its die's (R287). -/
def State.tlbOf (s : State) (w : Who) : List TlbE :=
  match w.core with
  | some c => (s.cores.get c).tlb ++ (s.dies.get w.die).tlb
  | none => (s.dies.get w.die).tlb

/-- The home of one part, by its window (R93). `va` is the address of its first byte, which has passed the window's check. -/
def State.partHome (s : State) (w : Who) (a : Acc) (va : Nat) : Except Chk Loc :=
  if va / 2 ^ 60 = 1 then .ok (.scr (va % 2 ^ 60))
  else if va / 2 ^ 60 = 2 then
    match s.boundDie (s.desc w.die w.ctx).vd (bits va 32 4) with
    | none => .error (.bad codeAddr)
    | some (pd, woff) =>
      if (s.dies.get pd).fenced then .error (.bad codeFenced)
      else .ok (.wgt pd ((bits va 0 31 + 8388608 * woff) % 2 ^ 31))
  else if va / 2 ^ 60 = 3 then .ok (.rem (bits va 44 16) (va % 2 ^ 44))
  else match tlbFind (s.tlbOf w) w.ctx va a with
    | none => .error (.miss (BitVec.ofNat 64 va))
    | some e =>
      match homeUnder e va with
      | none => .error (.bad codeAddr)
      | some (.reg pa) => if a = .atomic then .error (.bad codeAddr) else .ok (.reg pa)
      | some l => .ok l

/-- The homes of the parts in order; the first that fails decides (R94). -/
def State.homes (s : State) (w : Who) (a : Acc) (base : Nat) : List (Nat × Nat) → Except Chk (List Part)
  | [] => .ok []
  | (off, k) :: ps =>
    match s.partHome w a ((base + off) % 2 ^ 64) with
    | .error c => .error c
    | .ok l =>
      match State.homes s w a base ps with
      | .error c => .error c
      | .ok r => .ok (⟨l, off, k, none⟩ :: r)

/-- The offset check of R93 on the byte at `va` for an access of kind `a`. -/
def State.offsetOk (s : State) (w : Who) (a : Acc) (va : Nat) : Bool :=
  let win := va / 2 ^ 60
  if win = 0 then bits va 57 3 == 0
  else if win = 1 then a != .fetch && decide (va % 2 ^ 60 < (s.plots.get w.plot).scratchLen)
  else if win = 2 then a == .read && !w.svc && bits va 36 24 == 0 && !bit va 31 && (s.boundDie (s.desc w.die w.ctx).vd (bits va 32 4)).isSome
  else a != .fetch && bits va 44 16 != Config.packageId.toNat

/-- The checks of an access of `n` bytes at `va`, in the order of R94: hole, straddle, offset, then translation and
permission of every page; a page of a fenced die raises DIE.FENCED (R421). -/
def State.check (s : State) (w : Who) (a : Acc) (va : DWord) (n : Nat) : Chk :=
  let base := va.toNat
  let last := (base + (n - 1)) % 2 ^ 64
  if 4 ≤ base / 2 ^ 60 then .bad codeAddr
  else if last / 2 ^ 60 ≠ base / 2 ^ 60 then .bad codeStraddle
  else if !(s.offsetOk w a base && s.offsetOk w a last) then .bad codeAddr
  else match s.homes w a base (splitParts (n / 8 + 2) base 0 n) with
    | .error c => c
    | .ok ps =>
      if ps.any (fun p => match p.loc with
        | .reg pa => decide (regPage pa < 16) && (s.dies.get (regPage pa % 8)).fenced
        | _ => false) then .bad codeFenced
      else if ps.all (fun p => match p.loc with
        | .reg pa => regOk w.priv pa p.len n
        | _ => true) then .ok ps else .bad codeAddr

/-- Whether a key slot holds a key (R290, R291): slot 0 always does. -/
def State.keyLoaded (s : State) (k : Nat) : Bool := k == 0 || s.keys.get k

/-- Whether every part of an access lies under a loaded key slot (R291). -/
def State.keysOk (s : State) (ps : List Part) : Bool :=
  ps.all (fun p => match p.loc with
    | .dev _ k => s.keyLoaded k
    | _ => true)

end Sys2Proof.Machine
end

