-- ==== Sys2Proof/Machine/Operands.lean ====
section
/-! DEFINITION. The operand forms of thread instructions: source and destination fields, pairs, predicates, the guard and the
latches (01_words.md R29 to R34, 02_integer_control.md R61). -/

namespace Sys2Proof.Machine

/-- The 64-bit value of a latch; an invalid latch is never read (R40). -/
def latchVal (l : Option Latch) : DWord :=
  match l with
  | some x => x.val
  | none => 0

/-- Predicate `n`; p7 reads 1 (R23). -/
def Thread.pred (t : Thread) (n : BitVec 3) : Bool := n == 7 || t.p.getLsbD n.toNat

/-- The guard of R29: the selected predicate, negated where G[3] is 1. -/
def Thread.guard (t : Thread) (g : BitVec 4) : Bool := xor (t.pred (g.setWidth 3)) (g.getLsbD 3)

/-- `src32(F)` (R30, R32, R61). -/
def Thread.src32 (t : Thread) (lit : Word) (f : BitVec 6) : Word :=
  let n := f.toNat
  if n < 60 then t.g.get n
  else if n = 60 then (latchVal t.b0).lo
  else if n = 61 then (latchVal t.b1).lo
  else if n = 62 then 0
  else lit

/-- The pair g(n):g(n+1) (R6, R32). -/
def Thread.pair (t : Thread) (n : Nat) : DWord := DWord.mk (t.g.get (n + 1)) (t.g.get n)

/-- `src64(F)` (R32, R61). -/
def Thread.src64 (t : Thread) (lit : Word) (f : BitVec 6) : DWord :=
  let n := f.toNat
  if n < 60 then t.pair n
  else if n = 60 then latchVal t.b0
  else if n = 61 then latchVal t.b1
  else if n = 62 then 0
  else lit.signExtend 64

/-- `old32(D)` (R61): `zero` when D is 62. -/
def Thread.old32 (t : Thread) (d : BitVec 6) : Word := if d.toNat < 60 then t.g.get d.toNat else 0

/-- `old64(D)` (R61). -/
def Thread.old64 (t : Thread) (d : BitVec 6) : DWord := if d.toNat < 60 then t.pair d.toNat else 0

/-- Write general register `n`; a number above 59 is discarded. -/
def Thread.setG (t : Thread) (n : Nat) (v : Word) : Thread := if n < 60 then { t with g := t.g.set n v } else t

/-- `wr32(D, v)` (R31, R61): nothing is written under NW or for D = 62. -/
def Thread.wr32 (t : Thread) (nw : Bool) (d : BitVec 6) (v : Word) : Thread := if nw then t else t.setG d.toNat v

/-- `wr64(D, v)` (R31, R32, R61). -/
def Thread.wr64 (t : Thread) (nw : Bool) (d : BitVec 6) (v : DWord) : Thread :=
  if nw then t else (t.setG d.toNat v.lo).setG (d.toNat + 1) v.hi

/-- `wrp(D, v)` (R61): p7 discards it. -/
def Thread.wrp (t : Thread) (nw : Bool) (p : BitVec 3) (v : Bool) : Thread :=
  if nw || p == 7 then t
  else { t with p := (t.p &&& ~~~(1#7 <<< p.toNat)) ||| (BitVec.ofNat 7 (b2n v) <<< p.toNat) }

/-- Write the words `vs` to the registers from `n` on. -/
def Thread.setGs (t : Thread) (n : Nat) : List Word → Thread
  | [] => t
  | v :: vs => Thread.setGs (t.setG n v) (n + 1) vs

/-- The `k` registers named from field value `n` on; `zero` for 62 (R98, R151). -/
def Thread.getGs (t : Thread) (n : Nat) : Nat → List Word
  | 0 => []
  | k + 1 => (if n < 60 then t.g.get n else 0) :: Thread.getGs t (if n < 60 then n + 1 else n) k

/-- The state a chain that starts with this instruction returns to (R39). -/
def Thread.snap (t : Thread) : Snap := ⟨t.pc, t.g, t.p, t.fpsr, t.lfsr, t.cs, t.csSp⟩

/-- The thread with the register, predicate, flag, LFSR and call-stack state of a snapshot, at its program counter (R39). -/
def Thread.restore (t : Thread) (q : Snap) : Thread :=
  { t with pc := q.pc, g := q.g, p := q.p, fpsr := q.fpsr, lfsr := q.lfsr, cs := q.cs, csSp := q.csSp }

/-- Both latches invalid (R37). -/
def Thread.breakLatches (t : Thread) : Thread := { t with b0 := none, b1 := none, chain := none }

/-- Whether a latch that the instruction reads is invalid (R40). -/
def Thread.badLatch (t : Thread) (sh : Shape) : Bool :=
  (sh.reads 60 && t.b0.isNone) || (sh.reads 61 && t.b1.isNone)

/-- A valid latch as the start of a chain that the present instruction ends: its snapshot, and the members up to and
including this instruction (R38). -/
def latchChain (l : Option Latch) : Option Chain := l.map (fun x => ⟨x.snap, x.age + 1⟩)

/-- The longer of two candidate chains (R38: the oldest producer whose value is read). -/
def longerChain (a b : Option Chain) : Option Chain :=
  match a, b with
  | none, c | c, none => c
  | some x, some y => if x.len < y.len then some y else some x

/-- The chain that the present instruction belongs to (R38): none when it reads no latch. -/
def Thread.nextChain (t : Thread) (sh : Shape) : Option Chain :=
  let r0 := sh.reads 60
  let r1 := sh.reads 61
  if r0 || r1 then
    longerChain (t.chain.map (fun c => ⟨c.snap, c.len + 1⟩))
      (longerChain (if r0 then latchChain t.b0 else none) (if r1 then latchChain t.b1 else none))
  else none

/-- A latch one instruction later. -/
def Latch.older (l : Latch) : Latch := { l with age := l.age + 1 }

/-- The latches after a latch producer (R37): `b1` takes `b0`, `b0` the result `v`, and the chain stays open. `q` is the state
before the instruction and `c` the chain it belongs to. A latch that a chain member has made carries that chain's start and length on, also
to a reader that an instruction without a latch read stands before (DESIGN CHOICE, notes/assumptions/98.md). -/
def Thread.produce (t : Thread) (q : Snap) (c : Option Chain) (v : DWord) : Thread :=
  let l : Latch := match c with
    | none => ⟨v, q, 1⟩
    | some x => ⟨v, x.snap, x.len⟩
  { t with b1 := t.b0.map Latch.older, b0 := some l, chain := c }

/-- The latches after an instruction of the producer kind whose guard is false (R37): as they were. -/
def Thread.pass (t : Thread) (c : Option Chain) : Thread :=
  { t with b0 := t.b0.map Latch.older, b1 := t.b1.map Latch.older, chain := c }

/-- Whether an outstanding load or atomic will write a register that the instruction names (R216), or an acquire load has not
returned (R101). -/
def Thread.hazard (t : Thread) (sh : Shape) : Bool :=
  let rs := sh.regs
  t.loads.any (fun l => l.acq || match l.dst with
    | .regs d n _ => rs.any (fun r => decide (d ≤ r) && decide (r < d + n))
    | _ => false)
  || t.stores.any (fun h => match h.op with
    | .amo _ _ _ d _ => rs.any (fun r => r == d || (h.len == 8 && r == d + 1))
    | .store _ => false)

end Sys2Proof.Machine
end

