-- ==== Sys2Proof/Machine/Ops.lean ====
section
/-! DEFINITION. The named operations over the state that the meanings share: accessors, device time, the runtime's mailbox, the
F path's loads and stores (03_memory_system_instructions.md R94 to R103, 07_memory.md R265 to R269), the call stack (R82),
taking an exception and returning from one (R131, R133), and the frame of every thread instruction (R35 to R40). -/

namespace Sys2Proof.Machine

/-! ### Accessors -/

/-- Thread `u`. -/
def State.thr (s : State) (u : Nat) : Thread := s.threads.get u

/-- Replace thread `u`. -/
def State.setThr (s : State) (u : Nat) (t : Thread) : State := { s with threads := s.threads.set u t }

/-- Change thread `u`. -/
def State.modThr (s : State) (u : Nat) (f : Thread → Thread) : State := s.setThr u (f (s.thr u))

/-- Change plot `p`. -/
def State.modPlot (s : State) (p : Nat) (f : Plot → Plot) : State := { s with plots := s.plots.modify p f }

/-- Change core `c`. -/
def State.modCore (s : State) (c : Nat) (f : Core → Core) : State := { s with cores := s.cores.modify c f }

/-- Change die `d`. -/
def State.modDie (s : State) (d : Nat) (f : Die → Die) : State := { s with dies := s.dies.modify d f }

/-- Change context `x`. -/
def State.modCtx (s : State) (x : Nat) (f : Ctx → Ctx) : State := { s with ctxs := s.ctxs.modify x f }

/-- Change launch `l`. -/
def State.modLaunch (s : State) (l : Nat) (f : Launch → Launch) : State := { s with launches := s.launches.modify l f }

/-- Change ingress port `n`. -/
def State.modPort (s : State) (n : Nat) (f : Port → Port) : State := { s with ports := s.ports.modify n f }

/-- The plot of a thread. -/
def State.plotOf (s : State) (t : Thread) : Plot := s.plots.get t.plot

/-- The core of a thread. -/
def State.coreOf (s : State) (t : Thread) : Nat := (s.plotOf t).core

/-- The privilege a thread runs at (R12, R397): 0 user, 1 runtime, 2 service. -/
def State.privOf (s : State) (t : Thread) : Nat := if isService (s.coreOf t) then 2 else (s.ctxs.get t.ctx).priv

/-- On whose behalf a thread's accesses are made (R261). -/
def State.who (s : State) (t : Thread) : Who := ⟨t.ctx, t.plot, dieOf (s.coreOf t), some (s.coreOf t), isService (s.coreOf t), s.privOf t⟩

/-! ### Device time -/

/-- Core clock in MHz at an operating point (R417). -/
def opMHz (i : Nat) : Nat :=
  if i = 0 then 420 else if i = 1 then 640 else if i = 2 then 840 else if i = 3 then 1040
  else if i = 4 then 1200 else if i = 5 then 1300 else if i = 6 then 1450 else 1600

/-- The operating point of a die: index 5 is nominal (R417). -/
def Die.op (d : Die) : Nat := (5 - d.opBelow).toNat

/-- The count of a core's clock, in thousandths of a cycle (R16, R264, R397, R418): a service core's runs at 1.3 GHz. -/
def State.clk (s : State) (core : Nat) : Nat := if isService core then 1300 * s.time else (s.dies.get (dieOf core)).mcycles

/-- The count of a core's clock `n` cycles from now, whatever operating points are in force until then (R16, R418). -/
def State.after (s : State) (core n : Nat) : Nat := s.clk core + 1000 * n

/-- Whether the clock of a core runs: no change of its die's operating point is under way (R418). A service core's always does (R397). -/
def State.clockRuns (s : State) (c : Nat) : Bool := isService c || (s.dies.get (dieOf c)).opNext.isNone

/-- Whether the waits of a core's threads can end: the Kickstand has not stopped it (R348). -/
def State.coreGoes (s : State) (c : Nat) : Bool := !(s.grids.get c).kick.stop

/-! ### The runtime's mailbox -/

/-- Post an event to the runtime of die `d` (R134). -/
def State.post (s : State) (d : Nat) (m : Mail) : State :=
  s.modDie d (fun q => { q with mail := q.mail ++ [m], posted := q.posted + 1 })

/-- The 64-byte record of an imprecise fault (R129). -/
def faultRecord (code : Nat) (exited : Bool) (launch : Nat) (tid : Word) (pc addr : DWord) (time grid : Nat) : List Byte :=
  leBytes 2 code ++ leBytes 2 (1 + 2 * b2n exited) ++ leBytes 4 launch ++ leBytes 4 tid.toNat ++ leBytes 4 0
    ++ leBytes 8 pc.toNat ++ leBytes 8 addr.toNat ++ leBytes 8 time ++ leBytes 8 grid ++ leBytes 16 0

/-- The launch id of a thread's plot (R129). -/
def State.launchId (s : State) (t : Thread) : Nat := (s.launches.get (s.plotOf t).launch).id

/-- Who makes an access, as a page-event record names it (R426): launch id, tid, kind of requester, and program counter. -/
structure Asker where
  launch : Nat
  tid : Word
  kind : Nat
  pc : DWord
  deriving DecidableEq, Repr, Inhabited

/-- The number of an access kind (R426). -/
def Acc.num : Acc → Nat
  | .read => 0
  | .write => 1
  | .atomic => 2
  | .fetch => 3

/-- The access kind with a number (R426). -/
def accOf (n : Nat) : Acc := if n = 1 then .write else if n = 2 then .atomic else if n = 3 then .fetch else .read

/-- The 64-byte page-event record (R426). -/
def pageRecord (q : Asker) (x : Nat) (a : Acc) (va : DWord) (ending level die time : Nat) : List Byte :=
  leBytes 2 codePage ++ leBytes 2 0 ++ leBytes 4 q.launch ++ leBytes 4 q.tid.toNat ++ leBytes 2 x ++ leBytes 1 q.kind
    ++ leBytes 1 a.num ++ leBytes 8 va.toNat ++ leBytes 1 ending ++ leBytes 1 level ++ leBytes 2 die ++ leBytes 4 0
    ++ leBytes 8 time ++ leBytes 8 q.pc.toNat ++ leBytes 16 0

/-- Whether a page event covers the page of `va` for context `x` (R287). -/
def PageEv.covers (e : PageEv) (x : Nat) (va : DWord) : Bool := e.ctx == x && e.va.toNat / e.size == va.toNat / e.size

/-- Size of the page at which a walk ended (R287): that of the leaf where the ending names one, else 64 KiB (DESIGN CHOICE,
notes/assumptions/84.md). -/
def faultSize (ending level : Nat) : Nat := if ending = 3 ∨ ending = 4 then 2 ^ levelShift level else 65536

/-- Raise a PAGE event, or join the one that die already has for the page (R286, R287, R426). -/
def State.pageEvent (s : State) (w : Who) (q : Asker) (a : Acc) (va : DWord) (ending level : Nat) : State :=
  if (s.dies.get w.die).pages.any (fun e => e.covers w.ctx va) then s
  else (s.modDie w.die (fun d => { d with pages := d.pages ++ [⟨w.ctx, va, faultSize ending level⟩] })).post w.die
    ⟨.page, pageRecord q w.ctx a va ending level w.die s.time, [w.die, w.ctx, va.toNat, a.num]⟩

/-- Keep a leaf in the TLBs of the requester's die and core (R287): 16,384 and 64 entries, of which the oldest give way (DESIGN CHOICE,
notes/assumptions/84.md). -/
def State.keepLeaf (s : State) (w : Who) (e : TlbE) : State :=
  let s1 := s.modDie w.die (fun q => { q with tlb := (e :: q.tlb).take 16384 })
  match w.core with
  | some c => s1.modCore c (fun q => { q with tlb := (e :: q.tlb).take 64 })
  | none => s1

/-- Walk once for `va` (R286): keep the leaf, or raise the PAGE event of its ending. True where a leaf was found. -/
def State.walkOnce (s : State) (w : Who) (q : Asker) (a : Acc) (va : DWord) : State × Bool :=
  let s := s.holdDesc w.die w.ctx
  match s.walk w.die w.ctx va.toNat a with
  | .leaf e => (s.keepLeaf w e, true)
  | .ending c l => (s.pageEvent w q a va c l, false)

/-- The asker of a thread's own access. -/
def State.askThread (s : State) (t : Thread) : Asker := ⟨s.launchId t, t.tid, 0, t.pc⟩

/-! ### Imprecise faults -/

/-- Record an imprecise fault of thread `u` with its runtime (R129). -/
def State.imprecise (s : State) (u : Nat) (code : Nat) (pc addr : DWord) (grid : Nat) : State :=
  let t := s.thr u
  s.post (dieOf (s.coreOf t))
    ⟨.fault, faultRecord code t.exited (s.launchId t) t.tid pc addr s.time grid, [u, code]⟩

/-! ### Homes -/

/-- The location `k` bytes further on. -/
def Loc.add (l : Loc) (k : Nat) : Loc :=
  match l with
  | .dev pa key => .dev (pa + k) key
  | .host a => .host (a + k)
  | .reg pa => .reg (pa + k)
  | .scr o => .scr (o + k)
  | .wgt d o => .wgt d (o + k)
  | .rem p o => .rem p (o + k)

/-- The store a location lies in, and its byte there. -/
def Loc.place (l : Loc) : Nat × Nat × Nat :=
  match l with
  | .dev pa _ => (0, 0, pa)
  | .host a => (1, 0, a)
  | .reg pa => (2, 0, pa)
  | .scr o => (3, 0, o)
  | .wgt d o => (4, d, o)
  | .rem p o => (5, p, o)

/-- Whether `n` bytes at `a` and `m` bytes at `b` share a byte. -/
def Loc.overlaps (a : Loc) (n : Nat) (b : Loc) (m : Nat) : Bool :=
  let p := a.place
  let q := b.place
  p.1 == q.1 && p.2.1 == q.2.1 && decide (p.2.2 < q.2.2 + m) && decide (q.2.2 < p.2.2 + n)

/-- The `n` bytes at a home of plot `p` (R106, R256). Registers and remote bytes are read by their own events. -/
def State.homeBytes (s : State) (p : Nat) (l : Loc) (n : Nat) : List Byte :=
  match l with
  | .dev pa key => s.devRead pa key n
  | .host a => Memory.read s.hostMem a n
  | .scr o => Memory.read (s.plots.get p).scratch o n
  | .wgt d o => Memory.read (s.dies.get d).weight o n
  | .reg _ | .rem _ _ => List.replicate n 0

/-- Lines that `n` bytes at `a` touch. -/
def linesOf (a n : Nat) : List Nat := (List.range ((a + n - 1) / 128 + 1 - a / 128)).map (fun i => a / 128 + i)

/-- Whether one of `n` bytes at a location, on behalf of plot `p`, lies in a unit that holds an uncorrectable error: a line of device or host
memory or of a scratchpad, or 512 bytes of a weight-store bank (R97, R263, R423). -/
def State.badAt (s : State) (p : Nat) (l : Loc) (n : Nat) : Bool :=
  match l with
  | .dev pa _ => (linesOf pa n).any (fun i => s.bad.get i)
  | .host a => (linesOf a n).any (fun i => s.badHost.get i)
  | .scr o => (linesOf o n).any (fun i => (s.plots.get p).badScr.get i)
  | .wgt d o => (linesOf o n).any (fun i => (s.dies.get d).badWgt.get (i / 4))
  | .reg _ | .rem _ _ => false

/-- Write a plot's scratchpad (R270). -/
def State.scrWrite (s : State) (p off : Nat) (bs : List Byte) : State :=
  s.modPlot p (fun q => { q with scratch := Memory.write q.scratch off bs })

/-- Whether the full bits of every line that `n` bytes at `off` touch are set (R102). -/
def Plot.fullAt (p : Plot) (off n : Nat) : Bool :=
  (List.range ((off + n - 1) / 128 + 1 - off / 128)).all (fun i => !p.empty.get (off / 128 + i))

/-- Set (`full`) or clear the full bits of `n` lines from line `l` on (R104, R276). -/
def Plot.setFull (p : Plot) (full : Bool) (l : Nat) : Nat → Plot
  | 0 => p
  | n + 1 => Plot.setFull { p with empty := p.empty.set l (!full) } full (l + 1) n

/-- The thread's completion times raised to at least `x` for a home of the kind given (R110). -/
def Thread.raiseTimes (t : Thread) (l : Loc) (x : Nat) : Thread :=
  match l with
  | .scr _ => { t with tCore := max t.tCore x, tDie := max t.tDie x, tPkg := max t.tPkg x, tSys := max t.tSys x }
  | .dev _ _ | .reg _ => { t with tDie := max t.tDie x, tPkg := max t.tPkg x, tSys := max t.tSys x }
  | _ => { t with tSys := max t.tSys x }

/-- Whether bank `b` of a die's weight store is closed for refresh (R264). -/
def Die.bankClosed (d : Die) (b : Nat) : Bool :=
  let p := d.mcycles / 1000 % 65536
  decide (1024 * b ≤ p) && decide (p < 1024 * b + 256)

/-! ### Loads of the F path -/

/-- The latest byte that thread `t` itself holds for a location, among its stores before `seq` (R267). -/
def heldByte (hs : List Held) (seq : Nat) (l : Loc) : Option Byte :=
  hs.foldl (fun acc h =>
    match h.op with
    | .store bs => if h.seq < seq ∧ h.loc.overlaps h.len l 1 then (bs[l.place.2.2 - h.loc.place.2.2]?).or acc else acc
    | .amo _ _ _ _ _ => acc) none

/-- The `n` bytes at `l` that a load of thread `t` at place `seq` returns at this instant (R268). -/
def State.loadBytes (s : State) (t : Thread) (seq : Nat) (l : Loc) (n : Nat) : List Byte :=
  (List.range n).map (fun k =>
    match heldByte t.stores seq (l.add k) with
    | some b => b
    | none => (s.homeBytes t.plot (l.add k) 1).headD 0)

/-- Whether an earlier access of the thread to an overlapping byte still has no instant: an unread load part, or an atomic
(R101, R269). -/
def Thread.earlierOpen (t : Thread) (seq : Nat) (l : Loc) (n : Nat) : Bool :=
  t.loads.any (fun q => decide (q.seq < seq) && q.parts.any (fun p => p.data.isNone && p.loc.overlaps p.len l n))
  || t.stores.any (fun h => decide (h.seq < seq) && (match h.op with | .amo _ _ _ _ _ => true | _ => false) && h.loc.overlaps h.len l n)

/-- Whether a load of `n` bytes at `l` must wait for earlier stores that the thread still holds (R101, R267): those to a device register,
whose live value it reads (DESIGN CHOICE, notes/assumptions/89.md), and those to another package that have not left and do not give it
every byte (R271). -/
def Thread.storesFirst (t : Thread) (seq : Nat) (l : Loc) (n : Nat) : Bool :=
  match l with
  | .reg _ => t.stores.any (fun h => decide (h.seq < seq) && h.loc.overlaps h.len l n)
  | .rem _ _ => t.stores.any (fun h => decide (h.seq < seq) && !h.sent && h.loc.overlaps h.len l n)
  | _ => false

/-- The bytes of a load that the thread's held stores give whole (R267). -/
def Thread.heldAll (t : Thread) (seq : Nat) (l : Loc) (n : Nat) : Option (List Byte) :=
  let bs := (List.range n).map (fun k => heldByte t.stores seq (l.add k))
  if bs.all (·.isSome) then some (bs.map (·.getD 0)) else none

/-- Whether the core's L1 holds a live copy of the line of `pa` that thread `t` may hit (R114, R265). -/
def State.l1Hit (s : State) (t : Thread) (pa : Nat) : Bool :=
  let c := (s.cores.get (s.coreOf t)).l1.get (lineOf pa)
  decide (s.time + 4 < c.ends) && decide (t.leaseDrop ≤ c.grant)

/-- The bytes of a part where it can be read at issue: scratchpad, weight store, or a live L1 copy (R265, R270). -/
def State.partNow (s : State) (t : Thread) (direct : Bool) (p : Part) : Option (List Byte) :=
  if t.earlierOpen t.seq p.loc p.len then none
  else match p.loc with
    | .scr _ | .wgt _ _ => some (s.loadBytes t t.seq p.loc p.len)
    | .dev pa _ => if !direct && s.l1Hit t pa then some (s.loadBytes t t.seq p.loc p.len) else none
    | _ => none

/-- Lowest and highest byte of `rows + 1` rows of `len` bytes from `base` at distance `stride` (R124, R277). -/
def rowRange (base : Nat) (stride : Int) (rows len : Nat) : Int × Int :=
  let last : Int := base + stride * rows
  (min base last, max (base : Int) last + (len - 1 : Nat))

/-- The source and destination ranges of a copy (R124, R277). -/
def CopyDesc.srcRange (d : CopyDesc) : Int × Int := rowRange d.src.toNat d.sstride d.rows d.rowlen
def CopyDesc.dstRange (d : CopyDesc) : Int × Int := rowRange d.dst.toNat d.dstride d.rows d.rowlen

/-- Whether an access of `n` bytes at `va` by plot `p` falls in a range; a range in window 1 belongs to the kicking plot. -/
def inRange (r : Int × Int) (kicker p : Nat) (va n : Nat) : Bool :=
  decide ((va : Int) ≤ r.2) && decide (r.1 ≤ (va : Int) + (n : Int) - 1) && (va / 2 ^ 60 != 1 || kicker == p)

/-- The copies whose ranges the scoreboard of a core tests (R103): those that hold an entry, and the restored ones that wait for one
(DESIGN CHOICE, notes/assumptions/99.md). -/
def State.scoreboard (s : State) (c : Nat) : List Copy :=
  (s.cores.get c).copies ++ (s.plots.filter (fun e => e.2.resident && e.2.core == c)).flatMap (fun e => e.2.savedCopies)

/-- The range scoreboard's test of an access (R103, R124): loads against destination ranges, stores and atomics against both. -/
def State.scoreHit (s : State) (t : Thread) (store : Bool) (va n : Nat) : Bool :=
  (s.scoreboard (s.coreOf t)).any (fun c => c.ctx == t.ctx &&
    (inRange c.desc.dstRange c.plot t.plot va n || (store && inRange c.desc.srcRange c.plot t.plot va n)))

/-- What starting an access answers: the bytes at once, a state in which it is outstanding, a wait, or a fault. -/
inductive Got where
  | now (bs : List Byte)
  | later (s : State)
  | blocked (w : Wait)
  | bad (code : Nat)

/-- The waits that stall a load whose parts are known: a clear full bit (R102), the scoreboard (R103), a closed bank (R264). -/
def State.loadStall (s : State) (t : Thread) (va : DWord) (n : Nat) (ps : List Part) : Wait :=
  if ps.any (fun p => match p.loc with | .scr o => !(s.plotOf t).fullAt o p.len | _ => false) then .full
  else if s.scoreHit t false va.toNat n then .scoreboard
  else if ps.any (fun p => match p.loc with | .wgt d o => (s.dies.get d).bankClosed (bits o 9 6) | _ => false) then .bank
  else .none

/-- Start a load of thread `u` (R94, R98 to R103, R114, R265). `direct` reads every part at its home. -/
def State.startLoad (s : State) (u : Nat) (va : DWord) (n : Nat) (dst : LoadDst) (hint : Hint) (direct acq : Bool) : Got :=
  let t := s.thr u
  match s.check (s.who t) .read va n with
  | .bad c => .bad c
  | .miss a => .blocked (.walk a .read)
  | .ok ps =>
    if !s.keysOk ps then .bad codeAddr
    else match s.loadStall t va n ps with
      | .none =>
        let ps' := ps.map (fun p => { p with data := s.partNow t direct p })
        if ps'.any (fun p => p.data.isSome && (match p.loc with
          | .scr _ | .wgt _ _ => s.badAt t.plot p.loc p.len
          | _ => false)) then .bad codeEcc
        else
        if ps'.all (fun p => p.data.isSome) then .now (ps'.flatMap (fun p => p.data.getD []))
        else .later (s.setThr u { t with
          loads := t.loads ++ [⟨t.seq, va, n, dst, ps', hint, direct, acq, t.pc, t.snap, 0⟩], seq := t.seq + 1 })
      | w => .blocked w

/-! ### Stores of the F path -/

/-- What starting a store answers. -/
inductive Put where
  | done (s : State)
  | blocked (w : Wait)
  | bad (code : Nat) (addr : DWord)

/-- Drop the core's L1 copy of the line of a device-memory location (R267). -/
def State.dropL1 (s : State) (core : Nat) (l : Loc) : State :=
  match l with
  | .dev pa _ => s.modCore core (fun c => { c with l1 := c.l1.set (lineOf pa) default })
  | _ => s

/-- Perform or hold one part of a store (R267, R270): the scratchpad is written at once, any other home later. -/
def State.putPart (s : State) (u : Nat) (va : DWord) (bs : List Byte) (p : Part) : State :=
  let t := s.thr u
  let d := (bs.drop p.off).take p.len
  match p.loc with
  | .scr o => (s.scrWrite t.plot o d).modThr u (fun t => t.raiseTimes p.loc s.time)
  | l => (s.dropL1 (s.coreOf t) l).modThr u (fun t =>
      { t with stores := t.stores ++ [⟨t.seq, va + BitVec.ofNat 64 p.off, l, p.len, .store d, t.pc, false, none, 0, 0⟩] })

/-- Perform or hold the parts of a store in order. -/
def State.putParts (s : State) (u : Nat) (va : DWord) (bs : List Byte) : List Part → State
  | [] => s
  | p :: ps => State.putParts (s.putPart u va bs p) u va bs ps

/-- Start a store of thread `u` (R94, R95, R98, R99, R103, R267). `tested` says whether the scoreboard tests it. -/
def State.startStore (s : State) (u : Nat) (va : DWord) (bs : List Byte) (tested : Bool) : Put :=
  let t := s.thr u
  match s.check (s.who t) .write va bs.length with
  | .bad c => .bad c va
  | .miss a => .blocked (.walk a .write)
  | .ok ps =>
    if tested && s.scoreHit t true va.toNat bs.length then .blocked .scoreboard
    else .done ((s.putParts u va bs ps).modThr u (fun t => { t with seq := t.seq + 1 }))

/-! ### Fences -/

/-- Completion time T.S of a thread, by scope code (R110, R113). -/
def Thread.scopeTime (t : Thread) (scope : Nat) : Nat :=
  if scope = 0 then t.tCore else if scope = 1 then t.tDie else if scope = 2 then t.tPkg else t.tSys

/-- Whether the fence of a scope may pass (R111). Window-1 stores are performed at issue. -/
def State.fenceOk (s : State) (t : Thread) (scope : Nat) : Bool :=
  t.loads.isEmpty
  && t.stores.all (fun h => match h.op with | .amo _ _ _ _ _ => false | .store _ => decide (scope = 0) && (match h.loc with | .scr _ => false | _ => true))
  && decide (t.scopeTime scope < s.time)

/-! ### The call stack -/

/-- Push a return address (R82, R83): a spill is two plain 8-byte stores, and nothing is changed where either cannot be made. A full
spill region is reported at the address after it (DESIGN CHOICE, notes/assumptions/85.md), and a region in window 3 is reached by remote
stores (DESIGN CHOICE, notes/assumptions/86.md). -/
def State.push (s : State) (u : Nat) (v : DWord) (tested : Bool) : Put :=
  let t := s.thr u
  let va := t.sbase + BitVec.ofNat 64 (8 * t.csSp)
  match t.cs with
  | [d, c, b, a] =>
    if t.csSp = 8192 then .bad codeAddr va
    else match s.startStore u va (leBytes 8 a.toNat) tested with
      | .done s1 =>
        match s1.startStore u (va + 8) (leBytes 8 b.toNat) tested with
        | .done s2 => .done (s2.modThr u (fun t => { t with cs := [v, d, c], csSp := t.csSp + 2 }))
        | r => r
      | r => r
  | cs => .done (s.setThr u { t with cs := v :: cs })

/-! ### Taking an exception -/

/-- Stop thread `u` for the device runtime (R131 step 1). Its arrivals at numbered barriers stand (DESIGN CHOICE,
notes/assumptions/88.md). -/
def State.stopThread (s : State) (u : Nat) (q : Stop) : State :=
  (s.modThr u (fun t => { t with wait := .stopped, since := s.time, stop := some q, pc := q.restart })).post
    (dieOf (s.coreOf (s.thr u))) ⟨.stopped, [], [u, q.code, q.sub, q.addr.toNat, q.site.toNat, q.restart.toNat]⟩

/-- The 32-byte trap record (R131 step 2). -/
def trapRecord (q : Stop) : List Byte :=
  leBytes 2 q.code ++ leBytes 2 q.sub ++ leBytes 4 0 ++ leBytes 8 q.addr.toNat ++ leBytes 8 q.site.toNat ++ leBytes 8 q.restart.toNat

/-- Do a store or push of a trap entry in one step, with the walks it needs, at most `fuel` of them: the state after it, and the fault it
meets, with its address. A walk that ends without a leaf raises its PAGE event (R286). -/
def State.putNow (s : State) (u : Nat) (f : State → Put) : Nat → State × Option (Nat × DWord)
  | 0 =>
    match f s with
    | .done s' => (s', none)
    | .bad c va => (s, some (c, va))
    | .blocked _ => (s, some (codePage, 0))
  | fuel + 1 =>
    match f s with
    | .done s' => (s', none)
    | .bad c va => (s, some (c, va))
    | .blocked (.walk va a) =>
      let r := s.walkOnce (s.who (s.thr u)) (s.askThread (s.thr u)) a va
      if r.2 then State.putNow r.1 u f fuel else (r.1, some (codePage, va))
    | .blocked _ => (s, some (codePage, 0))

/-- Do the next step of a trap entry where the one before met no fault. -/
def putThen (r : State × Option (Nat × DWord)) (k : State → State × Option (Nat × DWord)) : State × Option (Nat × DWord) :=
  match r.2 with
  | none => k r.1
  | some _ => r

/-- Steps 2 to 4 of R131, and the fault that step 2 or 3 meets. The stores of the entry are not tested against the range scoreboard
(DESIGN CHOICE, notes/assumptions/87.md). Bits [1:0] of the program counter are 0 (R23). -/
def State.enterTvec (s : State) (u : Nat) (tvec : DWord) (q : Stop) : State × Option (Nat × DWord) :=
  putThen (s.putNow u (fun s => s.startStore u ((s.thr u).sbase - 32) (trapRecord q) false) 2) (fun s1 =>
    putThen (s1.putNow u (fun s => s.push u q.site false) 4) (fun s2 =>
      putThen (s2.putNow u (fun s => s.push u q.restart false) 4) (fun s3 =>
        (s3.modThr u (fun t => { t with pc := tvec &&& ~~~3#64 }), none))))

/-- Take a precise fault or user trap in thread `u` (R131). A fault of the entry's own stores stops the thread, and it is that fault that
goes to the runtime. -/
def State.trap (s : State) (u : Nat) (q : Stop) : State :=
  let s0 := s.modThr u (fun t =>
    { t.breakLatches with wait := .none, pend := none, bulk := none, mrun := none, barArr := false, tblLd := false, pc := q.restart, age := s.time })
  let tvec := (s.ctxs.get (s.thr u).ctx).tvec
  if tvec = 0 ∨ q.code = codePage then s0.stopThread u q
  else match s0.enterTvec u tvec q with
    | (s1, none) => s1
    | (s1, some (c, va)) => s1.stopThread u ⟨c, 0, va, q.site, q.restart⟩

/-- Take a precise fault at the instruction that thread `u` stands at; `c` is the chain it belongs to, whose effects are undone
(R39). -/
def State.faultAt (s : State) (u : Nat) (c : Option Snap) (code sub : Nat) (addr : DWord) : State :=
  let t := s.thr u
  match c with
  | none => s.trap u ⟨code, sub, addr, t.pc, t.pc⟩
  | some q => (s.setThr u (t.restore q)).trap u ⟨code, sub, addr, t.pc, q.pc⟩

/-! ### The frame of a thread instruction -/

/-- What a thread instruction's own effect comes to. -/
inductive Eff where
  /-- It completes; `v` is the latch value of a latch producer. -/
  | done (s : State) (v : DWord)
  /-- It completes and transfers control. -/
  | jump (s : State) (pc : DWord)
  /-- It raises a precise fault. -/
  | fault (code sub : Nat) (addr : DWord)
  /-- It completes, and then raises the user trap with this number (R85). -/
  | user (num : Nat)
  /-- It completes, and the thread then waits. -/
  | rest (s : State) (w : Wait)
  /-- It waits; the state may hold an access it has started. -/
  | wait (s : State) (w : Wait)
  /-- The thread has left its instruction stream. -/
  | gone (s : State)

/-- Thread `t` after an instruction of thread `q` that ends the chain `c`: the loads and atomics that it has begun restart at the chain's
start where they fault later (R39, R97). -/
def Thread.chained (t q : Thread) (c : Option Chain) : Thread :=
  match c with
  | none => t
  | some x =>
    if t.seq = q.seq then t
    else { t with
      loads := t.loads.map (fun l => if q.seq ≤ l.seq then { l with snap := x.snap } else l)
      stores := t.stores.map (fun h => if q.seq ≤ h.seq then { h with op := match h.op with
        | .amo op a b d _ => .amo op a b d x.snap
        | o => o } else h) }

/-- The thread past its instruction, at `pc`. -/
def Thread.goTo (t : Thread) (pc : DWord) : Thread :=
  { t with pc := pc, wait := .none, pend := none, bulk := none, mrun := none, barArr := false }

/-- A thread whose wait has ended has become ready now (R216). -/
def Thread.readyAt (t : Thread) (q : Thread) (now : Nat) : Thread := if q.wait = .none then t else { t with age := now }

/-- Begin or continue a wait: its start is kept when the same wait goes on (R118). -/
def Thread.waitFor (t : Thread) (now : Nat) (w : Wait) (c : Option Snap) : Thread :=
  { t with wait := w, pend := c, since := if t.wait = w then t.since else now }

/-- The wait of an instruction: as `waitFor`, and by the core's clock as well (R16). -/
def Thread.waitAt (t : Thread) (now clk : Nat) (w : Wait) (c : Option Snap) : Thread :=
  { t.waitFor now w c with sinceC := if t.wait = w then t.sinceC else clk }

/-- The state after an instruction's own effect (R36, R37, R39, R131). `q` is the thread before it, `c` its chain. -/
def State.settle (s : State) (sh : Shape) (u : Nat) (q : Thread) (c : Option Chain) (e : Eff) : State :=
  match e with
  | .done s' v => s'.modThr u (fun t =>
      ((if sh.producer then t.produce q.snap c v else (t.chained q c).breakLatches).goTo (q.pc + BitVec.ofNat 64 sh.len)).readyAt q s.time)
  | .jump s' pc => s'.modThr u (fun t => (t.breakLatches.goTo pc).readyAt q s.time)
  | .fault code sub addr => s.faultAt u (c.map (·.snap)) code sub addr
  | .user num => (s.modThr u (fun t => t.breakLatches.goTo (q.pc + BitVec.ofNat 64 sh.len))).trap u
      ⟨codeUser, num, 0, q.pc, q.pc + BitVec.ofNat 64 sh.len⟩
  | .rest s' w => s'.modThr u (fun t =>
      { t.breakLatches.goTo (q.pc + BitVec.ofNat 64 sh.len) with wait := w, since := s.time })
  | .wait s' w => s'.modThr u (fun t => (t.chained q c).waitAt s.time (s.clk (s.coreOf q)) w (c.map (·.snap)))
  | .gone s' => s'

/-- A thread instruction of shape `sh` whose own effect is `body`: steps 5 to 8 of R35, then R37. The thread is `s.cur`. An
instruction whose operands are not available leaves the thread as it is (R216). -/
def issue (sh : Shape) (body : State → Eff) (s : State) : Host.Outcome State Fault Refusal :=
  let u := s.cur
  let t := s.thr u
  if !t.live then .fault .noThread
  else if t.hazard sh then .next s
  else
    let c := t.nextChain sh
    if t.badLatch sh || (match c with | some x => decide (4 < x.len) | none => false) then
      .next (s.faultAt u (c.map (·.snap)) codeField 0 0)
    else if s.privOf t < sh.priv then .next (s.faultAt u (c.map (·.snap)) codeField 0 0)
    else if !t.guard sh.g then
      .next (s.setThr u ((if sh.producer then t.pass c else t.breakLatches).goTo (t.pc + BitVec.ofNat 64 sh.len)))
    else .next (s.settle sh u t c (body s))

/-- The start of the chain that the word of shape `sh`, at which thread `t` stands, would end (R39): none for a word of no shape. -/
def Thread.chainOf (t : Thread) (sh : Option Shape) : Option Snap :=
  match sh with
  | some x => (t.nextChain x).map (·.snap)
  | none => none

/-- A producer instruction that changes only the thread: `f` gives the new thread and the latch value. -/
def issueAlu (sh : Shape) (f : Thread → Thread × DWord) (s : State) : Host.Outcome State Fault Refusal :=
  issue sh (fun s => .done (s.setThr s.cur (f (s.thr s.cur)).1) (f (s.thr s.cur)).2) s

/-- The effect of an instruction that has read `n` bytes at `va` as plain F-path loads: run `k` on them, or load them and
wait. -/
def State.withBytes (s : State) (u : Nat) (va : DWord) (n : Nat) (k : List Byte → Eff) : Eff :=
  match (s.thr u).bulk with
  | some bs => k bs
  | none =>
    match s.startLoad u va n (.bulk 0) .dflt false false with
    | .now bs => k bs
    | .later s' => .wait s' .bulk
    | .blocked w => .wait s w
    | .bad c => .fault c 0 va

/-- The effect of a fill of the call stack from `va` (R82, R83): two plain 8-byte loads, each with its own checks, before `k` runs. -/
def State.withPair (s : State) (u : Nat) (va : DWord) (k : List Byte → Eff) : Eff :=
  match (s.thr u).bulk with
  | some bs => k bs
  | none =>
    match s.check (s.who (s.thr u)) .read va 8, s.check (s.who (s.thr u)) .read (va + 8) 8 with
    | .bad c, _ => .fault c 0 va
    | .miss a, _ => .wait s (.walk a .read)
    | _, .bad c => .fault c 0 (va + 8)
    | _, .miss a => .wait s (.walk a .read)
    | .ok _, .ok _ =>
      match s.startLoad u va 16 (.bulk 8) .dflt false false with
      | .now bs => k bs
      | .later s' => .wait s' .bulk
      | .blocked w => .wait s w
      | .bad c => .fault c 0 va

end Sys2Proof.Machine
end

