-- ==== Sys2Proof/Machine/LoadStore.lean ====
section
/-! DEFINITION. Loads, stores and prefetch of the F path, and the full/empty bits (03_memory_system_instructions.md R93 to R104). -/

namespace Sys2Proof.Machine

/-! ### Addresses and data -/

/-- `addr := src64(A) + off` of an M-format word (R34, R98): OFF6 × `scale`, or the literal where OFF6 is −32. -/
def Thread.mAddr (t : Thread) (lit : Word) (a o : BitVec 6) (scale : Nat) : DWord :=
  t.src64 lit a + (if o = 32 then lit.signExtend 64 else o.signExtend 64 * BitVec.ofNat 64 scale)

/-- Bytes of a SIZE code (R98). -/
def sizeBytes (z : BitVec 2) : Nat := 2 ^ z.toNat

/-- The hint of an SC code (R43). -/
def hintOf (c : BitVec 2) : Hint := if c = 1 then .stream else if c = 2 then .keep else .dflt

/-- The 32-bit words of loaded bytes, lowest first, the last zero-extended. -/
def loadWords (bs : List Byte) : Nat → List Word
  | 0 => []
  | n + 1 => BitVec.ofNat 32 (leNat (bs.take 4)) :: loadWords (bs.drop 4) n

/-- A byte or halfword sign-extended to 32 bits (R98). -/
def signWord (bs : List Byte) : Word := BitVec.ofInt 32 (sgn (8 * bs.length) (leNat bs))

/-- Put loaded bytes where a load's destination says (R98, R268). -/
def Thread.landed (t : Thread) (d : LoadDst) (bs : List Byte) : Thread :=
  match d with
  | .none => t
  | .regs n _ true => t.setG n (signWord bs)
  | .regs n k false => t.setGs n (loadWords bs k)
  | .line => t
  | .bulk _ => { t with bulk := some bs }

/-- The destination of a load of `k` registers into field D; D = 62 discards (R98). -/
def loadDst (d : BitVec 6) (k : Nat) (signed : Bool) : LoadDst :=
  if d.toNat < 60 then .regs d.toNat k signed else .none

/-! ### The effects -/

/-- A load of `n` bytes at `va` (R98, R101): the value lands at once, or when it returns. -/
def loadEff (va : DWord) (n : Nat) (dst : LoadDst) (hint : Hint) (direct acq : Bool) (s : State) : Eff :=
  match s.startLoad s.cur va n dst hint direct acq with
  | .now bs => .done (s.modThr s.cur (fun t => t.landed dst bs)) 0
  | .later s' => .done s' 0
  | .blocked w => .wait s w
  | .bad c => .fault c 0 va

/-- A store of bytes at `va` (R98). -/
def storeEff (va : DWord) (bs : List Byte) (s : State) : Eff :=
  match s.startStore s.cur va bs true with
  | .done s' => .done s' 0
  | .blocked w => .wait s w
  | .bad c va => .fault c 0 va

/-- Whether an access with these parts leaves the package's own memory, so that every scope acts as `sys` (R101). -/
def outside (ps : List Part) : Bool :=
  ps.any (fun p => match p.loc with
    | .host _ | .rem _ _ => true
    | _ => false)

/-- A release store (R101): the wait of `fence.scope`, then the store. -/
def releaseEff (scope : Nat) (va : DWord) (bs : List Byte) (s : State) : Eff :=
  let t := s.thr s.cur
  match s.check (s.who t) .write va bs.length with
  | .bad c => .fault c 0 va
  | .miss a => .wait s (.walk a .write)
  | .ok ps => if s.fenceOk t (if outside ps then 3 else scope) then storeEff va bs s else .wait s .fence

/-- `pf` (R100): a read of the line that writes no register and raises no fault, at its checks or later; an address that would fault, or
one outside window-0 memory, does nothing. -/
def prefetchEff (va : DWord) (s : State) : Eff :=
  let t := s.thr s.cur
  match s.check (s.who t) .read va 1 with
  | .ok ps =>
    if s.keysOk ps && ps.any (fun p => match p.loc with | .dev _ _ => true | _ => false) then
      match s.startLoad s.cur va 1 .line .dflt false false with
      | .later s' => .done s' 0
      | _ => .done s 0
    else .done s 0
  | _ => .done s 0

/-! ### Loads and stores -/

/-- Meaning of `ld` (R98). -/
def execLd (f : FM) (s : State) : Host.Outcome State Fault Refusal :=
  issue (shM f (.dst (sizeRegs f.z)) (f.c != 3)) (fun s =>
    loadEff ((s.thr s.cur).mAddr f.lit f.a f.o (sizeBytes f.z)) (sizeBytes f.z) (loadDst f.d (sizeRegs f.z) false) (hintOf f.c) false false s) s

/-- Meaning of `lds` (R98). -/
def execLds (f : FM) (s : State) : Host.Outcome State Fault Refusal :=
  issue (shM f (.dst 1) (f.c != 3 && decide (f.z.toNat ≤ 1))) (fun s =>
    loadEff ((s.thr s.cur).mAddr f.lit f.a f.o (sizeBytes f.z)) (sizeBytes f.z) (loadDst f.d 1 true) (hintOf f.c) false false s) s

/-- Meaning of `st` (R98). -/
def execSt (f : FM) (s : State) : Host.Outcome State Fault Refusal :=
  issue (shM f (.src (sizeRegs f.z)) (f.c != 3)) (fun s =>
    let t := s.thr s.cur
    storeEff (t.mAddr f.lit f.a f.o (sizeBytes f.z)) (leBytes (sizeBytes f.z) (if f.z = 3 then (t.src64 f.lit f.d).toNat else (t.src32 f.lit f.d).toNat)) s) s

/-- Meaning of `ldq` (R98). -/
def execLdq (f : FMq) (s : State) : Host.Outcome State Fault Refusal :=
  issue (shLdq f) (fun s =>
    loadEff ((s.thr s.cur).mAddr f.lit f.a f.o 16) 16 (loadDst f.d 4 false) .dflt false false s) s

/-- The 16 bytes that `stq` stores (R98). -/
def quadBytes (t : Thread) (d : BitVec 6) : List Byte := (t.getGs d.toNat 4).flatMap (fun w => leBytes 4 w.toNat)

/-- Meaning of `stq` (R98). -/
def execStq (f : FMq) (s : State) : Host.Outcome State Fault Refusal :=
  issue (shStq f) (fun s =>
    storeEff ((s.thr s.cur).mAddr f.lit f.a f.o 16) (quadBytes (s.thr s.cur) f.d) s) s

/-- Meaning of `ld.nc` (R98): read at home, no L1 copy used or kept. -/
def execLdNc (f : FMn) (s : State) : Host.Outcome State Fault Refusal :=
  issue (shLdNc f) (fun s =>
    loadEff ((s.thr s.cur).mAddr f.lit f.a f.o (sizeBytes f.z)) (sizeBytes f.z) (loadDst f.d (sizeRegs f.z) false) .dflt true false s) s

/-- Meaning of `pf` (R98, R100). -/
def execPf (f : FMp) (s : State) : Host.Outcome State Fault Refusal :=
  issue (shPf f) (fun s => prefetchEff ((s.thr s.cur).mAddr f.lit f.a f.o 128) s) s

/-- Meaning of `lda` (R98, R101). -/
def execLda (f : FM) (s : State) : Host.Outcome State Fault Refusal :=
  issue (shM f (.dst (sizeRegs f.z)) true) (fun s =>
    loadEff ((s.thr s.cur).mAddr f.lit f.a f.o (sizeBytes f.z)) (sizeBytes f.z) (loadDst f.d (sizeRegs f.z) false) .dflt true true s) s

/-- Meaning of `stl` (R98, R101). -/
def execStl (f : FM) (s : State) : Host.Outcome State Fault Refusal :=
  issue (shM f (.src (sizeRegs f.z)) true) (fun s =>
    let t := s.thr s.cur
    releaseEff f.c.toNat (t.mAddr f.lit f.a f.o (sizeBytes f.z))
      (leBytes (sizeBytes f.z) (if f.z = 3 then (t.src64 f.lit f.d).toNat else (t.src32 f.lit f.d).toNat)) s) s

/-! ### Full/empty bits -/

/-- The number of lines of a plot's scratchpad allocation (R219). -/
def Plot.lines (p : Plot) : Nat := (p.scratchLen + 127) / 128

/-- The line of a window-1 address of the thread's plot (R104); none where the address raises ADDR. -/
def State.feLine (s : State) (t : Thread) (va : DWord) : Option Nat :=
  if va.toNat / 2 ^ 60 = 1 ∧ va.toNat % 2 ^ 60 < (s.plotOf t).scratchLen then some (va.toNat % 2 ^ 60 / 128) else none

/-- Set or clear the full bits of `n` lines from the line of `va` on (R104). -/
def feEff (full : Bool) (va : DWord) (n : Nat) (s : State) : Eff :=
  let t := s.thr s.cur
  match s.feLine t va with
  | none => .fault codeAddr 0 va
  | some l =>
    if n = 0 then .done s 0
    else if (s.plotOf t).lines < l + n then .fault codeAddr 0 va
    else if !full && s.scoreHit t true (2 ^ 60 + 128 * l) (128 * n) then .wait s .scoreboard
    else .done (s.modPlot t.plot (fun p => p.setFull full l n)) 0

/-- Meaning of `fe.clr` (R104). -/
def execFeClr (f : FAB) (s : State) : Host.Outcome State Fault Refusal :=
  issue (shAB f 2 1 0) (fun s =>
    let t := s.thr s.cur
    feEff false (t.src64 f.lit f.a) (t.src32 f.lit f.b).toNat s) s

/-- Meaning of `fe.set` (R104). The thread's earlier stores to window 1 have been performed. -/
def execFeSet (f : FAB) (s : State) : Host.Outcome State Fault Refusal :=
  issue (shAB f 2 1 0) (fun s =>
    let t := s.thr s.cur
    feEff true (t.src64 f.lit f.a) (t.src32 f.lit f.b).toNat s) s

/-- Meaning of `fe.tst` (R104). -/
def execFeTst (f : FPa) (s : State) : Host.Outcome State Fault Refusal :=
  issue (shFeTst f) (fun s =>
    let t := s.thr s.cur
    match s.feLine t (t.src64 f.lit f.a) with
    | none => .fault codeAddr 0 (t.src64 f.lit f.a)
    | some l => .done (s.setThr s.cur (t.wrp f.nw f.p (!(s.plotOf t).empty.get l))) 0) s

/-- Meaning of `fe.wt` (R104). -/
def execFeWt (f : FAn) (s : State) : Host.Outcome State Fault Refusal :=
  issue (shAn f) (fun s =>
    let t := s.thr s.cur
    match s.feLine t (t.src64 f.lit f.a) with
    | none => .fault codeAddr 0 (t.src64 f.lit f.a)
    | some l => if (s.plotOf t).empty.get l then .wait s .full else .done s 0) s

end Sys2Proof.Machine
end

