-- ==== Sys2Proof/Machine/Flags.lean ====
section
/-! DEFINITION. The status flags of `fpsr`, the control fields of `fpcr`, and the thread's LFSR (01_words.md R26,
04_number_instructions.md R139 to R141, 09_numbers.md R351, R359). -/

namespace Sys2Proof.Machine

/-- The bits of `fpsr` (R26). -/
def fNV : Word := 1
def fDZ : Word := 2
def fOF : Word := 4
def fUF : Word := 8
def fNX : Word := 16
def fALLMASK : Word := 32
def fPSN : Word := 64

/-- A flag that is raised when `b` holds. -/
def flagIf (b : Bool) (f : Word) : Word := if b then f else 0

/-- `fpcr.rnd` (R26); 6 and 7 are never stored. -/
def Thread.rnd (t : Thread) : Nat := t.fpcr.toNat % 8

/-- `fpcr.nsat` (R26). -/
def Thread.nsat (t : Thread) : Bool := t.fpcr.getLsbD 3

/-- `fpcr.pinv` (R26). -/
def Thread.pinv (t : Thread) : Bool := t.fpcr.getLsbD 4

/-- Raise flags in `fpsr`, which only ever sets bits (R26); an invalid operation under `pinv` raises `psn` too (R141). -/
def Thread.raise (t : Thread) (f : Word) : Thread :=
  { t with fpsr := t.fpsr ||| f ||| (if t.pinv && f.getLsbD 0 then fPSN else 0) }

/-- One Galois step of the LFSR (R359). -/
def lfsrStep (s : Word) : Word := if s.getLsbD 0 then (s >>> 1) ^^^ 0x80200003 else s >>> 1

/-- The rounding of one value (R357): the modes of `fpcr.rnd`, the stochastic one with its draw (R360). -/
inductive Rm where
  | ne
  | z
  | dn
  | up
  | na
  | sr (draw : Nat)
  deriving DecidableEq, Repr, Inhabited

/-- The rounding of the next value that a `round_mode()` step produces, and the thread after its LFSR step, which mode 5 takes once
for each value (R139, R360). -/
def Thread.draw (t : Thread) : Rm × Thread :=
  if t.rnd = 0 then (.ne, t)
  else if t.rnd = 1 then (.z, t)
  else if t.rnd = 2 then (.dn, t)
  else if t.rnd = 3 then (.up, t)
  else if t.rnd = 4 then (.na, t)
  else
    let s := lfsrStep t.lfsr
    (.sr s.toNat, { t with lfsr := s })

/-- The rounding of a step that ignores the LFSR: mode 5 acts as nearest-even (R162). -/
def Thread.rmFixed (t : Thread) : Rm :=
  if t.rnd = 1 then .z else if t.rnd = 2 then .dn else if t.rnd = 3 then .up else if t.rnd = 4 then .na else .ne

end Sys2Proof.Machine
end

