-- ==== Sys2Proof/Machine/Num.lean ====
section
/-! DEFINITION. Numbers to the bit (09_numbers.md R352 to R361, 04_number_instructions.md R138 to R150): formats, exact values,
rounding, overflow, underflow, and conversion into the narrow formats. Values are exact dyadic numbers, so every sum and
product is exact until its one rounding. -/

namespace Sys2Proof.Machine

/-- A value: a NaN (signalling or quiet), an infinity, or the number ±m × 2^e; m = 0 is a signed zero. -/
inductive Fp where
  | nan (sig : Bool)
  | inf (neg : Bool)
  | fin (neg : Bool) (m : Nat) (e : Int)
  deriving DecidableEq, Repr, Inhabited

/-- Which codes of the top exponent are no numbers (R352): IEEE, IEEE with every NaN quiet (E5M2), the all-ones code only
(E4M3), none. -/
inductive Specials where
  | ieee
  | quiet
  | ones
  | none
  deriving DecidableEq, Repr, Inhabited

/-- A floating-point format (R352): exponent and mantissa bits, bias, special codes. -/
structure Fmt where
  eb : Nat
  mb : Nat
  bias : Int
  sp : Specials
  deriving DecidableEq, Repr, Inhabited

def f32 : Fmt := ⟨8, 23, 127, .ieee⟩
def f16 : Fmt := ⟨5, 10, 15, .ieee⟩
def bf16 : Fmt := ⟨8, 7, 127, .ieee⟩
def e4m3 : Fmt := ⟨4, 3, 7, .ones⟩
def e5m2 : Fmt := ⟨5, 2, 15, .quiet⟩
def e3m2 : Fmt := ⟨3, 2, 3, .none⟩
def e2m3 : Fmt := ⟨2, 3, 1, .none⟩
def e2m1 : Fmt := ⟨2, 1, 1, .none⟩

/-- Width of a format in bits. -/
def Fmt.width (f : Fmt) : Nat := 1 + f.eb + f.mb

/-- Exponent of the unit of the subnormal grid (R352). -/
def Fmt.emin (f : Fmt) : Int := 1 - f.bias - f.mb

/-- Exponent of the smallest normal (R352). -/
def Fmt.enorm (f : Fmt) : Int := 1 - f.bias

/-- The sign bit of a code. -/
def Fmt.sign (f : Fmt) (neg : Bool) : Nat := if neg then 2 ^ (f.eb + f.mb) else 0

/-- `decode(c)` (R352, R353, R357). -/
def Fmt.decode (f : Fmt) (c : Nat) : Fp :=
  let neg := bit c (f.eb + f.mb)
  let e := bits c f.mb f.eb
  let m := bits c 0 f.mb
  let top := e == 2 ^ f.eb - 1
  if top && f.sp == .ieee then (if m = 0 then .inf neg else .nan (!bit m (f.mb - 1)))
  else if top && f.sp == .quiet then (if m = 0 then .inf neg else .nan false)
  else if top && f.sp == .ones && m == 2 ^ f.mb - 1 then .nan false
  else if e = 0 then .fin neg m f.emin
  else .fin neg (2 ^ f.mb + m) (f.emin + (e : Int) - 1)

/-- Number of bits of a magnitude. -/
def nlen (m : Nat) : Nat := if m = 0 then 0 else Nat.log2 m + 1

/-- Round the magnitude m at `s` bits (R357, R360): the rounded quotient and whether it is inexact. -/
def roundAt (rm : Rm) (neg : Bool) (m s : Nat) : Nat × Bool :=
  let lo := m / 2 ^ s
  let r := m % 2 ^ s
  let up := match rm with
    | .ne => decide (2 ^ s < 2 * r) || (decide (2 * r = 2 ^ s) && decide (r ≠ 0) && lo % 2 == 1)
    | .na => decide (2 ^ s ≤ 2 * r) && decide (r ≠ 0)
    | .z => false
    | .dn => neg && decide (r ≠ 0)
    | .up => !neg && decide (r ≠ 0)
    | .sr draw => decide (r ≠ 0) && decide (2 ^ 32 ≤ r * 2 ^ 32 / 2 ^ s + draw)
  (lo + b2n up, decide (r ≠ 0))

/-- Round m × 2^e onto the multiples of 2^q: the multiple, and whether it is inexact. -/
def roundQ (rm : Rm) (neg : Bool) (m : Nat) (e q : Int) : Nat × Bool :=
  if q ≤ e then (m * 2 ^ (e - q).toNat, false) else roundAt rm neg m (q - e).toNat

/-- Exponent of the unit that m × 2^e is rounded to in format `f` (R357): p bits, and no finer than the subnormal grid. -/
def Fmt.unit (f : Fmt) (m : Nat) (e : Int) : Int := max (e + nlen m - (f.mb + 1 : Nat)) f.emin

/-- Whether m × 2^e is tiny (R358): its rounding with an unbounded exponent lies below the smallest normal. -/
def Fmt.tiny (f : Fmt) (rm : Rm) (neg : Bool) (m : Nat) (e : Int) : Bool :=
  let q := e + nlen m - (f.mb + 1 : Nat)
  let r := (roundQ rm neg m e q).1
  decide (q + nlen r ≤ f.enorm)

/-- `encode` of the number m × 2^q, whose m has at most mb + 2 bits (R352). -/
def Fmt.encodeMag (f : Fmt) (m : Nat) (q : Int) : Nat :=
  if m < 2 ^ f.mb then m
  else if m < 2 ^ (f.mb + 1) then ((q - f.emin).toNat + 1) * 2 ^ f.mb + (m - 2 ^ f.mb)
  else ((q - f.emin).toNat + 2) * 2 ^ f.mb + (m / 2 - 2 ^ f.mb)

/-- The code of +∞ of an IEEE format, and of its largest finite value (R352). -/
def Fmt.infCode (f : Fmt) : Nat := (2 ^ f.eb - 1) * 2 ^ f.mb
def Fmt.maxCode (f : Fmt) : Nat := f.infCode - 1

/-- The canonical quiet NaN of an IEEE format (R140). -/
def Fmt.qnan (f : Fmt) : Nat := f.infCode + 2 ^ (f.mb - 1)

/-- The code for a magnitude that overflows under a rounding (R358). -/
def Fmt.overflow (f : Fmt) (rm : Rm) (neg : Bool) : Nat :=
  let toInf := match rm with
    | .ne | .na | .sr _ => true
    | .z => false
    | .dn => neg
    | .up => !neg
  f.sign neg + if toInf then f.infCode else f.maxCode

/-- Round a value into FP32, FP16 or BF16 with the flags of R358. A NaN becomes the canonical one (R140). -/
def Fmt.round (f : Fmt) (rm : Rm) (x : Fp) : Nat × Word :=
  match x with
  | .nan s => (f.qnan, flagIf s fNV)
  | .inf n => (f.sign n + f.infCode, 0)
  | .fin n m e =>
    if m = 0 then (f.sign n, 0)
    else
      let q := f.unit m e
      let r := roundQ rm n m e q
      if f.bias < q + nlen r.1 - 1 then (f.overflow rm n, fOF ||| fNX)
      else (f.sign n + f.encodeMag r.1 q, flagIf r.2 fNX ||| flagIf (r.2 && f.tiny rm n m e) fUF)

/-! ### Exact arithmetic -/

/-- The signed value of m × 2^e in units of 2^q, for q ≤ e. -/
def signedAt (n : Bool) (m : Nat) (e q : Int) : Int :=
  let v : Int := (m * 2 ^ (e - q).toNat : Nat)
  if n then -v else v

/-- The number v × 2^q; a zero takes the sign `z`. -/
def Fp.ofInt (v : Int) (q : Int) (z : Bool) : Fp := .fin (if v = 0 then z else decide (v < 0)) v.natAbs q

/-- Exact sum (R144): a zero sum of two zeros of one sign is that zero, any other zero sum is +0, and −0 rounding down. The second
component says that the operation is invalid: a signalling NaN, or ∞ − ∞. -/
def Fp.add (down : Bool) (x y : Fp) : Fp × Bool :=
  match x, y with
  | .nan a, .nan b => (.nan false, a || b)
  | .nan a, _ => (.nan false, a)
  | _, .nan b => (.nan false, b)
  | .inf a, .inf b => if a == b then (.inf a, false) else (.nan false, true)
  | .inf a, _ => (.inf a, false)
  | _, .inf b => (.inf b, false)
  | .fin a m e, .fin b k g =>
    let q := min e g
    (Fp.ofInt (signedAt a m e q + signedAt b k g q) q (if m = 0 ∧ k = 0 ∧ a = b then a else down), false)

/-- Exact product; 0 × ∞ is invalid (R144). -/
def Fp.mul (x y : Fp) : Fp × Bool :=
  match x, y with
  | .nan a, .nan b => (.nan false, a || b)
  | .nan a, _ => (.nan false, a)
  | _, .nan b => (.nan false, b)
  | .inf a, .inf b => (.inf (xor a b), false)
  | .inf a, .fin b m _ => if m = 0 then (.nan false, true) else (.inf (xor a b), false)
  | .fin a m _, .inf b => if m = 0 then (.nan false, true) else (.inf (xor a b), false)
  | .fin a m e, .fin b k g => (.fin (xor a b) (m * k) (e + g), false)

/-- The value with its sign changed. -/
def Fp.neg : Fp → Fp
  | .nan s => .nan s
  | .inf n => .inf (!n)
  | .fin n m e => .fin (!n) m e

/-- The value times 2^k, exactly. -/
def Fp.scale (x : Fp) (k : Int) : Fp :=
  match x with
  | .fin n m e => .fin n m (e + k)
  | y => y

/-- Whether the mode rounds an exact zero sum to −0 (R144). -/
def Rm.down : Rm → Bool
  | .dn => true
  | _ => false

/-- The exact sum of a list of values, from the left. -/
def Fp.sum (down : Bool) : Fp → List Fp → Fp × Bool
  | x, [] => (x, false)
  | x, y :: ys =>
    let a := Fp.add down x y
    let r := Fp.sum down a.1 ys
    (r.1, a.2 || r.2)

/-- Whether a value is a NaN. -/
def Fp.isNan : Fp → Bool
  | .nan _ => true
  | _ => false

/-- Whether a value is a signalling NaN. -/
def Fp.isSnan : Fp → Bool
  | .nan s => s
  | _ => false

/-- Round an exact result with its invalid mark (R140). -/
def Fmt.finish (f : Fmt) (rm : Rm) (x : Fp × Bool) : Nat × Word :=
  let r := f.round rm x.1
  (r.1, r.2 ||| flagIf x.2 fNV)

/-- `fadd` of two codes of a format (R144). -/
def Fmt.add (f : Fmt) (rm : Rm) (a b : Nat) : Nat × Word := f.finish rm (Fp.add rm.down (f.decode a) (f.decode b))

/-- `fsub`: a plus −b (R144). -/
def Fmt.sub (f : Fmt) (rm : Rm) (a b : Nat) : Nat × Word := f.finish rm (Fp.add rm.down (f.decode a) (f.decode b).neg)

/-- `fmul` (R144). -/
def Fmt.mul (f : Fmt) (rm : Rm) (a b : Nat) : Nat × Word := f.finish rm (Fp.mul (f.decode a) (f.decode b))

/-- ±(a × b) ± d with one rounding (R145). -/
def Fmt.fma (f : Fmt) (rm : Rm) (np nd : Bool) (a b d : Nat) : Nat × Word :=
  let p := Fp.mul (f.decode a) (f.decode b)
  let x := if np then p.1.neg else p.1
  let y := if nd then (f.decode d).neg else f.decode d
  let r := Fp.add rm.down x y
  f.finish rm (r.1, p.2 || r.2)

/-- Order of two values that are no NaNs; −0 and +0 are equal. -/
def Fp.lt (x y : Fp) : Bool :=
  match x, y with
  | .nan _, _ | _, .nan _ => false
  | .inf a, .inf b => a && !b
  | .inf a, .fin _ _ _ => a
  | .fin _ _ _, .inf b => !b
  | .fin a m e, .fin b k g =>
    let q := min e g
    decide (signedAt a m e q < signedAt b k g q)

/-- Equality of two values; a NaN equals nothing, and −0 equals +0 (R146). -/
def Fp.eq (x y : Fp) : Bool := !x.isNan && !y.isNan && !x.lt y && !y.lt x

/-- The sign of a value that is no NaN. -/
def Fp.sgn : Fp → Bool
  | .nan _ => false
  | .inf n => n
  | .fin n _ _ => n

/-- Minimum (`max` false) or maximum of two codes (R144): a single NaN gives the other operand, two give the canonical NaN, −0 lies
below +0, and a signalling NaN raises `nv`. -/
def Fmt.minmax (f : Fmt) (max : Bool) (a b : Nat) : Nat × Word :=
  let x := f.decode a
  let y := f.decode b
  let less := x.lt y || (x.eq y && x.sgn && !y.sgn)
  let v :=
    if x.isNan && y.isNan then f.qnan
    else if x.isNan then b
    else if y.isNan then a
    else if less == max then b else a
  (v, flagIf (x.isSnan || y.isSnan) fNV)

/-! ### Narrow formats -/

/-- The target formats of `convert_narrow` (R150). -/
inductive Nf where
  | e4m3
  | e5m2
  | e3m2
  | e2m3
  | e2m1
  | i8
  | i4
  deriving DecidableEq, Repr, Inhabited

/-- The floating-point format of a target; none for the integers. -/
def Nf.fmt : Nf → Option Fmt
  | .e4m3 => some Sys2Proof.Machine.e4m3
  | .e5m2 => some Sys2Proof.Machine.e5m2
  | .e3m2 => some Sys2Proof.Machine.e3m2
  | .e2m3 => some Sys2Proof.Machine.e2m3
  | .e2m1 => some Sys2Proof.Machine.e2m1
  | .i8 | .i4 => none

/-- Width of a code. -/
def Nf.width : Nf → Nat
  | .e4m3 | .e5m2 | .i8 => 8
  | .e3m2 | .e2m3 => 6
  | .e2m1 | .i4 => 4

/-- The invalid code (R150). -/
def Nf.invalid : Nf → Nat
  | .e4m3 => 0x7F
  | .e5m2 => 0x7E
  | .e3m2 | .e2m3 => 0x20
  | .e2m1 | .i4 => 0x8
  | .i8 => 0x80

/-- The escape code: the sign-only code (R150, R157, R353). -/
def Nf.escape (t : Nf) : Nat := 2 ^ (t.width - 1)

/-- The largest finite magnitude, as m × 2^e (R150). -/
def Nf.largest : Nf → Nat × Int
  | .e4m3 => (448, 0)
  | .e5m2 => (57344, 0)
  | .e3m2 => (28, 0)
  | .e2m3 => (15, -1)
  | .e2m1 => (6, 0)
  | .i8 => (127, 0)
  | .i4 => (7, 0)

/-- The code of the number ±m × 2^q on the target's grid (R150); a zero is +0. -/
def Nf.encode (t : Nf) (neg : Bool) (m : Nat) (q : Int) : Nat :=
  if m = 0 then 0
  else match t.fmt with
    | some f => f.sign neg + f.encodeMag m q
    | none => (if neg then 2 ^ t.width - m else m) % 2 ^ t.width

/-- The code of the largest magnitude with a sign. -/
def Nf.maxCode (t : Nf) (neg : Bool) : Nat :=
  match t.fmt with
  | none => t.encode neg t.largest.1 0
  | some f =>
    let q := f.unit t.largest.1 t.largest.2
    t.encode neg (roundQ .z neg t.largest.1 t.largest.2 q).1 q

/-- The value of a code (R352, R353): special codes of the integers and of the sign-only formats read as numbers. -/
def Nf.decode (t : Nf) (c : Nat) : Fp :=
  match t.fmt with
  | some f => f.decode (c % 2 ^ t.width)
  | none =>
    let v := Machine.sgn t.width c
    .fin (decide (v < 0)) v.natAbs 0

/-- `convert_narrow(x, t)` (R150): the code, the flags, and whether the conversion failed strictly (R141). With `nsat`
set a NaN gives the invalid code and `nv` alone (R361). -/
def Nf.convert (t : Nf) (nsat : Bool) (rm : Rm) (x : Fp) : Nat × Word × Bool :=
  match x with
  | .nan _ => (t.invalid, fNV, !nsat)
  | .inf n => if nsat then (t.maxCode n, fOF, false) else (t.invalid, fNV, true)
  | .fin n m e =>
    if m = 0 then (0, 0, false)
    else
      let q := match t.fmt with
        | some f => f.unit m e
        | none => 0
      let r := roundQ rm n m e q
      let b := min q t.largest.2
      if t.largest.1 * 2 ^ (t.largest.2 - b).toNat < r.1 * 2 ^ (q - b).toNat then
        (if nsat then (t.maxCode n, fOF ||| fNX, false) else (t.invalid, fOF ||| fNV, true))
      else
        let tiny := match t.fmt with
          | some f => f.tiny rm n m e
          | none => false
        (t.encode n r.1 q, flagIf r.2 fNX ||| flagIf (r.2 && tiny) fUF, false)

/-- Field `i` of `w` bits of a lane word (R138). -/
def laneField (x : Word) (w i : Nat) : Nat := bits x.toNat (w * i) w

/-- Pack codes of `w` bits from bit 0 upwards (R138). -/
def packFields (w : Nat) : List Nat → Nat
  | [] => 0
  | c :: cs => c + 2 ^ w * packFields w cs

end Sys2Proof.Machine
end

