-- ==== Sys2Proof/Machine/Atomics.lean ====
section
/-! DEFINITION. Read-modify-write atomics (03_memory_system_instructions.md R105 to R109). -/

namespace Sys2Proof.Machine

/-- Signed value of a doubleword taken as `n` bytes. -/
def dsgn (n : Nat) (x : DWord) : Int := sgn (8 * n) x.toNat

/-- `x` taken as `n` bytes. -/
def dcut (n : Nat) (x : DWord) : DWord := BitVec.ofNat 64 (x.toNat % 2 ^ (8 * n))

/-- Two BF16 sums, rounded to nearest-even (R107). -/
def faddB2 (a b : Nat) : Nat :=
  (bf16.add .ne (a % 65536) (b % 65536)).1 + 65536 * (bf16.add .ne (a / 65536 % 65536) (b / 65536 % 65536)).1

/-- The new value of an atomic of `n` bytes with operand `x` and, for `cas`, compare value `y` (R107, R108). -/
def atomNew (op : AOp) (n : Nat) (old x y : DWord) : DWord :=
  match op with
  | .add => dcut n (old + x)
  | .minS => if dsgn n x < dsgn n old then x else old
  | .maxS => if dsgn n old < dsgn n x then x else old
  | .minU => if x.toNat < old.toNat then x else old
  | .maxU => if old.toNat < x.toNat then x else old
  | .and => old &&& x
  | .or => old ||| x
  | .xor => old ^^^ x
  | .xchg => x
  | .cas => if old = y then x else old
  | .fadd => BitVec.ofNat 64 (f32.add .ne old.toNat x.toNat).1
  | .faddB2 => BitVec.ofNat 64 (faddB2 old.toNat x.toNat)
  | .fmax => BitVec.ofNat 64 (f32.minmax true old.toNat x.toNat).1
  | .incW => if x.toNat ≤ old.toNat then 0 else old + 1
  | .decW => if old = 0 ∨ x.toNat < old.toNat then x else old - 1

/-- Whether an atomic to host memory is one that PCIe carries (R109). -/
def hostAtomicOk (op : AOp) (n : Nat) : Bool :=
  Config.hostAtomics && n == 8 && (op == .add || op == .xchg || op == .cas)

/-- The old value of an atomic in its destination (R106); D = 62 discards it. -/
def Thread.oldTo (t : Thread) (d n : Nat) (old : DWord) : Thread :=
  if d < 60 then (if n = 8 then (t.setG d old.lo).setG (d + 1) old.hi else t.setG d old.lo) else t

/-- Perform an atomic of `n` bytes in the scratchpad of thread `u`'s plot (R106, R270). -/
def State.scrAtomic (s : State) (u : Nat) (l : Loc) (o n : Nat) (op : AOp) (x y : DWord) (d : Nat) : State :=
  let t := s.thr u
  let old := BitVec.ofNat 64 (leNat (Memory.read (s.plotOf t).scratch o n))
  (s.scrWrite t.plot o (leBytes n (atomNew op n old x y).toNat)).modThr u (fun t => (t.oldTo d n old).raiseTimes l s.time)

/-- An atomic of `n` bytes at `va` (R105, R106, R109): performed at once in the scratchpad, held for its home elsewhere. -/
def amoEff (op : AOp) (n : Nat) (va x y : DWord) (d : BitVec 6) (s : State) : Eff :=
  let t := s.thr s.cur
  if va.toNat % n ≠ 0 then .fault codeAlign 0 va
  else match s.check (s.who t) .atomic va n with
    | .bad c => .fault c 0 va
    | .miss a => .wait s (.walk a .atomic)
    | .ok [p] =>
      if !s.keysOk [p] then .fault codeAddr 0 va
      else match p.loc with
        | .host _ =>
          if !hostAtomicOk op n then .fault codeHostAtomic 0 va
          else if s.scoreHit t true va.toNat n then .wait s .scoreboard
          else .done (s.setThr s.cur { t with
            stores := t.stores ++ [⟨t.seq, va, p.loc, n, .amo op x y d.toNat t.snap, t.pc, false, none, 0, 0⟩], seq := t.seq + 1 }) 0
        | .scr o =>
          if !(s.plotOf t).fullAt o n then .wait s .full
          else if s.badAt t.plot p.loc n then .fault codeEcc 0 va
          else if s.scoreHit t true va.toNat n then .wait s .scoreboard
          else .done ((s.scrAtomic s.cur p.loc o n op x y d.toNat).modThr s.cur (fun t => { t with seq := t.seq + 1 })) 0
        | l =>
          if s.scoreHit t true va.toNat n then .wait s .scoreboard
          else .done ((s.dropL1 (s.coreOf t) l).modThr s.cur (fun t => { t with
            stores := t.stores ++ [⟨t.seq, va, l, n, .amo op x y d.toNat t.snap, t.pc, false, none, 0, 0⟩], seq := t.seq + 1 })) 0
    | .ok _ => .fault codeAddr 0 va

/-- An atomic whose operand is B (R105). -/
def amoRun (op : AOp) (w : Bool) (g : BitVec 4) (d a b : BitVec 6) (lit : Word) : State → Host.Outcome State Fault Refusal :=
  issue (shAmo g d a b lit (wRegs w) (.src (wRegs w))) (fun s =>
    let t := s.thr s.cur
    amoEff op (if w then 8 else 4) (t.src64 lit a) (if w then t.src64 lit b else (t.src32 lit b).setWidth 64) 0 d s)

/-- Meaning of `amo.add` (R107). -/
def execAmoAdd (f : FAm) : State → Host.Outcome State Fault Refusal := amoRun .add f.w f.g f.d f.a f.b f.lit

/-- Meaning of `amo.min.s` (R107). -/
def execAmoMinS (f : FAm) : State → Host.Outcome State Fault Refusal := amoRun .minS f.w f.g f.d f.a f.b f.lit

/-- Meaning of `amo.max.s` (R107). -/
def execAmoMaxS (f : FAm) : State → Host.Outcome State Fault Refusal := amoRun .maxS f.w f.g f.d f.a f.b f.lit

/-- Meaning of `amo.min.u` (R107). -/
def execAmoMinU (f : FAm) : State → Host.Outcome State Fault Refusal := amoRun .minU f.w f.g f.d f.a f.b f.lit

/-- Meaning of `amo.max.u` (R107). -/
def execAmoMaxU (f : FAm) : State → Host.Outcome State Fault Refusal := amoRun .maxU f.w f.g f.d f.a f.b f.lit

/-- Meaning of `amo.and` (R107). -/
def execAmoAnd (f : FAm) : State → Host.Outcome State Fault Refusal := amoRun .and f.w f.g f.d f.a f.b f.lit

/-- Meaning of `amo.or` (R107). -/
def execAmoOr (f : FAm) : State → Host.Outcome State Fault Refusal := amoRun .or f.w f.g f.d f.a f.b f.lit

/-- Meaning of `amo.xor` (R107). -/
def execAmoXor (f : FAm) : State → Host.Outcome State Fault Refusal := amoRun .xor f.w f.g f.d f.a f.b f.lit

/-- Meaning of `amo.xchg` (R107). -/
def execAmoXchg (f : FAm) : State → Host.Outcome State Fault Refusal := amoRun .xchg f.w f.g f.d f.a f.b f.lit

/-- Meaning of `amo.cas` (R107): B names cmp:new, a pair of words or a quad of two pairs. -/
def execAmoCas (f : FAm) : State → Host.Outcome State Fault Refusal :=
  issue (shAmo f.g f.d f.a f.b f.lit (wRegs f.w) (if f.w then .casQuad else .casPair)) (fun s =>
    let t := s.thr s.cur
    let va := t.src64 f.lit f.a
    let q := t.src64 f.lit f.b
    if f.w then amoEff .cas 8 va (t.pair (f.b.toNat + 2)) q f.d s
    else amoEff .cas 4 va (q.hi.setWidth 64) (q.lo.setWidth 64) f.d s)

/-- Meaning of `amo.fadd` (R107, R108). -/
def execAmoFadd (f : FDab) : State → Host.Outcome State Fault Refusal := amoRun .fadd false f.g f.d f.a f.b f.lit

/-- Meaning of `amo.fadd.b2` (R107, R108). -/
def execAmoFaddB2 (f : FDab) : State → Host.Outcome State Fault Refusal := amoRun .faddB2 false f.g f.d f.a f.b f.lit

/-- Meaning of `amo.fmax` (R107, R108). -/
def execAmoFmax (f : FDab) : State → Host.Outcome State Fault Refusal := amoRun .fmax false f.g f.d f.a f.b f.lit

/-- Meaning of `amo.inc.w` (R107). -/
def execAmoIncW (f : FDab) : State → Host.Outcome State Fault Refusal := amoRun .incW false f.g f.d f.a f.b f.lit

/-- Meaning of `amo.dec.w` (R107). -/
def execAmoDecW (f : FDab) : State → Host.Outcome State Fault Refusal := amoRun .decW false f.g f.d f.a f.b f.lit

end Sys2Proof.Machine
end

