-- ==== Sys2Proof/Machine/Barriers.lean ====
section
/-! DEFINITION. Group barriers, numbered barriers and barrier objects (03_memory_system_instructions.md R118 to R122,
05_cadence_microcode.md R192, 06_threads.md R221 to R223). -/

namespace Sys2Proof.Machine

/-! ### Group barriers -/

/-- Plots of a launch (R236). -/
def Launch.plotCount (l : Launch) : Nat :=
  let threads := leNat ((l.record.drop 8).take 4)
  let per := leNat ((l.record.drop 12).take 2) % 4096
  if per = 0 then 0 else (threads + per - 1) / per

/-- Threads per plot of a launch (R235). -/
def Launch.perPlot (l : Launch) : Nat := leNat ((l.record.drop 12).take 2) % 4096

/-- Whether some member of group `g` lies in a plot that has not been placed, and so has not started (R120). -/
def Launch.unstarted (l : Launch) (g : Nat) : Bool :=
  decide (l.nextPlot < l.plotCount) && (g == 0 || (l.groups.get g).any (fun r => decide (l.nextPlot * l.perPlot ≤ r.2)))

/-- Phase `k` of group `g` of launch `l` is complete (R120): every member has arrived k + 1 times or has exited. -/
def State.groupDone (s : State) (l g k : Nat) : Bool :=
  !(s.launches.get l).unstarted g
  && s.threads.all (fun e => !(e.2.live && (s.plotOf e.2).launch == l && (g == 0 || e.2.grps.contains g)) || decide (k < e.2.arr.get g))
  && (g != 0 || s.plots.all (fun e => !(e.2.live && e.2.launch == l)
      || e.2.bins.all (fun b => b.kids.all (fun c => decide (k < c.arr0)))))

/-- The group index that the field names, where it is one of the thread's (R119). -/
def Thread.groupOf (t : Thread) (v : Word) : Option Nat :=
  if v = 0 ∨ t.grps.contains v.toNat then some v.toNat else none

/-- Whether the phase of the thread's last arrival at a group is complete; true before its first (R119). -/
def State.lastDone (s : State) (t : Thread) (g : Nat) : Bool :=
  t.arr.get g == 0 || s.groupDone (s.plotOf t).launch g (t.arr.get g - 1)

/-- Arrive at the thread's next phase of a group, or wait (R120): first for the accesses of `fence.pkg`, then for the previous
phase. `k` says what follows. -/
def arriveEff (g : Nat) (k : State → Eff) (s : State) : Eff :=
  let t := s.thr s.cur
  if !s.fenceOk t 2 then .wait s .fence
  else if !s.lastDone t g then .wait s .barStall
  else k (s.setThr s.cur { t with arr := t.arr.set g (t.arr.get g + 1) })

/-- Wait until the phase of the thread's last arrival is complete (R119). -/
def groupWait (g : Nat) (s : State) : Eff :=
  if s.lastDone (s.thr s.cur) g then .done s 0 else .wait s .bar

/-- A group-barrier instruction (R119): a group that is not the thread's raises ILLEGAL.FIELD. -/
def groupEff (f : FA1) (k : Nat → State → Eff) (s : State) : Eff :=
  match (s.thr s.cur).groupOf ((s.thr s.cur).src32 f.lit f.a) with
  | none => .fault codeField 0 0
  | some g => k g s

/-- Meaning of `bar.arr` (R119, R120). -/
def execBarArr (f : FA1) : State → Host.Outcome State Fault Refusal :=
  issue (shA1 f 1 0) (groupEff f (fun g => arriveEff g (fun s => .done s 0)))

/-- Meaning of `bar.wt` (R119). -/
def execBarWt (f : FA1) : State → Host.Outcome State Fault Refusal :=
  issue (shA1 f 1 0) (groupEff f groupWait)

/-- Meaning of `bar.sync` (R119): a thread that runs it again after a wait, or after its chain has been undone, has arrived already. An
arrival that ends in BARRIER.TIMEOUT stands, so that executing the word again arrives again (DESIGN CHOICE, notes/assumptions/92.md). -/
def execBarSync (f : FA1) : State → Host.Outcome State Fault Refusal :=
  issue (shA1 f 1 0) (groupEff f (fun g s =>
    if (s.thr s.cur).barArr then groupWait g s
    else arriveEff g (fun s => groupWait g (s.modThr s.cur (fun t => { t with barArr := true }))) s))

/-! ### Numbered barriers -/

/-- The parties of a plot that have departed (R121): exited threads, and the sequencer after `cend`. -/
def State.departed (s : State) (p : Nat) : List Nat :=
  (if (s.plots.get p).seq.ended then [0] else [])
  ++ (s.threads.filter (fun e => e.2.exited && e.2.plot == p)).map (fun e => e.1 + 1)

/-- The tally of the current phase of a barrier (R121). -/
def NBar.tally (b : NBar) (gone : List Nat) : Nat :=
  b.arrived.length + (gone.filter (fun x => !b.arrived.contains x)).length

/-- One event at a barrier with count `n`: it completes the phase when the tally reaches the count (R121). -/
def NBar.event (b : NBar) (n : Nat) (gone : List Nat) : NBar :=
  if n ≤ b.tally gone then ⟨b.phase + 1, []⟩ else b

/-- Party `who` arrives at barrier `n` of plot `p` (R121). -/
def State.nbArrive (s : State) (p n who : Nat) : State :=
  let gone := s.departed p
  s.modPlot p (fun q =>
    let b := q.nb.get n
    let b' : NBar := ⟨b.phase, if b.arrived.contains who then b.arrived else b.arrived ++ [who]⟩
    { q with nb := q.nb.set n (b'.event (q.nbCount.get n) gone) })

/-- A party of plot `p` has departed: every barrier in use sees the event (R121). -/
def State.nbDepart (s : State) (p : Nat) : State :=
  let gone := s.departed p
  s.modPlot p (fun q =>
    { q with nb := (List.range 16).foldl (fun m n =>
        if q.nbCount.get n = 0 then m else m.set n ((m.get n).event (q.nbCount.get n) gone)) q.nb })

/-- The number of a numbered barrier, where it is one that the plot uses (R121). -/
def Plot.nbIndex (p : Plot) (v : Nat) : Option Nat := if v < 16 ∧ p.nbCount.get v ≠ 0 then some v else none

/-- Meaning of `nbar.arr` (R119, R121). -/
def execNbarArr (f : FA1) : State → Host.Outcome State Fault Refusal :=
  issue (shA1 f 1 0) (fun s =>
    let t := s.thr s.cur
    match (s.plotOf t).nbIndex (t.src32 f.lit f.a).toNat with
    | none => .fault codeField 0 0
    | some n =>
      if !s.fenceOk t 1 then .wait s .fence
      else .done ((s.setThr s.cur { t with nbLast := t.nbLast.set n (((s.plotOf t).nb.get n).phase + 1) }).nbArrive
        t.plot n (s.cur + 1)) 0)

/-- Meaning of `nbar.wt` (R119, R121): it returns at once before the thread's first arrival. -/
def execNbarWt (f : FA1) : State → Host.Outcome State Fault Refusal :=
  issue (shA1 f 1 0) (fun s =>
    let t := s.thr s.cur
    match (s.plotOf t).nbIndex (t.src32 f.lit f.a).toNat with
    | none => .fault codeField 0 0
    | some n => if t.nbLast.get n ≤ ((s.plotOf t).nb.get n).phase then .done s 0 else .wait s .nbar)

/-! ### Barrier objects -/

/-- The offset of a barrier object: an 8-byte-aligned window-1 address inside the scratchpad (R122). -/
def State.bobjOff (s : State) (t : Thread) (va : DWord) : Option Nat :=
  let o := va.toNat % 2 ^ 60
  if va.toNat / 2 ^ 60 = 1 ∧ o % 8 = 0 ∧ o + 8 ≤ (s.plotOf t).scratchLen then some o else none

/-- REMAIN of the barrier object at `off` of plot `p` (R122). -/
def State.remain (s : State) (p off : Nat) : Nat := leNat (Memory.read (s.plots.get p).scratch off 8) % 2 ^ 48

/-- Count `n` bytes off the barrier object at `off` of plot `p` (R122): a count beyond REMAIN leaves 0 and sets ERR. `err` sets ERR
as well. -/
def State.countOff (s : State) (p off n : Nat) (err : Bool) : State :=
  let v := leNat (Memory.read (s.plots.get p).scratch off 8)
  let r := v % 2 ^ 48
  let hi := v / 2 ^ 48 % 2 ^ 15
  let e := bit v 63 || decide (r < n) || err
  s.scrWrite p off (leBytes 8 ((r - n) + 2 ^ 48 * hi + 2 ^ 63 * b2n e))

/-- Meaning of `bwait` (R119, R122). -/
def execBwait (f : FA1) : State → Host.Outcome State Fault Refusal :=
  issue (shA1 f 2 0) (fun s =>
    let t := s.thr s.cur
    let va := t.src64 f.lit f.a
    match s.bobjOff t va with
    | none => .fault codeAddr 0 va
    | some o => if leNat (Memory.read (s.plotOf t).scratch o 6) = 0 then .done s 0 else .wait s .bobj)

/-- Meaning of `bobj.init` (R119, R122): performed as an atomic at the core. -/
def execBobjInit (f : FAB) : State → Host.Outcome State Fault Refusal :=
  issue (shAB f 2 2 0) (fun s =>
    let t := s.thr s.cur
    let va := t.src64 f.lit f.a
    match s.bobjOff t va with
    | none => .fault codeAddr 0 va
    | some o =>
      if !(s.plotOf t).fullAt o 8 then .wait s .full
      else if s.scoreHit t true va.toNat 8 then .wait s .scoreboard
      else .done ((s.scrWrite t.plot o (leBytes 8 ((t.src64 f.lit f.b).toNat % 2 ^ 48))).modThr s.cur
        (fun t => t.raiseTimes (.scr o) s.time)) 0)

end Sys2Proof.Machine
end

