-- ==== Sys2Proof/WellFormed.lean ====
section
/-! DEFINITION. Well-formed instructions: every field holds a value that its stream's decoder takes (R35 step 4, R169
step 3, R197). The checks themselves are in Sys2Proof/Machine/Shape.lean. -/

namespace Sys2Proof

/-- Every operand field of `i` holds a permitted value, and the literal is zero where none is called for. -/
def Instr.wellFormed (i : Instr) : Bool :=
  (Machine.shape i).ok && Machine.cadenceOk i && Machine.trellisOk i

end Sys2Proof
end

