-- ==== Sys2Proof/Decode.lean ====
section
/-! DEFINITION. The decoders (01_words.md R28, R35, R41, R45 to R47; 05_cadence_microcode.md R169) and, after them, the
encoder, both written from the encoding tables of the spec. A word is read by the decoder of the stream it stands
in. A decoder reads the fields, and then refuses the word as ILLEGAL.FIELD when encoding what it read does not
give the word back (a reserved field is not zero) or when a field value lies outside its permitted set.

The decoders of all thread words and of Cadence words carry the word noncomputable: Lean's code generator cannot lay out constructors
with fields beyond the 245th of a type, and the table has 479 rows. The kernel evaluates every one of them (DESIGN CHOICE, notes/assumptions/3.md). -/

namespace Sys2Proof

/-- Why a word is no instruction of its stream (R17). -/
inductive Illegal where
  /-- An unassigned opcode: ILLEGAL.OP. -/
  | op
  /-- A reserved field that is not zero, or a field value outside its permitted set: ILLEGAL.FIELD. -/
  | field
  deriving DecidableEq, Repr, Inhabited

/-! ### The layout of each format (R28, R45, R48) -/

/-- The word of format `FA`. -/
def FA.enc (mj : BitVec 6) (fn : BitVec 3) (f : FA) : Word :=
  mj ++ f.g ++ f.d ++ f.a ++ f.b ++ BitVec.ofBool f.nw ++ fn

/-- The fields of format `FA` in word `w` and its literal. -/
def FA.dec (w lit : Word) : FA :=
  ⟨w.extractLsb' 22 4, w.extractLsb' 16 6, w.extractLsb' 10 6, w.extractLsb' 4 6, w.getLsbD 3, lit⟩

/-- The word of format `FU`. -/
def FU.enc (mj : BitVec 6) (fn : BitVec 3) (f : FU) : Word :=
  mj ++ f.g ++ f.d ++ f.a ++ 0#6 ++ BitVec.ofBool f.nw ++ fn

/-- The fields of format `FU` in word `w` and its literal. -/
def FU.dec (w lit : Word) : FU :=
  ⟨w.extractLsb' 22 4, w.extractLsb' 16 6, w.extractLsb' 10 6, w.getLsbD 3, lit⟩

/-- The word of format `FP`. -/
def FP.enc (mj : BitVec 6) (fn : BitVec 3) (f : FP) : Word :=
  mj ++ f.g ++ 0#3 ++ f.p ++ f.a ++ f.b ++ BitVec.ofBool f.nw ++ fn

/-- The fields of format `FP` in word `w` and its literal. -/
def FP.dec (w lit : Word) : FP :=
  ⟨w.extractLsb' 22 4, w.extractLsb' 16 3, w.extractLsb' 10 6, w.extractLsb' 4 6, w.getLsbD 3, lit⟩

/-- The word of format `FPa`. -/
def FPa.enc (mj : BitVec 6) (fn : BitVec 3) (f : FPa) : Word :=
  mj ++ f.g ++ 0#3 ++ f.p ++ f.a ++ 0#6 ++ BitVec.ofBool f.nw ++ fn

/-- The fields of format `FPa` in word `w` and its literal. -/
def FPa.dec (w lit : Word) : FPa :=
  ⟨w.extractLsb' 22 4, w.extractLsb' 16 3, w.extractLsb' 10 6, w.getLsbD 3, lit⟩

/-- The word of format `FSel`. -/
def FSel.enc (mj : BitVec 6) (f : FSel) : Word :=
  mj ++ f.g ++ f.d ++ f.a ++ f.b ++ BitVec.ofBool f.nw ++ f.p

/-- The fields of format `FSel` in word `w` and its literal. -/
def FSel.dec (w lit : Word) : FSel :=
  ⟨w.extractLsb' 22 4, w.extractLsb' 16 6, w.extractLsb' 10 6, w.extractLsb' 4 6, w.getLsbD 3, w.extractLsb' 0 3, lit⟩

/-- The word of format `FI`. -/
def FI.enc (mj : BitVec 6) (f : FI) : Word :=
  mj ++ f.g ++ f.d ++ f.a ++ f.i

/-- The fields of format `FI` in word `w` and its literal. -/
def FI.dec (w lit : Word) : FI :=
  ⟨w.extractLsb' 22 4, w.extractLsb' 16 6, w.extractLsb' 10 6, w.extractLsb' 0 10, lit⟩

/-- The word of format `FSh`. -/
def FSh.enc (mj : BitVec 6) (fn : BitVec 2) (f : FSh) : Word :=
  mj ++ f.g ++ f.d ++ f.a ++ fn ++ 0#3 ++ f.n

/-- The fields of format `FSh` in word `w` and its literal. -/
def FSh.dec (w lit : Word) : FSh :=
  ⟨w.extractLsb' 22 4, w.extractLsb' 16 6, w.extractLsb' 10 6, w.extractLsb' 0 5, lit⟩

/-- The word of format `FCi`. -/
def FCi.enc (mj : BitVec 6) (fn : BitVec 3) (f : FCi) : Word :=
  mj ++ f.g ++ fn ++ f.p ++ f.a ++ f.i

/-- The fields of format `FCi` in word `w` and its literal. -/
def FCi.dec (w lit : Word) : FCi :=
  ⟨w.extractLsb' 22 4, w.extractLsb' 16 3, w.extractLsb' 10 6, w.extractLsb' 0 10, lit⟩

/-- The word of format `FMv`. -/
def FMv.enc (mj : BitVec 6) (f : FMv) : Word :=
  mj ++ f.g ++ f.d ++ f.i

/-- The fields of format `FMv` in word `w`. -/
def FMv.dec (w : Word) : FMv :=
  ⟨w.extractLsb' 22 4, w.extractLsb' 16 6, w.extractLsb' 0 16⟩

/-- The word of format `FSf`. -/
def FSf.enc (mj : BitVec 6) (fn : BitVec 3) (f : FSf) : Word :=
  mj ++ f.g ++ f.d ++ f.a ++ f.f ++ BitVec.ofBool f.nw ++ fn

/-- The fields of format `FSf` in word `w` and its literal. -/
def FSf.dec (w lit : Word) : FSf :=
  ⟨w.extractLsb' 22 4, w.extractLsb' 16 6, w.extractLsb' 10 6, w.extractLsb' 4 6, w.getLsbD 3, lit⟩

/-- The word of format `FV`. -/
def FV.enc (mj : BitVec 6) (f : FV) : Word :=
  mj ++ f.d ++ f.a ++ f.b ++ f.s ++ f.k

/-- The fields of format `FV` in word `w` and its literal. -/
def FV.dec (w lit : Word) : FV :=
  ⟨w.extractLsb' 20 6, w.extractLsb' 14 6, w.extractLsb' 8 6, w.extractLsb' 2 6, w.extractLsb' 0 2, lit⟩

/-- The word of format `FM`. -/
def FM.enc (mj : BitVec 6) (f : FM) : Word :=
  mj ++ f.g ++ f.d ++ f.a ++ f.o ++ f.c ++ f.z

/-- The fields of format `FM` in word `w` and its literal. -/
def FM.dec (w lit : Word) : FM :=
  ⟨w.extractLsb' 22 4, w.extractLsb' 16 6, w.extractLsb' 10 6, w.extractLsb' 4 6, w.extractLsb' 2 2, w.extractLsb' 0 2, lit⟩

/-- The word of format `FMq`. -/
def FMq.enc (mj : BitVec 6) (fn : BitVec 2) (f : FMq) : Word :=
  mj ++ f.g ++ f.d ++ f.a ++ f.o ++ fn ++ 0#2

/-- The fields of format `FMq` in word `w` and its literal. -/
def FMq.dec (w lit : Word) : FMq :=
  ⟨w.extractLsb' 22 4, w.extractLsb' 16 6, w.extractLsb' 10 6, w.extractLsb' 4 6, lit⟩

/-- The word of format `FMn`. -/
def FMn.enc (mj : BitVec 6) (fn : BitVec 2) (f : FMn) : Word :=
  mj ++ f.g ++ f.d ++ f.a ++ f.o ++ fn ++ f.z

/-- The fields of format `FMn` in word `w` and its literal. -/
def FMn.dec (w lit : Word) : FMn :=
  ⟨w.extractLsb' 22 4, w.extractLsb' 16 6, w.extractLsb' 10 6, w.extractLsb' 4 6, w.extractLsb' 0 2, lit⟩

/-- The word of format `FMp`. -/
def FMp.enc (mj : BitVec 6) (fn : BitVec 2) (f : FMp) : Word :=
  mj ++ f.g ++ 0#6 ++ f.a ++ f.o ++ fn ++ 0#2

/-- The fields of format `FMp` in word `w` and its literal. -/
def FMp.dec (w lit : Word) : FMp :=
  ⟨w.extractLsb' 22 4, w.extractLsb' 10 6, w.extractLsb' 4 6, lit⟩

/-- The word of format `FAB`. -/
def FAB.enc (mj : BitVec 6) (fn : BitVec 3) (f : FAB) : Word :=
  mj ++ f.g ++ 0#6 ++ f.a ++ f.b ++ 0#1 ++ fn

/-- The fields of format `FAB` in word `w` and its literal. -/
def FAB.dec (w lit : Word) : FAB :=
  ⟨w.extractLsb' 22 4, w.extractLsb' 10 6, w.extractLsb' 4 6, lit⟩

/-- The word of format `FABn`. -/
def FABn.enc (mj : BitVec 6) (fn : BitVec 3) (f : FABn) : Word :=
  mj ++ f.g ++ 0#6 ++ f.a ++ f.b ++ BitVec.ofBool f.nw ++ fn

/-- The fields of format `FABn` in word `w` and its literal. -/
def FABn.dec (w lit : Word) : FABn :=
  ⟨w.extractLsb' 22 4, w.extractLsb' 10 6, w.extractLsb' 4 6, w.getLsbD 3, lit⟩

/-- The word of format `FAn`. -/
def FAn.enc (mj : BitVec 6) (fn : BitVec 3) (f : FAn) : Word :=
  mj ++ f.g ++ 0#6 ++ f.a ++ 0#6 ++ BitVec.ofBool f.nw ++ fn

/-- The fields of format `FAn` in word `w` and its literal. -/
def FAn.dec (w lit : Word) : FAn :=
  ⟨w.extractLsb' 22 4, w.extractLsb' 10 6, w.getLsbD 3, lit⟩

/-- The word of format `FA1`. -/
def FA1.enc (mj : BitVec 6) (fn : BitVec 3) (f : FA1) : Word :=
  mj ++ f.g ++ 0#6 ++ f.a ++ 0#6 ++ 0#1 ++ fn

/-- The fields of format `FA1` in word `w` and its literal. -/
def FA1.dec (w lit : Word) : FA1 :=
  ⟨w.extractLsb' 22 4, w.extractLsb' 10 6, lit⟩

/-- The word of format `FG`. -/
def FG.enc (mj : BitVec 6) (fn : BitVec 3) (f : FG) : Word :=
  mj ++ f.g ++ 0#6 ++ 0#6 ++ 0#6 ++ 0#1 ++ fn

/-- The fields of format `FG` in word `w`. -/
def FG.dec (w : Word) : FG :=
  ⟨w.extractLsb' 22 4⟩

/-- The word of format `FD`. -/
def FD.enc (mj : BitVec 6) (fn : BitVec 3) (f : FD) : Word :=
  mj ++ f.g ++ f.d ++ 0#6 ++ 0#6 ++ BitVec.ofBool f.nw ++ fn

/-- The fields of format `FD` in word `w`. -/
def FD.dec (w : Word) : FD :=
  ⟨w.extractLsb' 22 4, w.extractLsb' 16 6, w.getLsbD 3⟩

/-- The word of format `FDa`. -/
def FDa.enc (mj : BitVec 6) (fn : BitVec 3) (f : FDa) : Word :=
  mj ++ f.g ++ f.d ++ f.a ++ 0#6 ++ 0#1 ++ fn

/-- The fields of format `FDa` in word `w` and its literal. -/
def FDa.dec (w lit : Word) : FDa :=
  ⟨w.extractLsb' 22 4, w.extractLsb' 16 6, w.extractLsb' 10 6, lit⟩

/-- The word of format `FAm`. -/
def FAm.enc (mj : BitVec 6) (fn : BitVec 3) (f : FAm) : Word :=
  mj ++ f.g ++ f.d ++ f.a ++ f.b ++ BitVec.ofBool f.w ++ fn

/-- The fields of format `FAm` in word `w` and its literal. -/
def FAm.dec (w lit : Word) : FAm :=
  ⟨w.extractLsb' 22 4, w.extractLsb' 16 6, w.extractLsb' 10 6, w.extractLsb' 4 6, w.getLsbD 3, lit⟩

/-- The word of format `FDab`. -/
def FDab.enc (mj : BitVec 6) (fn : BitVec 3) (f : FDab) : Word :=
  mj ++ f.g ++ f.d ++ f.a ++ f.b ++ 0#1 ++ fn

/-- The fields of format `FDab` in word `w` and its literal. -/
def FDab.dec (w lit : Word) : FDab :=
  ⟨w.extractLsb' 22 4, w.extractLsb' 16 6, w.extractLsb' 10 6, w.extractLsb' 4 6, lit⟩

/-- The word of format `FJ`. -/
def FJ.enc (mj : BitVec 6) (f : FJ) : Word :=
  mj ++ f.g ++ f.o

/-- The fields of format `FJ` in word `w`. -/
def FJ.dec (w : Word) : FJ :=
  ⟨w.extractLsb' 22 4, w.extractLsb' 0 22⟩

/-- The word of format `FS`. -/
def FS.enc (mj : BitVec 6) (f : FS) : Word :=
  mj ++ f.g ++ f.d ++ f.n

/-- The fields of format `FS` in word `w` and its literal. -/
def FS.dec (w lit : Word) : FS :=
  ⟨w.extractLsb' 22 4, w.extractLsb' 16 6, w.extractLsb' 0 16, lit⟩

/-- The word of format `FX`. -/
def FX.enc (fn : BitVec 4) (f : FX) : Word :=
  fn ++ f.x ++ f.g ++ f.d ++ f.a ++ f.b ++ f.s

/-- The fields of format `FX` in word `w` and its literal. -/
def FX.dec (w lit : Word) : FX :=
  ⟨w.extractLsb' 26 2, w.extractLsb' 22 4, w.extractLsb' 16 6, w.extractLsb' 10 6, w.extractLsb' 4 6, w.extractLsb' 0 4, lit⟩

/-- The word of format `TUnpack`. -/
def TUnpack.enc (mj : BitVec 6) (fn : BitVec 3) (f : TUnpack) : Word :=
  mj ++ 7#4 ++ 0#2 ++ f.c ++ f.a ++ f.b ++ 0#1 ++ fn

/-- The fields of format `TUnpack` in word `w`. -/
def TUnpack.dec (w : Word) : TUnpack :=
  ⟨w.extractLsb' 16 4, w.extractLsb' 10 6, w.extractLsb' 4 6⟩

/-- The word of format `TRed`. -/
def TRed.enc (mj : BitVec 6) (fn : BitVec 3) (f : TRed) : Word :=
  mj ++ 7#4 ++ f.l ++ 0#1 ++ f.o ++ f.a ++ f.b ++ 0#1 ++ fn

/-- The fields of format `TRed` in word `w`. -/
def TRed.dec (w : Word) : TRed :=
  ⟨w.extractLsb' 20 2, w.extractLsb' 16 3, w.extractLsb' 10 6, w.extractLsb' 4 6⟩

/-- The word of format `TEos`. -/
def TEos.enc (mj : BitVec 6) (fn : BitVec 3) (f : TEos) : Word :=
  mj ++ 7#4 ++ 0#4 ++ f.l ++ f.a ++ 0#6 ++ 0#1 ++ fn

/-- The fields of format `TEos` in word `w`. -/
def TEos.dec (w : Word) : TEos :=
  ⟨w.extractLsb' 16 2, w.extractLsb' 10 6⟩

/-- The word of format `TWadapt`. -/
def TWadapt.enc (mj : BitVec 6) (fn : BitVec 3) (f : TWadapt) : Word :=
  mj ++ 7#4 ++ 0#1 ++ BitVec.ofBool f.s ++ f.f ++ f.a ++ 0#6 ++ 0#1 ++ fn

/-- The fields of format `TWadapt` in word `w`. -/
def TWadapt.dec (w : Word) : TWadapt :=
  ⟨w.getLsbD 20, w.extractLsb' 16 4, w.extractLsb' 10 6⟩

/-- The word of format `CMma`. -/
def CMma.enc (mj : BitVec 6) (fn : BitVec 3) (f : CMma) : Word :=
  mj ++ f.d ++ f.a ++ f.b ++ fn ++ 0#7 ++ BitVec.ofBool f.z

/-- The fields of format `CMma` in word `w`. -/
def CMma.dec (w : Word) : CMma :=
  ⟨w.extractLsb' 21 5, w.extractLsb' 16 5, w.extractLsb' 11 5, w.getLsbD 0⟩

/-- The word of format `CMxf6`. -/
def CMxf6.enc (mj : BitVec 6) (fn : BitVec 3) (f : CMxf6) : Word :=
  mj ++ f.d ++ f.a ++ f.b ++ fn ++ 0#5 ++ BitVec.ofBool f.q ++ BitVec.ofBool f.p ++ BitVec.ofBool f.z

/-- The fields of format `CMxf6` in word `w`. -/
def CMxf6.dec (w : Word) : CMxf6 :=
  ⟨w.extractLsb' 21 5, w.extractLsb' 16 5, w.extractLsb' 11 5, w.getLsbD 2, w.getLsbD 1, w.getLsbD 0⟩

/-- The word of format `CTld`. -/
def CTld.enc (mj : BitVec 6) (f : CTld) : Word :=
  mj ++ f.d ++ f.a ++ f.b ++ 0#3 ++ 0#6 ++ BitVec.ofBool f.k ++ BitVec.ofBool f.c

/-- The fields of format `CTld` in word `w`. -/
def CTld.dec (w : Word) : CTld :=
  ⟨w.extractLsb' 21 5, w.extractLsb' 16 5, w.extractLsb' 11 5, w.getLsbD 1, w.getLsbD 0⟩

/-- The word of format `CTst`. -/
def CTst.enc (mj : BitVec 6) (fn : BitVec 3) (f : CTst) : Word :=
  mj ++ f.d ++ f.a ++ f.b ++ fn ++ 0#7 ++ BitVec.ofBool f.t

/-- The fields of format `CTst` in word `w`. -/
def CTst.dec (w : Word) : CTst :=
  ⟨w.extractLsb' 21 5, w.extractLsb' 16 5, w.extractLsb' 11 5, w.getLsbD 0⟩

/-- The word of format `CTstS`. -/
def CTstS.enc (mj : BitVec 6) (fn : BitVec 3) (f : CTstS) : Word :=
  mj ++ f.d ++ f.a ++ f.b ++ fn ++ 0#6 ++ BitVec.ofBool f.s ++ BitVec.ofBool f.t

/-- The fields of format `CTstS` in word `w`. -/
def CTstS.dec (w : Word) : CTstS :=
  ⟨w.extractLsb' 21 5, w.extractLsb' 16 5, w.extractLsb' 11 5, w.getLsbD 1, w.getLsbD 0⟩

/-! ### Reading the fields -/

/-- The major opcode, bits [31:26] of every word (R28, R45). -/
def major (w : Word) : Nat := (w.extractLsb' 26 6).toNat

/-- Majors 0x00 to 0x0F (R41). -/
def rawInt (w lit : Word) : Option Instr :=
  match major w with
  | 0x00 => match (w.extractLsb' 0 3).toNat with
    | 0 => some (.add (.dec w lit))
    | 1 => some (.sub (.dec w lit))
    | 2 => some (.and (.dec w lit))
    | 3 => some (.or (.dec w lit))
    | 4 => some (.xor (.dec w lit))
    | 5 => some (.andn (.dec w lit))
    | 6 => some (.orn (.dec w lit))
    | _ => some (.xnor (.dec w lit))
  | 0x01 => match (w.extractLsb' 0 3).toNat with
    | 0 => some (.shl (.dec w lit))
    | 1 => some (.shr (.dec w lit))
    | 2 => some (.sra (.dec w lit))
    | 3 => some (.rol (.dec w lit))
    | 4 => some (.ror (.dec w lit))
    | 5 => some (.clz (.dec w lit))
    | 6 => some (.popc (.dec w lit))
    | _ => some (.brev (.dec w lit))
  | 0x02 => match (w.extractLsb' 0 3).toNat with
    | 0 => some (.minS (.dec w lit))
    | 1 => some (.maxS (.dec w lit))
    | 2 => some (.minU (.dec w lit))
    | 3 => some (.maxU (.dec w lit))
    | 4 => some (.abs (.dec w lit))
    | 5 => some (.neg (.dec w lit))
    | 6 => some (.sextB (.dec w lit))
    | _ => some (.sextH (.dec w lit))
  | 0x03 => match (w.extractLsb' 0 3).toNat with
    | 0 => some (.mul (.dec w lit))
    | 1 => some (.mulhiS (.dec w lit))
    | 2 => some (.mulhiU (.dec w lit))
    | 3 => some (.mad (.dec w lit))
    | 4 => some (.divS (.dec w lit))
    | 5 => some (.divU (.dec w lit))
    | 6 => some (.remS (.dec w lit))
    | _ => some (.remU (.dec w lit))
  | 0x04 => match (w.extractLsb' 0 3).toNat with
    | 0 => some (.addD (.dec w lit))
    | 1 => some (.subD (.dec w lit))
    | 2 => some (.madD (.dec w lit))
    | 3 => some (.mulwS (.dec w lit))
    | 4 => some (.mulwU (.dec w lit))
    | 5 => some (.shlD (.dec w lit))
    | 6 => some (.shrD (.dec w lit))
    | _ => some (.sraD (.dec w lit))
  | 0x05 => match (w.extractLsb' 0 3).toNat with
    | 0 => some (.cmpEq (.dec w lit))
    | 1 => some (.cmpNe (.dec w lit))
    | 2 => some (.cmpLtS (.dec w lit))
    | 3 => some (.cmpLeS (.dec w lit))
    | 4 => some (.cmpLtU (.dec w lit))
    | 5 => some (.cmpLeU (.dec w lit))
    | 6 => some (.cmpTst (.dec w lit))
    | _ => some (.cmpTstn (.dec w lit))
  | 0x06 => some (.sel (.dec w lit))
  | 0x07 => match (w.extractLsb' 0 3).toNat with
    | 0 => some (.bfxU (.dec w lit))
    | 1 => some (.bfxS (.dec w lit))
    | 2 => some (.bfi (.dec w lit))
    | 3 => some (.mov (.dec w lit))
    | 4 => some (.lea2 (.dec w lit))
    | 5 => some (.lea4 (.dec w lit))
    | 6 => some (.lea8 (.dec w lit))
    | _ => some (.lea16 (.dec w lit))
  | 0x08 => some (.addi (.dec w lit))
  | 0x09 => some (.andi (.dec w lit))
  | 0x0a => some (.ori (.dec w lit))
  | 0x0b => some (.xori (.dec w lit))
  | 0x0c => match (w.extractLsb' 8 2).toNat with
    | 0 => some (.shli (.dec w lit))
    | 1 => some (.shri (.dec w lit))
    | 2 => some (.srai (.dec w lit))
    | _ => some (.roli (.dec w lit))
  | 0x0d => match (w.extractLsb' 19 3).toNat with
    | 0 => some (.cmpiEq (.dec w lit))
    | 1 => some (.cmpiNe (.dec w lit))
    | 2 => some (.cmpiLtS (.dec w lit))
    | 3 => some (.cmpiLeS (.dec w lit))
    | 4 => some (.cmpiLtU (.dec w lit))
    | 5 => some (.cmpiLeU (.dec w lit))
    | 6 => some (.cmpiGtS (.dec w lit))
    | _ => some (.cmpiGtU (.dec w lit))
  | 0x0e => some (.movi (.dec w))
  | 0x0f => some (.movhi (.dec w))
  | _ => none

/-- Majors 0x10 to 0x23 (R41). -/
def rawNum (w lit : Word) : Option Instr :=
  match major w with
  | 0x10 => match (w.extractLsb' 0 3).toNat with
    | 0 => some (.fadd (.dec w lit))
    | 1 => some (.fsub (.dec w lit))
    | 2 => some (.fmul (.dec w lit))
    | 3 => some (.fmin (.dec w lit))
    | 4 => some (.fmax (.dec w lit))
    | 5 => some (.fabs (.dec w lit))
    | 6 => some (.fneg (.dec w lit))
    | _ => some (.fcpsgn (.dec w lit))
  | 0x11 => match (w.extractLsb' 0 3).toNat with
    | 0 => some (.fma (.dec w lit))
    | 1 => some (.fms (.dec w lit))
    | 2 => some (.fnma (.dec w lit))
    | 3 => some (.fnms (.dec w lit))
    | 4 => some (.fmulH2 (.dec w lit))
    | 5 => some (.faddH2 (.dec w lit))
    | 6 => some (.fmaH2 (.dec w lit))
    | _ => some (.fmaB2 (.dec w lit))
  | 0x12 => match (w.extractLsb' 0 3).toNat with
    | 0 => some (.fcmpEq (.dec w lit))
    | 1 => some (.fcmpNe (.dec w lit))
    | 2 => some (.fcmpLt (.dec w lit))
    | 3 => some (.fcmpLe (.dec w lit))
    | 4 => some (.fcmpGe (.dec w lit))
    | 5 => some (.fcmpGt (.dec w lit))
    | 6 => some (.fcmpUn (.dec w lit))
    | _ => some (.fcmpOrd (.dec w lit))
  | 0x13 => match (w.extractLsb' 0 3).toNat with
    | 0 => some (.cvtF32S (.dec w lit))
    | 1 => some (.cvtSF32 (.dec w lit))
    | 2 => some (.cvtF32U (.dec w lit))
    | 3 => some (.cvtUF32 (.dec w lit))
    | 4 => some (.cvtF32F16 (.dec w lit))
    | 5 => some (.cvtF16F32 (.dec w lit))
    | 6 => some (.cvtF32Bf16 (.dec w lit))
    | _ => some (.cvtBf16F32 (.dec w lit))
  | 0x14 => match (w.extractLsb' 0 3).toNat with
    | 0 => some (.frndNe (.dec w lit))
    | 1 => some (.frndZ (.dec w lit))
    | 2 => some (.frndDn (.dec w lit))
    | 3 => some (.frndUp (.dec w lit))
    | 4 => some (.fcls (.dec w lit))
    | 5 => some (.fldexp (.dec w lit))
    | 6 => some (.fgetexp (.dec w lit))
    | _ => some (.fgetman (.dec w lit))
  | 0x15 => match (w.extractLsb' 0 3).toNat with
    | 0 => some (.addB2 (.dec w lit))
    | 1 => some (.subB2 (.dec w lit))
    | 2 => some (.mulB2 (.dec w lit))
    | 3 => some (.minB2 (.dec w lit))
    | 4 => some (.maxB2 (.dec w lit))
    | 5 => some (.subH2 (.dec w lit))
    | 6 => some (.minH2 (.dec w lit))
    | _ => some (.maxH2 (.dec w lit))
  | 0x16 => match (w.extractLsb' 0 3).toNat with
    | 0 => some (.npkE4m3 (.dec w lit))
    | 1 => some (.npkE5m2 (.dec w lit))
    | 2 => some (.npkE3m2 (.dec w lit))
    | 3 => some (.npkE2m3 (.dec w lit))
    | 4 => some (.npkE2m1 (.dec w lit))
    | 5 => some (.npkI8 (.dec w lit))
    | 6 => some (.npkI4 (.dec w lit))
    | _ => none
  | 0x17 => match (w.extractLsb' 0 3).toNat with
    | 0 => some (.nupE4m3 (.dec w lit))
    | 1 => some (.nupE5m2 (.dec w lit))
    | 2 => some (.nupE3m2 (.dec w lit))
    | 3 => some (.nupE2m3 (.dec w lit))
    | 4 => some (.nupE2m1 (.dec w lit))
    | 5 => some (.nupI8 (.dec w lit))
    | 6 => some (.nupI4 (.dec w lit))
    | _ => none
  | 0x18 => match (w.extractLsb' 0 3).toNat with
    | 0 => some (.dot4E4 (.dec w lit))
    | 1 => some (.dot4E5 (.dec w lit))
    | 2 => some (.dot8F4 (.dec w lit))
    | 3 => some (.dot4I8 (.dec w lit))
    | 4 => some (.dot8I4 (.dec w lit))
    | 5 => some (.dot2B2 (.dec w lit))
    | 6 => some (.dot2H2 (.dec w lit))
    | _ => some (.dot2B2f (.dec w lit))
  | 0x19 => some (.vmxF4 (.dec w lit))
  | 0x1a => some (.vmxE4 (.dec w lit))
  | 0x1b => some (.vmxE5 (.dec w lit))
  | 0x1c => match (w.extractLsb' 0 3).toNat with
    | 0 => some (.qntF4 (.dec w lit))
    | 1 => some (.qntE4 (.dec w lit))
    | 2 => some (.qntE5 (.dec w lit))
    | 3 => some (.qntF4o (.dec w lit))
    | 4 => some (.qntE4o (.dec w lit))
    | 5 => some (.amaxL (.dec w lit))
    | 6 => some (.scl (.dec w lit))
    | _ => none
  | 0x1d => match (w.extractLsb' 0 3).toNat with
    | 0 => some (.kc2DecLo (.dec w lit))
    | 1 => some (.kc2DecHi (.dec w lit))
    | 2 => some (.cbLd (.dec w lit))
    | _ => none
  | 0x1e => match (w.extractLsb' 0 3).toNat with
    | 0 => some (.exp (.dec w lit))
    | 1 => some (.exp2 (.dec w lit))
    | 2 => some (.ln (.dec w lit))
    | 3 => some (.log2 (.dec w lit))
    | 4 => some (.rcp (.dec w lit))
    | 5 => some (.rsqrt (.dec w lit))
    | 6 => some (.sqrt (.dec w lit))
    | _ => some (.erf (.dec w lit))
  | 0x1f => match (w.extractLsb' 0 3).toNat with
    | 0 => some (.tanh (.dec w lit))
    | 1 => some (.sigm (.dec w lit))
    | 2 => some (.gelu (.dec w lit))
    | 3 => some (.silu (.dec w lit))
    | 4 => some (.sin (.dec w lit))
    | 5 => some (.cos (.dec w lit))
    | 6 => some (.tbl (.dec w lit))
    | _ => none
  | 0x20 => match (w.extractLsb' 0 3).toNat with
    | 0 => some (.rsMax (.dec w lit))
    | 1 => some (.rsSexp (.dec w lit))
    | 2 => some (.rsMean (.dec w lit))
    | 3 => some (.rsDev (.dec w lit))
    | 4 => some (.rsFin (.dec w lit))
    | 5 => some (.smxFin (.dec w lit))
    | 6 => some (.mask (.dec w lit))
    | _ => none
  | 0x21 => match (w.extractLsb' 0 3).toNat with
    | 0 => some (.shflIdx (.dec w lit))
    | 1 => some (.shflUp (.dec w lit))
    | 2 => some (.shflDn (.dec w lit))
    | 3 => some (.shflXor (.dec w lit))
    | 4 => some (.ballot (.dec w lit))
    | 5 => some (.laneMatch (.dec w lit))
    | 6 => some (.laneAny (.dec w lit))
    | _ => some (.laneAll (.dec w lit))
  | 0x22 => match (w.extractLsb' 0 3).toNat with
    | 0 => some (.redAdd (.dec w lit))
    | 1 => some (.redMin (.dec w lit))
    | 2 => some (.redMax (.dec w lit))
    | 3 => some (.redAnd (.dec w lit))
    | 4 => some (.redOr (.dec w lit))
    | 5 => some (.redFadd (.dec w lit))
    | 6 => some (.scanAdd (.dec w lit))
    | _ => some (.scanFadd (.dec w lit))
  | 0x23 => match (w.extractLsb' 0 3).toNat with
    | 0 => some (.tblLd (.dec w lit))
    | 1 => some (.tblSw (.dec w))
    | 2 => some (.tblRd (.dec w lit))
    | _ => none
  | _ => none

/-- Of majors 0x24 to 0x3F, those that may stand in a slot or a captured loop (R41, R44, R297). -/
def rawMem (w lit : Word) : Option Instr :=
  match major w with
  | 0x24 => some (.ld (.dec w lit))
  | 0x25 => some (.lds (.dec w lit))
  | 0x26 => some (.st (.dec w lit))
  | 0x27 => match (w.extractLsb' 2 2).toNat with
    | 0 => some (.ldq (.dec w lit))
    | 1 => some (.stq (.dec w lit))
    | 2 => some (.ldNc (.dec w lit))
    | _ => some (.pf (.dec w lit))
  | 0x28 => some (.lda (.dec w lit))
  | 0x29 => some (.stl (.dec w lit))
  | 0x2c => match (w.extractLsb' 0 3).toNat with
    | 0 => some (.amoAdd (.dec w lit))
    | 1 => some (.amoMinS (.dec w lit))
    | 2 => some (.amoMaxS (.dec w lit))
    | 3 => some (.amoMinU (.dec w lit))
    | 4 => some (.amoMaxU (.dec w lit))
    | 5 => some (.amoAnd (.dec w lit))
    | 6 => some (.amoOr (.dec w lit))
    | _ => some (.amoXor (.dec w lit))
  | 0x2d => match (w.extractLsb' 0 3).toNat with
    | 0 => some (.amoXchg (.dec w lit))
    | 1 => some (.amoCas (.dec w lit))
    | 2 => some (.amoFadd (.dec w lit))
    | 3 => some (.amoFaddB2 (.dec w lit))
    | 4 => some (.amoFmax (.dec w lit))
    | 5 => some (.amoIncW (.dec w lit))
    | 6 => some (.amoDecW (.dec w lit))
    | _ => none
  | 0x31 => some (.br (.dec w))
  | 0x3c | 0x3d | 0x3e | 0x3f => some (.userMacro (.dec w lit))
  | _ => none

/-- The other majors of 0x24 to 0x39 (R41). -/
noncomputable def rawSys (w lit : Word) : Option Instr :=
  match major w with
  | 0x2a => match (w.extractLsb' 0 3).toNat with
    | 0 => some (.feClr (.dec w lit))
    | 1 => some (.feSet (.dec w lit))
    | 2 => some (.feTst (.dec w lit))
    | 3 => some (.feWt (.dec w lit))
    | _ => none
  | 0x2b => match (w.extractLsb' 0 3).toNat with
    | 0 => some (.gat (.dec w lit))
    | 1 => some (.sct (.dec w lit))
    | 2 => some (.otkNew (.dec w))
    | 3 => some (.otkWt (.dec w lit))
    | _ => none
  | 0x2e => match (w.extractLsb' 0 3).toNat with
    | 0 => some (.fenceCore (.dec w))
    | 1 => some (.fenceDie (.dec w))
    | 2 => some (.fencePkg (.dec w))
    | 3 => some (.fenceSys (.dec w))
    | 4 => some (.xfence (.dec w lit))
    | 5 => some (.gwct (.dec w lit))
    | 6 => some (.leaseDrop (.dec w))
    | _ => none
  | 0x2f => match (w.extractLsb' 0 3).toNat with
    | 0 => some (.barArr (.dec w lit))
    | 1 => some (.barWt (.dec w lit))
    | 2 => some (.barSync (.dec w lit))
    | 3 => some (.nbarArr (.dec w lit))
    | 4 => some (.nbarWt (.dec w lit))
    | 5 => some (.bwait (.dec w lit))
    | 6 => some (.bobjInit (.dec w lit))
    | _ => none
  | 0x30 => match (w.extractLsb' 0 3).toNat with
    | 0 => some (.kick (.dec w lit))
    | 1 => some (.cpySt (.dec w lit))
    | 2 => some (.free (.dec w lit))
    | 3 => some (.ringInit (.dec w lit))
    | 4 => some (.send (.dec w lit))
    | 5 => some (.recvAdv (.dec w lit))
    | _ => none
  | 0x32 => some (.call (.dec w))
  | 0x33 => match (w.extractLsb' 0 3).toNat with
    | 0 => some (.brx (.dec w lit))
    | 1 => some (.callx (.dec w lit))
    | 2 => some (.ret (.dec w))
    | 3 => some (.exit (.dec w))
    | 4 => some (.yield (.dec w))
    | 5 => some (.sleep (.dec w lit))
    | 6 => some (.nop (.dec w))
    | _ => some (.hot (.dec w))
  | 0x34 => match (w.extractLsb' 0 3).toNat with
    | 0 => some (.spawn (.dec w lit))
    | 1 => some (.spawnW (.dec w lit))
    | 2 => some (.regroup (.dec w lit))
    | 3 => some (.nocap (.dec w))
    | 4 => some (.capok (.dec w))
    | 5 => some (.trap (.dec w lit))
    | 6 => some (.lnch (.dec w lit))
    | _ => none
  | 0x35 => some (.srd (.dec w lit))
  | 0x36 => some (.crd (.dec w lit))
  | 0x37 => some (.cwr (.dec w lit))
  | 0x38 => match (w.extractLsb' 0 3).toNat with
    | 0 => some (.tret (.dec w))
    | 1 => some (.wfi (.dec w))
    | 2 => some (.halt (.dec w))
    | 3 => some (.vdhop (.dec w lit))
    | 4 => some (.cfgld (.dec w lit))
    | 5 => some (.cfgDrop (.dec w lit))
    | 6 => some (.wcsld (.dec w lit))
    | _ => some (.wcsbind (.dec w lit))
  | 0x39 => match (w.extractLsb' 0 3).toNat with
    | 0 => some (.accRd (.dec w lit))
    | 1 => some (.accWr (.dec w lit))
    | 2 => some (.tileRd (.dec w lit))
    | 3 => some (.tileWr (.dec w lit))
    | 4 => some (.olRd (.dec w lit))
    | 5 => some (.olWr (.dec w lit))
    | 6 => some (.olCnt (.dec w lit))
    | _ => none
  | _ => none

/-- The words of the thread map that may stand in a slot or a captured loop. -/
def rawLoop (w lit : Word) : Option Instr :=
  if major w < 0x10 then rawInt w lit else if major w < 0x24 then rawNum w lit else rawMem w lit

/-- The thread map of R41. -/
noncomputable def rawThread (w lit : Word) : Option Instr := (rawLoop w lit).or (rawSys w lit)

/-- The Trellis-only majors 0x3A and 0x3B (R41, R42). -/
def rawTrellis (w : Word) : Option Instr :=
  match major w with
  | 0x3a => match (w.extractLsb' 0 3).toNat with
    | 0 => some (.calloc (w.extractLsb' 10 6))
    | 1 => some (.pack (w.extractLsb' 10 6) (w.extractLsb' 4 6))
    | 2 => some (.unpack (.dec w))
    | 3 => some (.merge (w.extractLsb' 10 6) (w.extractLsb' 4 6))
    | 4 => some (.steer (w.extractLsb' 10 6))
    | _ => none
  | 0x3b => match (w.extractLsb' 0 3).toNat with
    | 0 => some (.redCfg (.dec w))
    | 1 => some (.agen (w.extractLsb' 10 6))
    | 2 => some (.isect (w.extractLsb' 10 6) (w.extractLsb' 4 6))
    | 3 => some (.unionCoord (w.extractLsb' 10 6) (w.extractLsb' 4 6))
    | 4 => some (.eos (.dec w))
    | 5 => some (.emit (w.extractLsb' 10 6) (w.extractLsb' 4 6))
    | 6 => some (.wadapt (.dec w))
    | _ => none
  | _ => none

/-- The Cadence map of R47. -/
noncomputable def rawCadence (w : Word) : Option Instr :=
  match major w with
  | 0x00 => match (w.extractLsb' 8 3).toNat with
    | 0 => some (.mmaBf16 (.dec w))
    | 1 => some (.mmaF16 (.dec w))
    | 2 => some (.mmaE4m3 (.dec w))
    | 3 => some (.mmaE5m2 (.dec w))
    | 4 => some (.mmaMxe4 (.dec w))
    | 5 => some (.mmaMxe5 (.dec w))
    | 6 => some (.mmaMxf6 (.dec w))
    | _ => some (.mmaMxf4 (.dec w))
  | 0x01 => match (w.extractLsb' 8 3).toNat with
    | 0 => some (.mmaI8 (.dec w))
    | 1 => some (.mmaI4 (.dec w))
    | 2 => some (.mmaBf16T (.dec w))
    | _ => none
  | 0x02 => some (.tld (.dec w))
  | 0x03 => match (w.extractLsb' 8 3).toNat with
    | 0 => some (.tstRaw (.dec w))
    | 1 => some (.tstBf16 (.dec w))
    | 2 => some (.tstF16 (.dec w))
    | 3 => some (.tstE4m3 (.dec w))
    | 4 => some (.tstE5m2 (.dec w))
    | _ => none
  | 0x04 => match (w.extractLsb' 8 3).toNat with
    | 0 => some (.tzT (w.extractLsb' 21 5))
    | 1 => some (.tzA (w.extractLsb' 21 5))
    | _ => none
  | 0x05 => match (w.extractLsb' 8 3).toNat with
    | 0 => some (.tsetW (w.extractLsb' 21 5) (w.extractLsb' 16 5))
    | 1 => some (.tsetH (w.extractLsb' 21 5) (w.extractLsb' 16 5))
    | 2 => some (.tsetC (w.extractLsb' 21 5) (w.extractLsb' 16 5))
    | 3 => some (.tsetEsc (w.extractLsb' 21 5) (w.extractLsb' 16 5))
    | _ => none
  | 0x06 => match (w.extractLsb' 8 3).toNat with
    | 0 => some (.kadd (w.extractLsb' 21 5) (w.extractLsb' 16 5) (w.extractLsb' 11 5))
    | 1 => some (.ksub (w.extractLsb' 21 5) (w.extractLsb' 16 5) (w.extractLsb' 11 5))
    | 2 => some (.kmul (w.extractLsb' 21 5) (w.extractLsb' 16 5) (w.extractLsb' 11 5))
    | 3 => some (.kand (w.extractLsb' 21 5) (w.extractLsb' 16 5) (w.extractLsb' 11 5))
    | 4 => some (.kor (w.extractLsb' 21 5) (w.extractLsb' 16 5) (w.extractLsb' 11 5))
    | 5 => some (.kshl (w.extractLsb' 21 5) (w.extractLsb' 16 5) (w.extractLsb' 11 5))
    | 6 => some (.kshr (w.extractLsb' 21 5) (w.extractLsb' 16 5) (w.extractLsb' 11 5))
    | _ => some (.kmov (w.extractLsb' 21 5) (w.extractLsb' 16 5))
  | 0x07 => match (w.extractLsb' 19 2).toNat with
    | 0 => some (.kaddi (w.extractLsb' 21 5) (w.extractLsb' 0 16))
    | 1 => some (.kmovi (w.extractLsb' 21 5) (w.extractLsb' 0 16))
    | _ => none
  | 0x08 => match (w.extractLsb' 24 2).toNat with
    | 0 => some (.krep (w.extractLsb' 16 5) (w.extractLsb' 0 16))
    | 1 => some (.kbnz (w.extractLsb' 16 5) (w.extractLsb' 0 16))
    | 2 => some .kend
    | _ => none
  | 0x09 => match (w.extractLsb' 8 3).toNat with
    | 0 => some (.cadNbarArr (w.extractLsb' 16 5))
    | 1 => some (.cadNbarWt (w.extractLsb' 16 5))
    | _ => none
  | 0x0a => some .cend
  | 0x0b => match (w.extractLsb' 8 3).toNat with
    | 0 => some (.olClr (w.extractLsb' 21 5))
    | 1 => some (.olLim (w.extractLsb' 21 5) (w.extractLsb' 16 5))
    | _ => none
  | _ => none

/-! ### The encoder -/

/-- The first word of an instruction in its own stream; none for an event, which has no word (R41, R45, R47). -/
def encodeWord : Instr → Option Word
  | .add f => some (f.enc 0x0#6 0#3)
  | .sub f => some (f.enc 0x0#6 1#3)
  | .and f => some (f.enc 0x0#6 2#3)
  | .or f => some (f.enc 0x0#6 3#3)
  | .xor f => some (f.enc 0x0#6 4#3)
  | .andn f => some (f.enc 0x0#6 5#3)
  | .orn f => some (f.enc 0x0#6 6#3)
  | .xnor f => some (f.enc 0x0#6 7#3)
  | .shl f => some (f.enc 0x1#6 0#3)
  | .shr f => some (f.enc 0x1#6 1#3)
  | .sra f => some (f.enc 0x1#6 2#3)
  | .rol f => some (f.enc 0x1#6 3#3)
  | .ror f => some (f.enc 0x1#6 4#3)
  | .clz f => some (f.enc 0x1#6 5#3)
  | .popc f => some (f.enc 0x1#6 6#3)
  | .brev f => some (f.enc 0x1#6 7#3)
  | .minS f => some (f.enc 0x2#6 0#3)
  | .maxS f => some (f.enc 0x2#6 1#3)
  | .minU f => some (f.enc 0x2#6 2#3)
  | .maxU f => some (f.enc 0x2#6 3#3)
  | .abs f => some (f.enc 0x2#6 4#3)
  | .neg f => some (f.enc 0x2#6 5#3)
  | .sextB f => some (f.enc 0x2#6 6#3)
  | .sextH f => some (f.enc 0x2#6 7#3)
  | .mul f => some (f.enc 0x3#6 0#3)
  | .mulhiS f => some (f.enc 0x3#6 1#3)
  | .mulhiU f => some (f.enc 0x3#6 2#3)
  | .mad f => some (f.enc 0x3#6 3#3)
  | .divS f => some (f.enc 0x3#6 4#3)
  | .divU f => some (f.enc 0x3#6 5#3)
  | .remS f => some (f.enc 0x3#6 6#3)
  | .remU f => some (f.enc 0x3#6 7#3)
  | .addD f => some (f.enc 0x4#6 0#3)
  | .subD f => some (f.enc 0x4#6 1#3)
  | .madD f => some (f.enc 0x4#6 2#3)
  | .mulwS f => some (f.enc 0x4#6 3#3)
  | .mulwU f => some (f.enc 0x4#6 4#3)
  | .shlD f => some (f.enc 0x4#6 5#3)
  | .shrD f => some (f.enc 0x4#6 6#3)
  | .sraD f => some (f.enc 0x4#6 7#3)
  | .cmpEq f => some (f.enc 0x5#6 0#3)
  | .cmpNe f => some (f.enc 0x5#6 1#3)
  | .cmpLtS f => some (f.enc 0x5#6 2#3)
  | .cmpLeS f => some (f.enc 0x5#6 3#3)
  | .cmpLtU f => some (f.enc 0x5#6 4#3)
  | .cmpLeU f => some (f.enc 0x5#6 5#3)
  | .cmpTst f => some (f.enc 0x5#6 6#3)
  | .cmpTstn f => some (f.enc 0x5#6 7#3)
  | .sel f => some (f.enc 0x6#6)
  | .bfxU f => some (f.enc 0x7#6 0#3)
  | .bfxS f => some (f.enc 0x7#6 1#3)
  | .bfi f => some (f.enc 0x7#6 2#3)
  | .mov f => some (f.enc 0x7#6 3#3)
  | .lea2 f => some (f.enc 0x7#6 4#3)
  | .lea4 f => some (f.enc 0x7#6 5#3)
  | .lea8 f => some (f.enc 0x7#6 6#3)
  | .lea16 f => some (f.enc 0x7#6 7#3)
  | .addi f => some (f.enc 0x8#6)
  | .andi f => some (f.enc 0x9#6)
  | .ori f => some (f.enc 0xa#6)
  | .xori f => some (f.enc 0xb#6)
  | .shli f => some (f.enc 0xc#6 0#2)
  | .shri f => some (f.enc 0xc#6 1#2)
  | .srai f => some (f.enc 0xc#6 2#2)
  | .roli f => some (f.enc 0xc#6 3#2)
  | .cmpiEq f => some (f.enc 0xd#6 0#3)
  | .cmpiNe f => some (f.enc 0xd#6 1#3)
  | .cmpiLtS f => some (f.enc 0xd#6 2#3)
  | .cmpiLeS f => some (f.enc 0xd#6 3#3)
  | .cmpiLtU f => some (f.enc 0xd#6 4#3)
  | .cmpiLeU f => some (f.enc 0xd#6 5#3)
  | .cmpiGtS f => some (f.enc 0xd#6 6#3)
  | .cmpiGtU f => some (f.enc 0xd#6 7#3)
  | .movi f => some (f.enc 0xe#6)
  | .movhi f => some (f.enc 0xf#6)
  | .fadd f => some (f.enc 0x10#6 0#3)
  | .fsub f => some (f.enc 0x10#6 1#3)
  | .fmul f => some (f.enc 0x10#6 2#3)
  | .fmin f => some (f.enc 0x10#6 3#3)
  | .fmax f => some (f.enc 0x10#6 4#3)
  | .fabs f => some (f.enc 0x10#6 5#3)
  | .fneg f => some (f.enc 0x10#6 6#3)
  | .fcpsgn f => some (f.enc 0x10#6 7#3)
  | .fma f => some (f.enc 0x11#6 0#3)
  | .fms f => some (f.enc 0x11#6 1#3)
  | .fnma f => some (f.enc 0x11#6 2#3)
  | .fnms f => some (f.enc 0x11#6 3#3)
  | .fmulH2 f => some (f.enc 0x11#6 4#3)
  | .faddH2 f => some (f.enc 0x11#6 5#3)
  | .fmaH2 f => some (f.enc 0x11#6 6#3)
  | .fmaB2 f => some (f.enc 0x11#6 7#3)
  | .fcmpEq f => some (f.enc 0x12#6 0#3)
  | .fcmpNe f => some (f.enc 0x12#6 1#3)
  | .fcmpLt f => some (f.enc 0x12#6 2#3)
  | .fcmpLe f => some (f.enc 0x12#6 3#3)
  | .fcmpGe f => some (f.enc 0x12#6 4#3)
  | .fcmpGt f => some (f.enc 0x12#6 5#3)
  | .fcmpUn f => some (f.enc 0x12#6 6#3)
  | .fcmpOrd f => some (f.enc 0x12#6 7#3)
  | .cvtF32S f => some (f.enc 0x13#6 0#3)
  | .cvtSF32 f => some (f.enc 0x13#6 1#3)
  | .cvtF32U f => some (f.enc 0x13#6 2#3)
  | .cvtUF32 f => some (f.enc 0x13#6 3#3)
  | .cvtF32F16 f => some (f.enc 0x13#6 4#3)
  | .cvtF16F32 f => some (f.enc 0x13#6 5#3)
  | .cvtF32Bf16 f => some (f.enc 0x13#6 6#3)
  | .cvtBf16F32 f => some (f.enc 0x13#6 7#3)
  | .frndNe f => some (f.enc 0x14#6 0#3)
  | .frndZ f => some (f.enc 0x14#6 1#3)
  | .frndDn f => some (f.enc 0x14#6 2#3)
  | .frndUp f => some (f.enc 0x14#6 3#3)
  | .fcls f => some (f.enc 0x14#6 4#3)
  | .fldexp f => some (f.enc 0x14#6 5#3)
  | .fgetexp f => some (f.enc 0x14#6 6#3)
  | .fgetman f => some (f.enc 0x14#6 7#3)
  | .addB2 f => some (f.enc 0x15#6 0#3)
  | .subB2 f => some (f.enc 0x15#6 1#3)
  | .mulB2 f => some (f.enc 0x15#6 2#3)
  | .minB2 f => some (f.enc 0x15#6 3#3)
  | .maxB2 f => some (f.enc 0x15#6 4#3)
  | .subH2 f => some (f.enc 0x15#6 5#3)
  | .minH2 f => some (f.enc 0x15#6 6#3)
  | .maxH2 f => some (f.enc 0x15#6 7#3)
  | .npkE4m3 f => some (f.enc 0x16#6 0#3)
  | .npkE5m2 f => some (f.enc 0x16#6 1#3)
  | .npkE3m2 f => some (f.enc 0x16#6 2#3)
  | .npkE2m3 f => some (f.enc 0x16#6 3#3)
  | .npkE2m1 f => some (f.enc 0x16#6 4#3)
  | .npkI8 f => some (f.enc 0x16#6 5#3)
  | .npkI4 f => some (f.enc 0x16#6 6#3)
  | .nupE4m3 f => some (f.enc 0x17#6 0#3)
  | .nupE5m2 f => some (f.enc 0x17#6 1#3)
  | .nupE3m2 f => some (f.enc 0x17#6 2#3)
  | .nupE2m3 f => some (f.enc 0x17#6 3#3)
  | .nupE2m1 f => some (f.enc 0x17#6 4#3)
  | .nupI8 f => some (f.enc 0x17#6 5#3)
  | .nupI4 f => some (f.enc 0x17#6 6#3)
  | .dot4E4 f => some (f.enc 0x18#6 0#3)
  | .dot4E5 f => some (f.enc 0x18#6 1#3)
  | .dot8F4 f => some (f.enc 0x18#6 2#3)
  | .dot4I8 f => some (f.enc 0x18#6 3#3)
  | .dot8I4 f => some (f.enc 0x18#6 4#3)
  | .dot2B2 f => some (f.enc 0x18#6 5#3)
  | .dot2H2 f => some (f.enc 0x18#6 6#3)
  | .dot2B2f f => some (f.enc 0x18#6 7#3)
  | .vmxF4 f => some (f.enc 0x19#6)
  | .vmxE4 f => some (f.enc 0x1a#6)
  | .vmxE5 f => some (f.enc 0x1b#6)
  | .qntF4 f => some (f.enc 0x1c#6 0#3)
  | .qntE4 f => some (f.enc 0x1c#6 1#3)
  | .qntE5 f => some (f.enc 0x1c#6 2#3)
  | .qntF4o f => some (f.enc 0x1c#6 3#3)
  | .qntE4o f => some (f.enc 0x1c#6 4#3)
  | .amaxL f => some (f.enc 0x1c#6 5#3)
  | .scl f => some (f.enc 0x1c#6 6#3)
  | .kc2DecLo f => some (f.enc 0x1d#6 0#3)
  | .kc2DecHi f => some (f.enc 0x1d#6 1#3)
  | .cbLd f => some (f.enc 0x1d#6 2#3)
  | .exp f => some (f.enc 0x1e#6 0#3)
  | .exp2 f => some (f.enc 0x1e#6 1#3)
  | .ln f => some (f.enc 0x1e#6 2#3)
  | .log2 f => some (f.enc 0x1e#6 3#3)
  | .rcp f => some (f.enc 0x1e#6 4#3)
  | .rsqrt f => some (f.enc 0x1e#6 5#3)
  | .sqrt f => some (f.enc 0x1e#6 6#3)
  | .erf f => some (f.enc 0x1e#6 7#3)
  | .tanh f => some (f.enc 0x1f#6 0#3)
  | .sigm f => some (f.enc 0x1f#6 1#3)
  | .gelu f => some (f.enc 0x1f#6 2#3)
  | .silu f => some (f.enc 0x1f#6 3#3)
  | .sin f => some (f.enc 0x1f#6 4#3)
  | .cos f => some (f.enc 0x1f#6 5#3)
  | .tbl f => some (f.enc 0x1f#6 6#3)
  | .rsMax f => some (f.enc 0x20#6 0#3)
  | .rsSexp f => some (f.enc 0x20#6 1#3)
  | .rsMean f => some (f.enc 0x20#6 2#3)
  | .rsDev f => some (f.enc 0x20#6 3#3)
  | .rsFin f => some (f.enc 0x20#6 4#3)
  | .smxFin f => some (f.enc 0x20#6 5#3)
  | .mask f => some (f.enc 0x20#6 6#3)
  | .shflIdx f => some (f.enc 0x21#6 0#3)
  | .shflUp f => some (f.enc 0x21#6 1#3)
  | .shflDn f => some (f.enc 0x21#6 2#3)
  | .shflXor f => some (f.enc 0x21#6 3#3)
  | .ballot f => some (f.enc 0x21#6 4#3)
  | .laneMatch f => some (f.enc 0x21#6 5#3)
  | .laneAny f => some (f.enc 0x21#6 6#3)
  | .laneAll f => some (f.enc 0x21#6 7#3)
  | .redAdd f => some (f.enc 0x22#6 0#3)
  | .redMin f => some (f.enc 0x22#6 1#3)
  | .redMax f => some (f.enc 0x22#6 2#3)
  | .redAnd f => some (f.enc 0x22#6 3#3)
  | .redOr f => some (f.enc 0x22#6 4#3)
  | .redFadd f => some (f.enc 0x22#6 5#3)
  | .scanAdd f => some (f.enc 0x22#6 6#3)
  | .scanFadd f => some (f.enc 0x22#6 7#3)
  | .tblLd f => some (f.enc 0x23#6 0#3)
  | .tblSw f => some (f.enc 0x23#6 1#3)
  | .tblRd f => some (f.enc 0x23#6 2#3)
  | .ld f => some (f.enc 0x24#6)
  | .lds f => some (f.enc 0x25#6)
  | .st f => some (f.enc 0x26#6)
  | .ldq f => some (f.enc 0x27#6 0#2)
  | .stq f => some (f.enc 0x27#6 1#2)
  | .ldNc f => some (f.enc 0x27#6 2#2)
  | .pf f => some (f.enc 0x27#6 3#2)
  | .lda f => some (f.enc 0x28#6)
  | .stl f => some (f.enc 0x29#6)
  | .feClr f => some (f.enc 0x2a#6 0#3)
  | .feSet f => some (f.enc 0x2a#6 1#3)
  | .feTst f => some (f.enc 0x2a#6 2#3)
  | .feWt f => some (f.enc 0x2a#6 3#3)
  | .gat f => some (f.enc 0x2b#6 0#3)
  | .sct f => some (f.enc 0x2b#6 1#3)
  | .otkNew f => some (f.enc 0x2b#6 2#3)
  | .otkWt f => some (f.enc 0x2b#6 3#3)
  | .amoAdd f => some (f.enc 0x2c#6 0#3)
  | .amoMinS f => some (f.enc 0x2c#6 1#3)
  | .amoMaxS f => some (f.enc 0x2c#6 2#3)
  | .amoMinU f => some (f.enc 0x2c#6 3#3)
  | .amoMaxU f => some (f.enc 0x2c#6 4#3)
  | .amoAnd f => some (f.enc 0x2c#6 5#3)
  | .amoOr f => some (f.enc 0x2c#6 6#3)
  | .amoXor f => some (f.enc 0x2c#6 7#3)
  | .amoXchg f => some (f.enc 0x2d#6 0#3)
  | .amoCas f => some (f.enc 0x2d#6 1#3)
  | .amoFadd f => some (f.enc 0x2d#6 2#3)
  | .amoFaddB2 f => some (f.enc 0x2d#6 3#3)
  | .amoFmax f => some (f.enc 0x2d#6 4#3)
  | .amoIncW f => some (f.enc 0x2d#6 5#3)
  | .amoDecW f => some (f.enc 0x2d#6 6#3)
  | .fenceCore f => some (f.enc 0x2e#6 0#3)
  | .fenceDie f => some (f.enc 0x2e#6 1#3)
  | .fencePkg f => some (f.enc 0x2e#6 2#3)
  | .fenceSys f => some (f.enc 0x2e#6 3#3)
  | .xfence f => some (f.enc 0x2e#6 4#3)
  | .gwct f => some (f.enc 0x2e#6 5#3)
  | .leaseDrop f => some (f.enc 0x2e#6 6#3)
  | .barArr f => some (f.enc 0x2f#6 0#3)
  | .barWt f => some (f.enc 0x2f#6 1#3)
  | .barSync f => some (f.enc 0x2f#6 2#3)
  | .nbarArr f => some (f.enc 0x2f#6 3#3)
  | .nbarWt f => some (f.enc 0x2f#6 4#3)
  | .bwait f => some (f.enc 0x2f#6 5#3)
  | .bobjInit f => some (f.enc 0x2f#6 6#3)
  | .kick f => some (f.enc 0x30#6 0#3)
  | .cpySt f => some (f.enc 0x30#6 1#3)
  | .free f => some (f.enc 0x30#6 2#3)
  | .ringInit f => some (f.enc 0x30#6 3#3)
  | .send f => some (f.enc 0x30#6 4#3)
  | .recvAdv f => some (f.enc 0x30#6 5#3)
  | .br f => some (f.enc 0x31#6)
  | .call f => some (f.enc 0x32#6)
  | .brx f => some (f.enc 0x33#6 0#3)
  | .callx f => some (f.enc 0x33#6 1#3)
  | .ret f => some (f.enc 0x33#6 2#3)
  | .exit f => some (f.enc 0x33#6 3#3)
  | .yield f => some (f.enc 0x33#6 4#3)
  | .sleep f => some (f.enc 0x33#6 5#3)
  | .nop f => some (f.enc 0x33#6 6#3)
  | .hot f => some (f.enc 0x33#6 7#3)
  | .spawn f => some (f.enc 0x34#6 0#3)
  | .spawnW f => some (f.enc 0x34#6 1#3)
  | .regroup f => some (f.enc 0x34#6 2#3)
  | .nocap f => some (f.enc 0x34#6 3#3)
  | .capok f => some (f.enc 0x34#6 4#3)
  | .trap f => some (f.enc 0x34#6 5#3)
  | .lnch f => some (f.enc 0x34#6 6#3)
  | .srd f => some (f.enc 0x35#6)
  | .crd f => some (f.enc 0x36#6)
  | .cwr f => some (f.enc 0x37#6)
  | .tret f => some (f.enc 0x38#6 0#3)
  | .wfi f => some (f.enc 0x38#6 1#3)
  | .halt f => some (f.enc 0x38#6 2#3)
  | .vdhop f => some (f.enc 0x38#6 3#3)
  | .cfgld f => some (f.enc 0x38#6 4#3)
  | .cfgDrop f => some (f.enc 0x38#6 5#3)
  | .wcsld f => some (f.enc 0x38#6 6#3)
  | .wcsbind f => some (f.enc 0x38#6 7#3)
  | .accRd f => some (f.enc 0x39#6 0#3)
  | .accWr f => some (f.enc 0x39#6 1#3)
  | .tileRd f => some (f.enc 0x39#6 2#3)
  | .tileWr f => some (f.enc 0x39#6 3#3)
  | .olRd f => some (f.enc 0x39#6 4#3)
  | .olWr f => some (f.enc 0x39#6 5#3)
  | .olCnt f => some (f.enc 0x39#6 6#3)
  | .userMacro f => some (f.enc 0xf#4)
  | .calloc a => some (0x3a#6 ++ 7#4 ++ 0#6 ++ a ++ 0#6 ++ 0#1 ++ 0#3)
  | .pack a b => some (0x3a#6 ++ 7#4 ++ 0#6 ++ a ++ b ++ 0#1 ++ 1#3)
  | .unpack f => some (f.enc 0x3a#6 2#3)
  | .merge a b => some (0x3a#6 ++ 7#4 ++ 0#6 ++ a ++ b ++ 0#1 ++ 3#3)
  | .steer a => some (0x3a#6 ++ 7#4 ++ 0#6 ++ a ++ 0#6 ++ 0#1 ++ 4#3)
  | .redCfg f => some (f.enc 0x3b#6 0#3)
  | .agen a => some (0x3b#6 ++ 7#4 ++ 0#6 ++ a ++ 0#6 ++ 0#1 ++ 1#3)
  | .isect a b => some (0x3b#6 ++ 7#4 ++ 0#6 ++ a ++ b ++ 0#1 ++ 2#3)
  | .unionCoord a b => some (0x3b#6 ++ 7#4 ++ 0#6 ++ a ++ b ++ 0#1 ++ 3#3)
  | .eos f => some (f.enc 0x3b#6 4#3)
  | .emit a b => some (0x3b#6 ++ 7#4 ++ 0#6 ++ a ++ b ++ 0#1 ++ 5#3)
  | .wadapt f => some (f.enc 0x3b#6 6#3)
  | .mmaBf16 f => some (f.enc 0x0#6 0#3)
  | .mmaF16 f => some (f.enc 0x0#6 1#3)
  | .mmaE4m3 f => some (f.enc 0x0#6 2#3)
  | .mmaE5m2 f => some (f.enc 0x0#6 3#3)
  | .mmaMxe4 f => some (f.enc 0x0#6 4#3)
  | .mmaMxe5 f => some (f.enc 0x0#6 5#3)
  | .mmaMxf6 f => some (f.enc 0x0#6 6#3)
  | .mmaMxf4 f => some (f.enc 0x0#6 7#3)
  | .mmaI8 f => some (f.enc 0x1#6 0#3)
  | .mmaI4 f => some (f.enc 0x1#6 1#3)
  | .mmaBf16T f => some (f.enc 0x1#6 2#3)
  | .tld f => some (f.enc 0x2#6)
  | .tstRaw f => some (f.enc 0x3#6 0#3)
  | .tstBf16 f => some (f.enc 0x3#6 1#3)
  | .tstF16 f => some (f.enc 0x3#6 2#3)
  | .tstE4m3 f => some (f.enc 0x3#6 3#3)
  | .tstE5m2 f => some (f.enc 0x3#6 4#3)
  | .tzT d => some (0x4#6 ++ d ++ 0#5 ++ 0#5 ++ 0#3 ++ 0#8)
  | .tzA d => some (0x4#6 ++ d ++ 0#5 ++ 0#5 ++ 1#3 ++ 0#8)
  | .tsetW d a => some (0x5#6 ++ d ++ a ++ 0#5 ++ 0#3 ++ 0#8)
  | .tsetH d a => some (0x5#6 ++ d ++ a ++ 0#5 ++ 1#3 ++ 0#8)
  | .tsetC d a => some (0x5#6 ++ d ++ a ++ 0#5 ++ 2#3 ++ 0#8)
  | .tsetEsc d a => some (0x5#6 ++ d ++ a ++ 0#5 ++ 3#3 ++ 0#8)
  | .kadd d a b => some (0x6#6 ++ d ++ a ++ b ++ 0#3 ++ 0#8)
  | .ksub d a b => some (0x6#6 ++ d ++ a ++ b ++ 1#3 ++ 0#8)
  | .kmul d a b => some (0x6#6 ++ d ++ a ++ b ++ 2#3 ++ 0#8)
  | .kand d a b => some (0x6#6 ++ d ++ a ++ b ++ 3#3 ++ 0#8)
  | .kor d a b => some (0x6#6 ++ d ++ a ++ b ++ 4#3 ++ 0#8)
  | .kshl d a b => some (0x6#6 ++ d ++ a ++ b ++ 5#3 ++ 0#8)
  | .kshr d a b => some (0x6#6 ++ d ++ a ++ b ++ 6#3 ++ 0#8)
  | .kmov d a => some (0x6#6 ++ d ++ a ++ 0#5 ++ 7#3 ++ 0#8)
  | .kaddi d i => some (0x7#6 ++ d ++ 0#2 ++ 0#3 ++ i)
  | .kmovi d i => some (0x7#6 ++ d ++ 1#2 ++ 0#3 ++ i)
  | .krep a o => some (0x8#6 ++ 0#2 ++ 0#3 ++ a ++ o)
  | .kbnz a o => some (0x8#6 ++ 1#2 ++ 0#3 ++ a ++ o)
  | .kend => some 0x22000000#32
  | .cadNbarArr a => some (0x9#6 ++ 0#5 ++ a ++ 0#5 ++ 0#3 ++ 0#8)
  | .cadNbarWt a => some (0x9#6 ++ 0#5 ++ a ++ 0#5 ++ 1#3 ++ 0#8)
  | .cend => some 0x28000000#32
  | .olClr d => some (0xb#6 ++ d ++ 0#5 ++ 0#5 ++ 0#3 ++ 0#8)
  | .olLim d a => some (0xb#6 ++ d ++ a ++ 0#5 ++ 1#3 ++ 0#8)
  | _ => none

/-! ### The decoders -/

/-- The literal word that an instruction carries (R33). -/
def literalOf (w lit : Word) (raw : Word → Word → Option Instr) : Option Instr :=
  match raw w 0 with
  | none => none
  | some i => if (Machine.shape i).wantsLit then raw w lit else some i

/-- Steps 1 to 4 of R35 for the word `w` followed by `lit`, over a map of opcodes, less the checks that need the machine's state. -/
def decodeBy (raw : Word → Word → Option Instr) (w lit : Word) : Except Illegal Instr :=
  if major w = 0x3a ∨ major w = 0x3b then .error .op
  else if ¬ (0x19 ≤ major w ∧ major w ≤ 0x1b) ∧ w.extractLsb' 22 4 = 15 then .error .field
  else match literalOf w lit raw with
    | none => .error .op
    | some i => if encodeWord i = some w ∧ i.wellFormed then .ok i else .error .field

/-- The decoder of thread words (R35, R41). -/
noncomputable def decodeThread (w lit : Word) : Except Illegal Instr := decodeBy rawThread w lit

/-- The decoder of the words that may stand in a slot or a captured loop (R48, R297): that of thread words on these, and no other word. -/
def decodeLoop (w lit : Word) : Except Illegal Instr := decodeBy rawLoop w lit

/-! ### The shape of any thread word -/

/-- The operand shapes of the words that `rawSys` reads, in the order of R41. -/
def sysShape (w lit : Word) : Option Machine.Shape :=
  let fn := (w.extractLsb' 0 3).toNat
  match major w with
  | 0x2a => match fn with
    | 0 | 1 => some (Machine.shAB (.dec w lit) 2 1 0)
    | 2 => some (Machine.shFeTst (.dec w lit))
    | 3 => some (Machine.shA1 (.dec w lit) 2 0)
    | _ => none
  | 0x2b => match fn with
    | 0 | 1 => some (Machine.shAB (.dec w lit) 2 1 0)
    | 2 => some (Machine.shOtkNew (.dec w))
    | 3 => some (Machine.shA1 (.dec w lit) 1 0)
    | _ => none
  | 0x2e => match fn with
    | 4 => some (Machine.shXfence (.dec w lit))
    | 5 => some (Machine.shGwct (.dec w lit))
    | 7 => none
    | _ => some (Machine.shG (.dec w) 0)
  | 0x2f => match fn with
    | 5 => some (Machine.shA1 (.dec w lit) 2 0)
    | 6 => some (Machine.shAB (.dec w lit) 2 2 0)
    | 7 => none
    | _ => some (Machine.shA1 (.dec w lit) 1 0)
  | 0x30 => match fn with
    | 0 => some (Machine.shAB (.dec w lit) 2 1 0)
    | 1 => some (Machine.shCpySt (.dec w lit))
    | 2 => some (Machine.shA1 (.dec w lit) 1 0)
    | 3 => some (Machine.shRingInit (.dec w lit))
    | 4 | 5 => some (Machine.shAn (.dec w lit))
    | _ => none
  | 0x32 => some (Machine.shJ (.dec w))
  | 0x33 => match fn with
    | 0 | 1 => some (Machine.shA1 (.dec w lit) 2 0)
    | 5 => some (Machine.shA1 (.dec w lit) 1 0)
    | _ => some (Machine.shG (.dec w) 0)
  | 0x34 => match fn with
    | 0 | 1 => some (Machine.shSpawn (.dec w lit))
    | 2 | 5 => some (Machine.shA1 (.dec w lit) 1 0)
    | 3 | 4 => some (Machine.shG (.dec w) 0)
    | 6 => some (Machine.shDU (.dec w lit) 2)
    | _ => none
  | 0x35 => some (Machine.shSrd (.dec w lit))
  | 0x36 => some (Machine.shCrd (.dec w lit))
  | 0x37 => some (Machine.shCwr (.dec w lit))
  | 0x38 => match fn with
    | 0 => some (Machine.shG (.dec w) 0)
    | 1 => some (Machine.shG (.dec w) 1)
    | 2 => some (Machine.shG (.dec w) 2)
    | 3 => some (Machine.shD (.dec w lit) 1 1 0)
    | 4 | 6 => some (Machine.shD (.dec w lit) 2 1 1)
    | 5 => some (Machine.shA1 (.dec w lit) 1 1)
    | _ => some (Machine.shAB (.dec w lit) 1 1 1)
  | 0x39 => match fn with
    | 0 | 2 | 4 => some (Machine.shD (.dec w lit) 1 1 0)
    | 1 | 3 | 5 => some (Machine.shW (.dec w lit))
    | 6 => some (Machine.shDU (.dec w lit) 1)
    | _ => none
  | _ => none

/-- The operand shape of a thread word (Laws/Decode.lean: that of the instruction that the thread map reads from it). -/
def threadShape (w lit : Word) : Option Machine.Shape := ((rawLoop w lit).map Machine.shape).or (sysShape w lit)

/-- Whether the thread word `w` is followed by a literal word (R27, R33). -/
def hasLiteral (w : Word) : Bool :=
  match threadShape w 0 with
  | none => false
  | some sh => sh.wantsLit

/-- Steps 1 to 3 of R169 for a Cadence word. -/
noncomputable def decodeCadence (w : Word) : Except Illegal Instr :=
  match rawCadence w with
  | none => if major w = 0x05 then .error .field else .error .op
  | some i => if encodeWord i = some w ∧ i.wellFormed then .ok i else .error .field

/-- The Trellis-only words of a slot (R42, R48, R197). -/
def decodeTrellis (w : Word) : Except Illegal Instr :=
  match rawTrellis w with
  | none => .error .op
  | some i => if encodeWord i = some w ∧ i.wellFormed then .ok i else .error .field

/-- The words that stand for a well-formed instruction: its word, and its literal word where a field calls for one. -/
def encode (i : Instr) : List Word :=
  match encodeWord i with
  | none => []
  | some w => if (Machine.shape i).wantsLit then [w, (Machine.shape i).lit] else [w]

/-- Which stream a table word is read in: majors 0x3A and 0x3B stand only in Trellis slots (R42); any other word that the
thread decoder takes is a thread word; what it refuses is tried as a Cadence word. -/
inductive Stream where
  | thread
  | trellis
  | cadence
  deriving DecidableEq, Repr, Inhabited

/-- The stream that a bare word is taken to stand in. -/
noncomputable def streamOf (w lit : Word) : Stream :=
  if major w = 0x3a ∨ major w = 0x3b then .trellis
  else match decodeThread w lit with
    | .ok _ => .thread
    | .error _ => match decodeCadence w with
      | .ok _ => .cadence
      | .error _ => .thread

/-- The instruction that the decoder of its stream reads from a word. -/
noncomputable def decodeIn (st : Stream) (w lit : Word) : Except Illegal Instr :=
  match st with
  | .thread => decodeThread w lit
  | .trellis => decodeTrellis w
  | .cadence => decodeCadence w

/-- The instruction read from a table word of `nbits` bits, any bits above being zero. -/
noncomputable def decodeTableWord (nbits w : Nat) : Option Instr :=
  let x : Word := BitVec.ofNat 32 (w % 2 ^ nbits)
  let lit : Word := BitVec.ofNat 32 ((w % 2 ^ nbits) / 2 ^ 32)
  match decodeIn (streamOf x lit) x lit with
  | .ok i => some i
  | .error _ => none

end Sys2Proof
end

