-- ==== Sys2Proof/Machine/Engine.lean ====
section
/-! DEFINITION. The thread's side of the copy engine, stream copies, message rings, gathers and scatters
(03_memory_system_instructions.md R115 to R117, R123 to R128). The events in Transfers.lean carry them out. -/

namespace Sys2Proof.Machine

/-- The 32-bit field at byte `o`. -/
def word32 (bs : List Byte) (o : Nat) : Nat := leNat ((bs.drop o).take 4)

/-- The 64-bit field at byte `o`. -/
def word64 (bs : List Byte) (o : Nat) : Nat := leNat ((bs.drop o).take 8)

/-- The scratchpad offset of `n` bytes at a window-1 address aligned to `al`, inside the plot's scratchpad; none where it raises
ADDR. -/
def Plot.scrOff (p : Plot) (va : DWord) (al n : Nat) : Option Nat :=
  let o := va.toNat % 2 ^ 60
  if va.toNat / 2 ^ 60 = 1 ∧ o % al = 0 ∧ o + n ≤ p.scratchLen then some o else none

/-! ### Copies -/

/-- A copy descriptor (R123). -/
def copyDesc (bs : List Byte) : CopyDesc where
  src := BitVec.ofNat 64 (word64 bs 0)
  dst := BitVec.ofNat 64 (word64 bs 8)
  rowlen := bits (word32 bs 16) 0 20
  rows := bits (word32 bs 16) 20 12
  sstride := sgn 32 (word32 bs 20)
  dstride := sgn 32 (word32 bs 24)
  bobj := 8 * bits (word32 bs 28) 0 16
  setfull := bit (word32 bs 28) 16
  restart := bit (word32 bs 28) 17
  rsvd := bits (word32 bs 28) 18 14 != 0

/-- Bytes that a copy moves (R123). -/
def CopyDesc.bytes (d : CopyDesc) : Nat := d.rowlen * (d.rows + 1)

/-- Pieces of a row at most: aligned 4-byte words of the destination (R275). -/
def CopyDesc.perRow (d : CopyDesc) : Nat := d.rowlen / 4 + 2

/-- Where piece `k` of a copy lies: its destination address, its source address and its length, 0 for a number that names none. -/
def CopyDesc.piece (d : CopyDesc) (k : Nat) : Nat × Nat × Nat :=
  let r := k / d.perRow
  let j := k % d.perRow
  let row := ((d.dst.toNat : Int) + d.dstride * r).toNat
  let lo := max row (4 * (row / 4 + j))
  let hi := min (row + d.rowlen) (4 * (row / 4 + j) + 4)
  (lo, ((d.src.toNat : Int) + d.sstride * r).toNat + (lo - row), if d.rows < r then 0 else hi - lo)

/-- The numbers of a copy's pieces. -/
def CopyDesc.pieces (d : CopyDesc) : List Nat :=
  (List.range ((d.rows + 1) * d.perRow)).filter (fun k => (d.piece k).2.2 != 0)

/-- Whether both ends of a range lie in a window that the check of R93 admits. -/
def State.rangeOk (s : State) (w : Who) (a : Acc) (wins : List Nat) (r : Int × Int) : Bool :=
  decide (0 ≤ r.1) && decide (r.2 < 2 ^ 64) && wins.contains (r.1.toNat / 2 ^ 60) && r.2.toNat / 2 ^ 60 == r.1.toNat / 2 ^ 60
    && s.offsetOk w a r.1.toNat && s.offsetOk w a r.2.toNat

/-- The fault of an invalid copy descriptor (R124): ILLEGAL.FIELD for its fields, ADDR for its ranges. -/
def State.copyFault (s : State) (t : Thread) (d : CopyDesc) : Option Nat :=
  if d.rsvd || d.rowlen == 0 then some codeField
  else if !s.rangeOk (s.who t) .read [0, 1, 2, 3] d.srcRange || !s.rangeOk (s.who t) .write [0, 1, 3] d.dstRange
      || decide ((s.plotOf t).scratchLen < d.bobj + 8) then some codeAddr
  else none

/-- Start the copy of one descriptor, or report it and count its bytes off (R124). -/
def State.startCopy (s : State) (u off : Nat) (d : CopyDesc) : State :=
  let t := s.thr u
  match s.copyFault t d with
  | some c =>
    let s1 := s.imprecise u c t.pc (BitVec.ofNat 64 (2 ^ 60 + off)) 0
    if (s.plotOf t).scratchLen < d.bobj + 8 then s1 else s1.countOff t.plot d.bobj d.bytes true
  | none => s.modCore (s.coreOf t) (fun c =>
      { c with copies := c.copies ++ [⟨c.copySeq, t.ctx, t.plot, u, t.pc, d, off, [], [], [], 0, []⟩], copySeq := c.copySeq + 1 })

/-- The `n` descriptors at scratchpad offset `o`, with their offsets. -/
def Plot.descs (p : Plot) (o n : Nat) : List (Nat × CopyDesc) :=
  (List.range n).map (fun i => (o + 32 * i, copyDesc (Memory.read p.scratch (o + 32 * i) 32)))

/-- Meaning of `kick` (R124): every valid descriptor takes one of the 16 scoreboard entries. -/
def execKick (f : FAB) : State → Host.Outcome State Fault Refusal :=
  issue (shAB f 2 1 0) (fun s =>
    let t := s.thr s.cur
    let va := t.src64 f.lit f.a
    let n := (t.src32 f.lit f.b).toNat
    if n = 0 ∨ 16 < n then .fault codeField 0 0
    else match (s.plotOf t).scrOff va 32 (32 * n) with
      | none => .fault codeAddr 0 va
      | some o =>
        let ds := (s.plotOf t).descs o n
        if 16 < (s.cores.get (s.coreOf t)).copies.length + (ds.filter (fun d => (s.copyFault t d.2).isNone)).length then .wait s .scoreboard
        else .done (ds.foldl (fun s d => s.startCopy s.cur d.1 d.2) s) 0)

/-! ### Stream copies -/

/-- The stream that a descriptor asks for (R125). -/
def streamDesc (bs : List Byte) (t : Thread) (u : Nat) : Strm where
  active := true
  ctx := t.ctx
  plot := t.plot
  thread := u
  pc := t.pc
  src := BitVec.ofNat 64 (word64 bs 0)
  slotB := bits (word32 bs 8) 0 12
  nslot := bits (word32 bs 8) 12 8
  ring := word32 bs 12
  tstride := sgn 32 (word32 bs 16)
  ntile := word32 bs 20
  bobj := 8 * bits (word32 bs 24) 0 16
  next := 0
  pos := 0
  posAt := 0
  err := false
  freed := 0
  slots := []
  refused := []

/-- A field error of a stream descriptor (R125). -/
def streamFieldBad (bs : List Byte) (m : Strm) : Bool :=
  m.slotB == 0 || m.nslot == 0 || m.ntile == 0 || m.ring % 128 != 0 || bits (word32 bs 8) 20 12 != 0
    || bits (word32 bs 24) 16 16 != 0 || word32 bs 28 != 0 || !([0, 2, 3].contains (m.src.toNat / 2 ^ 60))

/-- The lowest stream handle of a core that is not in use (R125). -/
def Core.freeStream (c : Core) : Option Nat := (List.range 8).find? (fun h => !(c.streams.get h).active)

/-- Meaning of `cpy.st` (R125). A ring or an object outside the scratchpad is reported at the descriptor's address (DESIGN CHOICE,
notes/assumptions/93.md). -/
def execCpySt (f : FDa) : State → Host.Outcome State Fault Refusal :=
  issue (shCpySt f) (fun s =>
    let t := s.thr s.cur
    let p := s.plotOf t
    let va := t.src64 f.lit f.a
    match p.scrOff va 32 32 with
    | none => .fault codeAddr 0 va
    | some o =>
      let bs := Memory.read p.scratch o 32
      let m := streamDesc bs t s.cur
      if streamFieldBad bs m then .fault codeField 0 0
      else if p.lines < m.ring / 128 + m.slotB * m.nslot || p.scratchLen < m.bobj + 8 then .fault codeAddr 0 va
      else match (s.cores.get p.core).freeStream with
        | none => .done (s.setThr s.cur (t.wr32 false f.d 0xFFFFFFFF)) 0
        | some h =>
          let s1 := s.modPlot t.plot (fun q => q.setFull false (m.ring / 128) (m.slotB * m.nslot))
          let s2 := s1.modCore p.core (fun c => { c with streams := c.streams.set h m })
          .done (s2.modThr s.cur (fun t => t.wr32 false f.d (BitVec.ofNat 32 h))) 0)

/-- Free the oldest filled slot of a stream of plot `p` on core `c` (R126). -/
def State.freeSlot (s : State) (p c h : Nat) : State :=
  let m := (s.cores.get c).streams.get h
  if h < 8 ∧ m.active ∧ m.plot = p ∧ m.freed < m.next then
    let k := m.freed % m.nslot
    let s1 := s.modPlot p (fun q => q.setFull false (m.ring / 128 + k * m.slotB) m.slotB)
    let m' : Strm := if m.freed + 1 = m.ntile then default else { m with freed := m.freed + 1, slots := m.slots.set k .noticed }
    s1.modCore c (fun c => { c with streams := c.streams.set h m' })
  else s

/-- Meaning of `free` (R126). -/
def execFree (f : FA1) : State → Host.Outcome State Fault Refusal :=
  issue (shA1 f 1 0) (fun s =>
    let t := s.thr s.cur
    if t.loads.any (fun l => l.parts.any (fun p => match p.loc with | .scr _ => true | _ => false)) then .wait s .loads
    else .done (s.freeSlot t.plot (s.coreOf t) (t.src32 f.lit f.a).toNat) 0)

/-! ### Message rings -/

/-- A ring header: SIZE, HEAD, TAIL and USED (R127). -/
structure RingHdr where
  size : Nat
  head : Nat
  tail : Nat
  used : Nat
  deriving DecidableEq, Repr, Inhabited

/-- The header at offset `o` of a scratchpad. -/
def ringHdr (m : Memory) (o : Nat) : RingHdr :=
  let bs := Memory.read m o 16
  ⟨word32 bs 0, word32 bs 4, word32 bs 8, word32 bs 12⟩

/-- Write HEAD, TAIL and USED, and the header line's full bit, set exactly while USED > 0 (R127). -/
def Plot.setRing (p : Plot) (o : Nat) (h : RingHdr) : Plot :=
  { p with scratch := Memory.write p.scratch (o + 4) (leBytes 4 h.head ++ leBytes 4 h.tail ++ leBytes 4 h.used)
           empty := p.empty.set (o / 128) (h.used == 0) }

/-- Meaning of `ring.init` (R127). -/
def execRingInit (f : FABn) : State → Host.Outcome State Fault Refusal :=
  issue (shRingInit f) (fun s =>
    let t := s.thr s.cur
    let va := t.src64 f.lit f.a
    let n := (t.src32 f.lit f.b).toNat
    match (s.plotOf t).scrOff va 128 128 with
    | none => .fault codeAddr 0 va
    | some o =>
      if n % 128 ≠ 0 ∨ n < 128 ∨ 262144 < n then .fault codeField 0 0
      else if (s.plotOf t).scratchLen < o + 128 + n then .fault codeAddr 0 va
      else if s.scoreHit t true va.toNat 128 then .wait s .scoreboard
      else .done ((s.scrWrite t.plot o (leBytes 4 n ++ List.replicate 124 0)).modPlot t.plot
        (fun p => { p with empty := p.empty.set (o / 128) true })) 0)

/-- The plot of a launch with the launch-relative number `k`, by unique number, where it has been placed and has not retired (DESIGN CHOICE,
notes/assumptions/94.md). -/
def State.plotNum (s : State) (l k : Nat) : Option Nat :=
  (s.plots.find? (fun e => e.2.live && e.2.launch == l && e.2.num == k)).map (·.1)

/-- Write `bs` into a ring's data area from data offset `i` on, wrapping at SIZE (R128). -/
def ringWrite (m : Memory) (base size i : Nat) : List Byte → Memory
  | [] => m
  | b :: bs => ringWrite (m.set (base + i % size) b) base size (i + 1) bs

/-- Bytes that a message of `n` payload bytes needs (R128). -/
def msgNeed (n : Nat) : Nat := 8 + pad8 n

/-- Deliver a message, where its ring has room and its plot is on its core (R128). -/
def State.deliver (s : State) (m : Msg) : Option State :=
  let p := s.plots.get m.plot
  let h := ringHdr p.scratch m.ring
  let n := m.data.length
  let need := msgNeed n
  if p.resident ∧ need ≤ h.size - h.used ∧ h.size ≠ 0 then
    let split := decide (h.size < h.tail + need) && decide (h.tail + 8 < h.size)
    let hdr := leBytes 4 (n + 2 ^ 20 * b2n split) ++ leBytes 4 m.tid.toNat
    let q := { p with scratch := ringWrite p.scratch (m.ring + 128) h.size h.tail (hdr ++ m.data) }
    some (s.modPlot m.plot (fun _ => q.setRing m.ring { h with tail := (h.tail + need) % h.size, used := h.used + need }))
  else none

/-- The message of a send descriptor, or the fault it meets (R128). -/
def State.sendMsg (s : State) (t : Thread) (bs : List Byte) (nextPc : DWord) : Except Nat Msg :=
  let len := bits (word32 bs 12) 0 20
  let ring := word32 bs 4
  if len = 0 ∨ bits (word32 bs 12) 20 12 ≠ 0 ∨ ring % 128 ≠ 0 then .error codeField
  else match s.plotNum (s.plotOf t).launch (word32 bs 0) with
    | none => .error codeAddr
    | some k =>
      let p := s.plots.get k
      let h := ringHdr p.scratch ring
      if (s.dies.get (dieOf p.core)).fenced then .error codeFenced
      else if p.scratchLen < ring + 128 ∨ h.size = 0 ∨ p.scratchLen < ring + 128 + h.size then .error codeAddr
      else if h.size < msgNeed len then .error codeRing
      else if (s.plotOf t).scratchLen < word32 bs 8 + len then .error codeAddr
      else .ok ⟨k, ring, t.tid, Memory.read (s.plotOf t).scratch (word32 bs 8) len, nextPc⟩

/-- Meaning of `send` (R128). -/
def execSend (f : FAn) : State → Host.Outcome State Fault Refusal :=
  issue (shAn f) (fun s =>
    let t := s.thr s.cur
    let va := t.src64 f.lit f.a
    match (s.plotOf t).scrOff va 16 16 with
    | none => .fault codeAddr 0 va
    | some o =>
      match s.sendMsg t (Memory.read (s.plotOf t).scratch o 16) (t.pc + BitVec.ofNat 64 (shAn f).len) with
      | .error c => .fault c 0 va
      | .ok m =>
        match s.deliver m with
        | some s' => .done s' 0
        | none => .wait s (.space (s.time + 1000000) m))

/-- Meaning of `recv.adv` (R127). -/
def execRecvAdv (f : FAn) : State → Host.Outcome State Fault Refusal :=
  issue (shAn f) (fun s =>
    let t := s.thr s.cur
    let p := s.plotOf t
    let va := t.src64 f.lit f.a
    match p.scrOff va 128 128 with
    | none => .fault codeAddr 0 va
    | some o =>
      let h := ringHdr p.scratch o
      if p.scratchLen < o + 128 + h.size then .fault codeAddr 0 va
      else if h.used = 0 ∨ h.size = 0 then .done s 0
      else
        let need := msgNeed (bits (leNat (Memory.read p.scratch (o + 128 + h.head % h.size) 4)) 0 20)
        .done (s.modPlot t.plot (fun p => p.setRing o { h with head := (h.head + need) % h.size, used := h.used - need })) 0)

/-! ### Gathers, scatters and ordering tokens -/

/-- The gather or scatter that a descriptor asks for (R115). -/
def gsDesc (bs : List Byte) (scatter : Bool) (seq handle u : Nat) (t : Thread) : Gs where
  seq := seq
  scatter := scatter
  handle := handle
  thread := u
  pc := t.pc
  table := BitVec.ofNat 64 (word64 bs 0)
  index := BitVec.ofNat 64 (word64 bs 8)
  dense := BitVec.ofNat 64 (word64 bs 16)
  count := bits (word32 bs 24) 0 16 + 1
  esz := 2 ^ bits (word32 bs 24) 16 2
  op := bits (word32 bs 24) 18 2
  bobj := 8 * bits (word32 bs 28) 0 16
  done := []
  counted := []
  sent := []
  errs := []
  refused := []

/-- A field error of a gather or scatter descriptor (R115, R116). -/
def gsFieldBad (bs : List Byte) (g : Gs) : Bool :=
  bits (word32 bs 24) 20 12 != 0 || bits (word32 bs 28) 16 16 != 0 || (g.scatter && (g.op == 3 || (g.op == 2 && g.esz != 4)))

/-- The check of an extent of a gather or scatter (R116): its window, then R93 and R94 over all of it. -/
def State.gsExtent (s : State) (t : Thread) (a : Acc) (va : DWord) (n : Nat) : Chk :=
  if va.toNat / 2 ^ 60 ≤ 1 then s.check (s.who t) a va n else .bad codeAddr

/-- The kind of access that a gather or scatter makes to its packed elements (R115). -/
def Gs.denseAcc (g : Gs) : Acc := if g.scatter then .read else .write

/-- The operation that a scatter performs on a table element (R115); none for a write. -/
def Gs.aop (g : Gs) : Option AOp := if g.op = 1 then some .add else if g.op = 2 then some .fadd else none

/-- The kind of access that an operation makes to its table. -/
def Gs.tableAcc (g : Gs) : Acc := if !g.scatter then .read else if g.aop.isSome then .atomic else .write

/-- The new bytes of a table element (R115). -/
def Gs.newBytes (g : Gs) (old x : List Byte) : List Byte :=
  match g.aop with
  | none => x
  | some op => leBytes g.esz (atomNew op g.esz (BitVec.ofNat 64 (leNat old)) (BitVec.ofNat 64 (leNat x)) 0).toNat

/-- The checks of R116 after the descriptor's fields, in order: INDEX, DENSE, the table's window, the barrier object, the handle. With
their answer goes the kind of access that a missing translation is for. -/
def State.gsCheck (s : State) (t : Thread) (g : Gs) : Chk × Acc :=
  match s.gsExtent t .read g.index (4 * g.count) with
  | .ok _ =>
    match s.gsExtent t g.denseAcc g.dense (g.esz * g.count) with
    | .ok _ =>
      (if g.table.toNat / 2 ^ 60 ≠ 0 ∧ g.table.toNat / 2 ^ 60 ≠ 3 then .bad codeAddr
        else if (s.plotOf t).scratchLen < g.bobj + 8 then .bad codeAddr
        else if !(s.plotOf t).otk.contains g.handle then .bad codeField
        else .ok [], .read)
    | c => (c, g.denseAcc)
  | c => (c, .read)

/-- `gat` and `sct` (R115, R116). A fault of an extent is reported at the descriptor's address (DESIGN CHOICE,
notes/assumptions/93.md). -/
def gsEff (scatter : Bool) (f : FAB) (s : State) : Eff :=
  let t := s.thr s.cur
  let va := t.src64 f.lit f.a
  if va.toNat % 32 ≠ 0 ∨ 2 ≤ va.toNat / 2 ^ 60 then .fault codeAddr 0 va
  else s.withBytes s.cur va 32 (fun bs =>
    let g := gsDesc bs scatter (s.plotOf t).gsSeq (t.src32 f.lit f.b).toNat s.cur t
    if gsFieldBad bs g then .fault codeField 0 0
    else match s.gsCheck t g with
      | (.bad c, _) => .fault c 0 va
      | (.miss m, a) => .wait s (.walk m a)
      | (.ok _, _) => .done (s.modPlot t.plot (fun p => { p with gss := p.gss ++ [g], gsSeq := p.gsSeq + 1 })) 0)

/-- Meaning of `gat` (R115). -/
def execGat (f : FAB) : State → Host.Outcome State Fault Refusal := issue (shAB f 2 1 0) (gsEff false f)

/-- Meaning of `sct` (R115). -/
def execSct (f : FAB) : State → Host.Outcome State Fault Refusal := issue (shAB f 2 1 0) (gsEff true f)

/-- Meaning of `otk.new` (R117). -/
def execOtkNew (f : FD) : State → Host.Outcome State Fault Refusal :=
  issue (shOtkNew f) (fun s =>
    let t := s.thr s.cur
    match (List.range 16).find? (fun h => !(s.plotOf t).otk.contains h) with
    | none => .done (s.setThr s.cur (t.wr32 f.nw f.d 0xFFFFFFFF)) 0
    | some h => .done ((s.modPlot t.plot (fun p => { p with otk := p.otk ++ [h] })).modThr s.cur
        (fun t => t.wr32 f.nw f.d (BitVec.ofNat 32 h))) 0)

/-- Meaning of `otk.wt` (R117). Its D, B and NW fields are taken as reserved (DESIGN CHOICE, notes/assumptions/95.md). -/
def execOtkWt (f : FA1) : State → Host.Outcome State Fault Refusal :=
  issue (shA1 f 1 0) (fun s =>
    let t := s.thr s.cur
    let h := (t.src32 f.lit f.a).toNat
    if !(s.plotOf t).otk.contains h then .done s 0
    else if (s.plotOf t).gss.any (fun g => g.handle == h) then .wait s .otk
    else .done (s.modPlot t.plot (fun p => { p with otk := p.otk.filter (· != h) })) 0)

end Sys2Proof.Machine
end

