-- ==== Sys2Proof/Machine/Paths.lean ====
section
/-! DEFINITION. Accesses made for no instruction of a thread: checks with the walks they need, who asks, and writes at a home
(00_scope.md R13, 07_memory.md R256, R286 and R426). -/

namespace Sys2Proof.Machine

/-- The checks of an access of `n` bytes with the walks it needs made in line, at most `fuel` of them. A `miss` answer means that a
PAGE event is with the runtime. -/
def State.checkNow (s : State) (w : Who) (q : Asker) (a : Acc) (va : DWord) (n : Nat) : Nat → State × Chk
  | 0 => (s, s.check w a va n)
  | fuel + 1 =>
    match s.check w a va n with
    | .miss m =>
      let r := s.walkOnce w q a m
      if r.2 then State.checkNow r.1 w q a va n fuel else (r.1, .miss m)
    | c => (s, c)

/-- Pages that an access of `n` bytes can touch, as a bound on its walks. -/
def pageFuel (n : Nat) : Nat := n / 65536 + 2

/-- The asker of an engine or memory node that acts for thread `u` of plot `p` (R426). -/
def State.askEngine (s : State) (p : Plot) (u kind : Nat) : Asker := ⟨(s.launches.get p.launch).id, (s.thr u).tid, kind, 0⟩

/-- On whose behalf a plot's engines and sequencer act (R261, R287). -/
def State.whoPlot (s : State) (p : Nat) : Who :=
  let q := s.plots.get p
  ⟨q.ctx, p, dieOf q.core, some q.core, isService q.core, if isService q.core then 2 else (s.ctxs.get q.ctx).priv⟩

/-- The next free byte sequence (DESIGN CHOICE, notes/assumptions/2.md): `n` bytes that nothing determines. -/
def freeBytes (k : Nat) : Nat → List Byte
  | 0 => []
  | n + 1 => (Config.freeWord k).setWidth 8 :: freeBytes (k + 1) n

/-- Write bytes at their home (R106, R256). Registers and other packages take a write by their own rules; the weight store is written by
its loader alone (R263). -/
def State.homeWrite (s : State) (plot : Nat) (l : Loc) (bs : List Byte) : State :=
  match l with
  | .dev pa key => s.devWrite pa key bs
  | .host a => { s with hostMem := Memory.write s.hostMem a bs }
  | .scr o => s.scrWrite plot o bs
  | .reg _ | .wgt _ _ | .rem _ _ => s

end Sys2Proof.Machine
end

