-- ==== Sys2Proof/Machine/Pavilion.lean ====
section
/-! DEFINITION. The rings of a Pavilion (11_package.md R401 to R405): ring registers, acquisition, lanes, and the spare ring. -/

namespace Sys2Proof.Machine

/-! ### Registers -/

/-- DRIVE of a ring (R401). -/
def Ring.drive (r : Ring) : Nat := (0x800 + r.driveGap).toNat

/-- HTR n (R401). -/
def Ring.htr (r : Ring) : Nat := r.drive + 4096 * b2n (!r.off)

/-- MON n (R401): 0 while EN is 0. -/
def Ring.mon (r : Ring) : Nat :=
  if r.off then 0
  else (r.err % 65536).toNat + 2 ^ 16 * b2n r.lock + 2 ^ 17 * b2n (r.drive == 0 && decide (0 < r.err))
    + 2 ^ 18 * b2n (r.drive == 4095 && decide (r.err < 0))

/-- The ring `i` of bank `b`. -/
def Pav.ring (p : Pav) (b i : Nat) : Ring := p.rings.get (16 * b + i)

/-- ACQ of a bank: an acquisition of one of its rings runs (R402). -/
def Pav.acqBank (p : Pav) (b : Nat) : Bool := (List.range 16).any (fun i => (p.ring b i).acq)

/-- BANK b (R401). -/
def RBank.reg (q : RBank) : Nat := q.sub + 16 * b2n q.suben

/-- BSTAT b (R401). -/
def Pav.bstat (p : Pav) (b : Nat) : Nat :=
  let q := p.banks.get b
  (List.range 16).foldl (fun v i => v + 2 ^ i * b2n ((p.ring b i).lock && !(p.ring b i).off)) 0
    + 2 ^ 16 * b2n (p.acqBank b) + 2 ^ 17 * b2n q.sbf + 2 ^ 18 * q.down.length

/-- The ring register with number 0x1000 + `m` of Pavilion `k` at a device time (R401); none for a number that names no register. -/
def Pav.read (p : Pav) (k time m : Nat) : Option Nat :=
  if m < 0x400 then some (p.rings.get m).htr
  else if m < 0x800 then some (p.rings.get (m - 0x400)).mon
  else if m < 0x840 then some (p.banks.get (m - 0x800)).reg
  else if m < 0x880 then some (p.bstat (m - 0x840))
  else if m = 0x880 then some (Config.pavTemp k time).toNat
  else none

/-- Whether a ring register is writable (R401). -/
def ringWritable (m : Nat) : Bool := decide (m < 0x400) || (decide (0x800 ≤ m) && decide (m < 0x840))

/-! ### Lanes -/

/-- Change ring `n`. -/
def Pav.modRing (p : Pav) (n : Nat) (f : Ring → Ring) : Pav := { p with rings := p.rings.modify n f }

/-- Change bank `b`. -/
def Pav.modBank (p : Pav) (b : Nat) (f : RBank → RBank) : Pav := { p with banks := p.banks.modify b f }

/-- The ring that carries data lane `i` of bank `b` (R405). -/
def Pav.carrier (p : Pav) (b i : Nat) : Ring :=
  let q := p.banks.get b
  if q.moved && q.sub == i then p.ring b 15 else p.ring b i

/-- Insert a lane into an ascending list. -/
def addLane (i : Nat) (l : List Nat) : List Nat := (l.filter (· < i)) ++ i :: l.filter (fun j => decide (i < j))

/-- Retire lane `i` of bank `b` (R403). -/
def Pav.retire (p : Pav) (b i : Nat) : Pav := p.modBank b (fun q => { q with down := addLane i q.down })

/-- A ring has gone out of service (R403, R404): the lane it carries is retired at once; ring 15 folds the sideband. -/
def Pav.outOfService (p : Pav) (n : Nat) : Pav :=
  let b := n / 16
  let i := n % 16
  let q := p.banks.get b
  if i = 15 then
    let p := p.modBank b (fun q => { q with sbf := true })
    if q.moved then p.retire b q.sub else p
  else if q.moved && q.sub == i then p
  else p.retire b i

/-! ### Writes -/

/-- Ring `n` starts an acquisition (R402). Its lock is lost while it runs. -/
def Pav.acquire (p : Pav) (n now : Nat) : Pav :=
  let p := p.modRing n (fun r => { r with off := false, acq := true, since := if r.lock then now else r.since, lock := false })
  if n % 16 = 15 then p.modBank (n / 16) (fun q => { q with sbf := true }) else p

/-- A write to HTR n (R401 to R403). -/
def Pav.htrWrite (p : Pav) (n v now : Nat) : Pav :=
  let r := p.rings.get n
  let drive : Int := (v % 4096 : Nat) - (0x800 : Int)
  if bit v 12 then
    if r.acq then p
    else if r.off then (p.modRing n (fun r => { r with driveGap := drive })).acquire n now
    else p.modRing n (fun r => { r with driveGap := drive })
  else
    let p1 := p.modRing n (fun r =>
      { r with driveGap := if r.acq then r.driveGap else drive, off := true, err := 0, lock := false, acq := false,
               since := if r.lock then now else r.since })
    if r.off then p1 else p1.outOfService n

/-- A lane that the spare ring carried goes back to its own ring, or is retired (R405). -/
def Pav.unmove (p : Pav) (b : Nat) : Pav :=
  let q := p.banks.get b
  if q.moved then
    let p1 := p.modBank b (fun q => { q with moved := false })
    if !(p.ring b q.sub).off && (p.ring b q.sub).lock then p1 else p1.retire b q.sub
  else p

/-- A write to BANK b (R405). -/
def Pav.bankWrite (p : Pav) (b v now : Nat) : Pav :=
  let s := v % 16
  if p.acqBank b then p
  else if bit v 4 then
    if s = 15 then p
    else
      let p1 := if (p.banks.get b).sub = s then p else p.unmove b
      (p1.modBank b (fun q => { q with sub := s, suben := true, tuning := some s })).acquire (16 * b + 15) now
  else if (p.banks.get b).suben then
    ((p.unmove b).modBank b (fun q => { q with sub := s, suben := false, tuning := some 15 })).acquire (16 * b + 15) now
  else p.modBank b (fun q => { q with sub := s })

/-- A write to ring register 0x1000 + `m` (R400, R401); a register that is read only ignores it. -/
def Pav.write (p : Pav) (m v now : Nat) : Pav :=
  if m < 0x400 then p.htrWrite m v now
  else if 0x800 ≤ m ∧ m < 0x840 then p.bankWrite (m - 0x800) v now
  else p

/-! ### What the rings do -/

/-- ERR of a ring that has just locked: within the lock window, and otherwise open (R402). -/
def lockedErr (k n now : Nat) : Int := ((Config.ringErr k n now % 17 : Nat) : Int) - 8

/-- Ring `n` locks at the end of its acquisition (R402, R404, R405). -/
def Pav.locks (p : Pav) (k n drive now : Nat) : Pav :=
  let b := n / 16
  let p1 := p.modRing n (fun r =>
    { r with driveGap := (drive % 4096 : Nat) - (0x800 : Int), acq := false, lock := true, err := lockedErr k n now, since := now })
  if n % 16 = 15 then
    p1.modBank b (fun q => match q.tuning with
      | some s => if s = 15 then { q with tuning := none, sbf := false } else { q with tuning := none, moved := true, sbf := true }
      | none => { q with sbf := q.moved })
  else p1

/-- Ring `n` cannot be locked (R402). -/
def Pav.failsLock (p : Pav) (n : Nat) : Pav :=
  ((p.modRing n (fun r => { r with off := true, driveGap := -0x800, err := 0, lock := false, acq := false })).modBank (n / 16)
    (fun q => if n % 16 = 15 then { q with tuning := none } else q)).outOfService n

/-- Change Pavilion `k`. -/
def State.modPav (s : State) (k : Nat) (f : Pav → Pav) : State := { s with pavs := s.pavs.modify k f }

/-- Meaning of HTR_WRITE (R401). -/
def execHtrWrite (k n : Nat) (v : Word) (s : State) : Host.Outcome State Fault Refusal :=
  .next (if k < 4 ∧ n < 1024 then s.modPav k (fun p => p.htrWrite n v.toNat s.time) else s)

/-- Meaning of RING_ACQUISITION_DONE (R402, R405). -/
def execRingAcquisitionDone (k n : Nat) (locked : Bool) (drive : Nat) (s : State) : Host.Outcome State Fault Refusal :=
  .next (if ((s.pavs.get k).rings.get n).acq then
    s.modPav k (fun p => if locked then p.locks k n drive s.time else p.failsLock n) else s)

/-- Meaning of BANK_SUB_SET (R405). -/
def execBankSubSet (k b v : Nat) (s : State) : Host.Outcome State Fault Refusal :=
  .next (if k < 4 ∧ b < 64 then s.modPav k (fun p => p.bankWrite b (16 + v % 16) s.time) else s)

/-- Meaning of BANK_SUB_CLEAR (R405). -/
def execBankSubClear (k b : Nat) (s : State) : Host.Outcome State Fault Refusal :=
  .next (if k < 4 ∧ b < 64 then s.modPav k (fun p => p.bankWrite b 0 s.time) else s)

/-- Meaning of LANE_RETIRE (R403). -/
def execLaneRetire (k b i : Nat) (s : State) : Host.Outcome State Fault Refusal :=
  let p := s.pavs.get k
  let r := p.carrier b i
  .next (if i < 15 ∧ !(p.banks.get b).down.contains i ∧ !r.lock ∧ (r.off ∨ r.since + 10000 ≤ s.time) then
    s.modPav k (fun p => p.retire b i) else s)

/-- Meaning of LANE_RETURN (R403). -/
def execLaneReturn (k b i : Nat) (s : State) : Host.Outcome State Fault Refusal :=
  let p := s.pavs.get k
  let r := p.carrier b i
  .next (if (p.banks.get b).down.contains i ∧ r.lock ∧ r.since + 10000 ≤ s.time then
    s.modPav k (fun p => p.modBank b (fun q => { q with down := q.down.filter (· != i) })) else s)

/-- Meaning of RING_LOCK_LOST (R403, R404). -/
def execRingLockLost (k n : Nat) (err : Word) (s : State) : Host.Outcome State Fault Refusal :=
  let r := (s.pavs.get k).rings.get n
  let e := sgn 16 err.toNat
  .next (if r.lock ∧ !r.acq ∧ !r.off ∧ (e < -8 ∨ 8 < e) then
    s.modPav k (fun p =>
      let p1 := p.modRing n (fun r => { r with err := e, lock := false, since := s.time })
      if n % 16 = 15 then p1.modBank (n / 16) (fun q => { q with sbf := true }) else p1) else s)

/-- Meaning of RING_LOCK_REGAINED (R403, R404). -/
def execRingLockRegained (k n : Nat) (err : Word) (s : State) : Host.Outcome State Fault Refusal :=
  let r := (s.pavs.get k).rings.get n
  let e := sgn 16 err.toNat
  .next (if !r.lock ∧ !r.acq ∧ !r.off ∧ -8 ≤ e ∧ e ≤ 8 then
    s.modPav k (fun p =>
      let p1 := p.modRing n (fun r => { r with err := e, lock := true, since := s.time })
      if n % 16 = 15 then p1.modBank (n / 16) (fun q => { q with sbf := q.moved }) else p1) else s)

/-- Meaning of PAVILION_START (R402): every ring starts an acquisition from its reset values. -/
def execPavilionStart (k : Nat) (s : State) : Host.Outcome State Fault Refusal :=
  .next (if k < 4 ∧ !(s.pavs.get k).started then
    s.modPav k (fun p => { p with
      started := true
      rings := (List.range 1024).map (fun n => (n, { (default : Ring) with acq := true, since := s.time }))
      banks := [] }) else s)

end Sys2Proof.Machine
end

