-- ==== Sys2Proof/Machine/RegRead.lean ====
section
/-! DEFINITION. What the pages of device register space read as (07_memory.md R264, R288, R289, 08_trellis.md R347, 11_package.md
R398 to R400, R413). A word that the spec gives to no register, and a write-only register, reads 0 (R399). -/

namespace Sys2Proof.Machine

/-- OCC of a core (R347): whether its grid is empty, of captured pelotons' tokens too, and its busy colours. -/
def Grid.occ (g : Grid) : Nat :=
  b2n (g.toks.isEmpty && g.arb.isEmpty && !g.colours.any (fun e => e.2.pel != 0)) + (List.range 16).foldl (fun v i => v + 2 ^ (i + 1) * b2n (g.colours.get i).taken) 0

/-- A histogram counter of the slot that HSEL names (R322, R347). -/
def Grid.histSel (g : Grid) (b : Nat) : Nat := (g.hist.get (bits g.kick.hsel 0 6 * 128 + bits g.kick.hsel 6 4 * 8 + b)) % 65536

/-- A Trellis debug register of a core by its offset in the core's block (R347). -/
def Grid.kreg (g : Grid) (o : Nat) : Nat :=
  let k := g.kick
  if o = 0x00 then b2n k.stop + 4 * b2n k.trace
  else if o = 0x08 then k.kdump
  else if o = 0x10 then k.kdcnt
  else if 0x18 ≤ o ∧ o ≤ 0x30 then (k.brk.get ((o - 0x18) / 8)).toNat
  else if o = 0x38 then k.trbase
  else if o = 0x40 then k.trsize
  else if o = 0x48 then k.trhead
  else if o = 0x50 then k.hrbase
  else if o = 0x58 then k.hrsize
  else if o = 0x60 then k.hrhead
  else if o = 0x68 then k.hsel
  else if o = 0x70 then (List.range 4).foldl (fun v b => v + 2 ^ (16 * b) * g.histSel b) 0
  else if o = 0x78 then (List.range 4).foldl (fun v b => v + 2 ^ (16 * b) * g.histSel (b + 4)) 0
  else if o = 0x80 then g.occ
  else 0

/-- The doubleword at offset `o` of the status page of compute die `d` (R264, R347, R420, R421). -/
def State.statusDword (s : State) (d o : Nat) : Nat :=
  let q := s.dies.get d
  if o = 0 then q.mcycles / 1000 % 65536 + 65536 * (q.mcycles / 1000 / 65536)
  else if 0x1000 ≤ o ∧ o < 0x1000 + 0x100 * 160 then
    match q.stage with
    | .gated => 2 ^ 64 - 1
    | _ => (s.grids.get (160 * d + (o - 0x1000) / 256)).kreg (o % 256)
  else if o = 0xC000 then q.drst.toNat
  else 0

/-- The doubleword at offset `o` of the translation control page of die `d` (R288, R289). -/
def State.transDword (s : State) (d o : Nat) : Nat :=
  if o = 0x08 then (s.dies.get d).invDone else if o = 0x20 then (s.dies.get d).ctxDone else 0

/-- The doubleword at offset `o` of the Commons status page (R413). -/
def State.commonsDword (s : State) (o : Nat) : Nat :=
  if o = 0xC010 then s.energy.windows else if o = 0xC020 then s.energy.used else 0

/-- LSTAT of a Pavilion (R398). -/
def Pav.lstat (p : Pav) : Nat :=
  b2n p.busy + 2 * b2n p.drop + 4 * b2n p.reject + 256 * (p.reason % 256) + 2 ^ 32 * p.lastId

/-- The doubleword at offset `o` of the status page of Pavilion `k` (R398). -/
def State.pavDword (s : State) (k o : Nat) : Nat :=
  let p := s.pavs.get k
  if 0x8000 ≤ o ∧ o < 0x8080 then leNat (Memory.read p.lrec (o - 0x8000) 8)
  else if o = 0x8088 then p.lstat
  else if o = 0x8098 then p.lctx
  else 0

/-- The doubleword of device register space at `pa`, aligned to 8 (R399, R400). -/
def State.regDword (s : State) (pa : Nat) : Nat :=
  let u := regPage pa
  let o := pa % 65536
  if u < 8 then s.statusDword u o
  else if u < 16 then s.transDword (u - 8) o
  else if u = 16 then s.commonsDword o
  else if 24 ≤ u ∧ u < 28 then s.pavDword (u - 24) o
  else if 28 ≤ u ∧ u < 32 then
    let p := s.pavs.get (u - 28)
    (p.read (u - 28) s.time (o / 4)).getD 0 + 2 ^ 32 * (p.read (u - 28) s.time (o / 4 + 1)).getD 0
  else 0

/-- The `n` bytes of device register space from `pa` on. -/
def State.regRead (s : State) (pa : Nat) : Nat → List Byte
  | 0 => []
  | n + 1 => BitVec.ofNat 8 (s.regDword (pa / 8 * 8) / 256 ^ (pa % 8)) :: State.regRead s (pa + 1) n

end Sys2Proof.Machine
end

