-- ==== Sys2Proof/Machine/Asks.lean ====
section
/-! DEFINITION. Requests to other packages (07_memory.md R271, 11_package.md R407 to R410), and the bytes that an engine, a sequencer, a
Trellis node or a packet reads at their homes. -/

namespace Sys2Proof.Machine

/-! ### Links, tags and packets -/

/-- The link that a package is reached by (R408). -/
def State.linkTo (s : State) (pkg : Nat) : Option Nat := if s.routes.get pkg = 0 then none else some (s.routes.get pkg - 1)

/-- Whether a tag names a request or an open circuit of this package. -/
def State.hasTag (s : State) (t : Nat) : Bool := s.remReqs.any (fun r => r.tag == t) || s.fabCircs.any (fun f => f.outward && f.tag == t)

/-- The lowest request tag that is free. -/
def State.freeTag (s : State) : Option Nat := (List.range 4096).find? (fun t => !s.hasTag t)

/-- Log2 of the smallest power of two that holds `n` bytes. -/
def sizeLog (n : Nat) : Nat := if n ≤ 1 then 0 else if n ≤ 2 then 1 else if n ≤ 4 then 2 else if n ≤ 8 then 3 else 4

/-- Flits of a packet with `n` payload bytes, less one (R407). -/
def flitsLess1 (n : Nat) : Nat := (16 + n - 1) / 64

/-- A packet from this package (R407). -/
def packetTo (typ pkg x tag off size aop : Nat) (data : List Byte) : Packet :=
  ⟨typ, 0, flitsLess1 data.length, Config.packageId.toNat, pkg, x, tag, off, size, aop, false, 0, data⟩

/-- The fault code of a refusal (R410). -/
def refusalCode (reason : Nat) : Nat := if reason = 4 then codeFenced else codeAddr

/-- Send the request `q tag` to package `pkg` on account of `c`: the reason of a refusal where no link leads there or it is down, none with
the state unchanged while it must wait (R408 to R410). -/
def State.sendReq (s : State) (pkg : Nat) (kind : RemKind) (c : Cause) (q : Nat → Packet) : State × Option Nat :=
  match s.linkTo pkg with
  | none => (s, some 1)
  | some l =>
    if (s.links.get l).down then (s, some 5)
    else if (s.links.get l).retraining then (s, none)
    else match s.freeTag with
      | none => (s, none)
      | some t => ({ s with outbox := s.outbox ++ [q t], remReqs := s.remReqs ++ [⟨t, pkg, c.thread, kind, s.time, false, c⟩] }, none)

/-- Whether a request of the kind given is on its way. -/
def State.asking (s : State) (kind : RemKind) : Bool := s.remReqs.any (fun r => r.kind == kind && !r.late)

/-! ### Bytes of other packages -/

/-- What another package has answered to access `k` about the bytes that `off` names. -/
def State.gotAns (s : State) (k : AccId) (off : Nat) : Option RemAns := s.remGot.find? (fun r => r.key == k && r.off == off)

/-- The answers to access `k` have been used, or are no longer wanted. -/
def State.forgetAns (s : State) (k : AccId) : State := { s with remGot := s.remGot.filter (fun r => r.key != k) }

/-- Ask the package of one part of access `k`, unless it has been asked; a package that no link leads to refuses at once. -/
def State.askPart (s : State) (x : Nat) (c : Cause) (k : AccId) (p : Part) : State :=
  match p.loc with
  | .rem pkg o =>
    let off := pkg * 2 ^ 44 + o
    let kind : RemKind := .fetch k off p.len
    if (s.gotAns k off).isSome || s.asking kind then s
    else match s.sendReq pkg kind c (fun tag => packetTo 0 pkg x tag o (sizeLog p.len) 0 []) with
      | (s1, some reason) => { s1 with remGot := s1.remGot ++ [⟨k, off, reason, []⟩] }
      | (s1, none) => s1
  | _ => s

/-- What reading the bytes of an access comes to: some have not come, they are refused with a reason of R410 at an address, or here they are. -/
inductive Bytes where
  | wait
  | bad (reason : Nat) (va : DWord)
  | ok (bs : List Byte)
  deriving DecidableEq, Repr

/-- The answer to one part of access `k` that lies in another package. -/
def State.partAns (s : State) (k : AccId) (p : Part) : Option (Option RemAns) :=
  match p.loc with
  | .rem pkg o => some (s.gotAns k (pkg * 2 ^ 44 + o))
  | _ => none

/-- The bytes of one part of access `k` at this instant. -/
def State.partBytes (s : State) (plot : Nat) (k : AccId) (p : Part) : List Byte :=
  match p.loc with
  | .reg pa => s.regRead pa p.len
  | .rem pkg o => match s.gotAns k (pkg * 2 ^ 44 + o) with
    | some r => r.data
    | none => []
  | l => s.homeBytes plot l p.len

/-- Read the parts of access `k`, made for context `x` and plot `plot` on account of `c` (R256, R271, R410): another package's bytes are
asked for and waited for, and when they are there the others are read. -/
def State.fetchParts (s : State) (x plot : Nat) (c : Cause) (k : AccId) (ps : List Part) : State × Bytes :=
  let s1 := ps.foldl (fun s p => s.askPart x c k p) s
  let as := ps.filterMap (s1.partAns k)
  if as.any (·.isNone) then (s1, .wait)
  else match (as.filterMap id).find? (fun r => r.reason != 0) with
    | some r => (s1, .bad r.reason (BitVec.ofNat 64 (3 * 2 ^ 60 + r.off)))
    | none => (s1, .ok (ps.flatMap (s1.partBytes plot k)))

/-- The bytes of an access of which no part lies in another package. -/
def State.readParts (s : State) (plot : Nat) (ps : List Part) : List Byte := ps.flatMap (s.partBytes plot (.host 0))

end Sys2Proof.Machine
end

