-- ==== Sys2Proof/Machine/Integer.lean ====
section
/-! DEFINITION. The integer instructions, majors 0x00 to 0x0F (02_integer_control.md R61 to R70). Each has a function on the
thread, `op…`, which gives the thread after it and its latch value, and its meaning, `exec…`, which runs that function in the
frame of every thread instruction. -/

namespace Sys2Proof.Machine

/-! ### Results on words -/

/-- `shl` (R63): the amount is the whole of b, unsigned. -/
def shlW (a b : Word) : Word := if b.toNat < 32 then a <<< b.toNat else 0

/-- `shr` (R63). -/
def shrW (a b : Word) : Word := if b.toNat < 32 then a >>> b.toNat else 0

/-- `sra` (R63). -/
def sraW (a b : Word) : Word := if b.toNat < 32 then a.sshiftRight b.toNat else a.sshiftRight 31

/-- `rol` (R63): by b[4:0]. -/
def rolW (a b : Word) : Word := a.rotateLeft (b.toNat % 32)

/-- `ror` (R63): by b[4:0]. -/
def rorW (a b : Word) : Word := a.rotateRight (b.toNat % 32)

/-- Leading zeros of the low `n` bits, counted from bit n - 1. -/
def clzFrom (a : Word) : Nat → Nat
  | 0 => 0
  | n + 1 => if a.getLsbD n then 0 else 1 + clzFrom a n

/-- `clz` (R63): 32 for a = 0. -/
def clzW (a : Word) : Word := BitVec.ofNat 32 (clzFrom a 32)

/-- One bits among the low `n` bits. -/
def onesBelow (a : Word) : Nat → Nat
  | 0 => 0
  | n + 1 => b2n (a.getLsbD n) + onesBelow a n

/-- `popc` (R63). -/
def popcW (a : Word) : Word := BitVec.ofNat 32 (onesBelow a 32)

/-- `brev` (R63): bit i of the result is bit 31 - i of a. -/
def brevW (a : Word) : Word := a.reverse

/-- `div_s` (R64): toward zero, with its two fixed edge cases. -/
def divSW (a b : Word) : Word := if b = 0 then 0xFFFFFFFF else a.sdiv b

/-- `rem_s` (R64): a − b × div_s(a, b), and a for b = 0. -/
def remSW (a b : Word) : Word := if b = 0 then a else a - b * divSW a b

/-- Position and length of the field a descriptor names, cut at bit 31 (R66). -/
def fieldPos (b : Word) : Nat := bits b.toNat 0 5
def fieldLen (b : Word) : Nat := min (bits b.toNat 8 5 + 1) (32 - fieldPos b)

/-- The mask of the low `n` bits. -/
def lowMask (n : Nat) : Word := BitVec.ofNat 32 (2 ^ n - 1)

/-- `bfx.u` (R66). -/
def bfxUW (a b : Word) : Word := (a >>> fieldPos b) &&& lowMask (fieldLen b)

/-- `bfx.s` (R66). -/
def bfxSW (a b : Word) : Word := (a <<< (32 - fieldPos b - fieldLen b)).sshiftRight (32 - fieldLen b)

/-- `bfi` (R66): the low bits of a in the field of `old`. -/
def bfiW (old a b : Word) : Word :=
  let m := lowMask (fieldLen b) <<< fieldPos b
  (old &&& ~~~m) ||| ((a <<< fieldPos b) &&& m)

/-- `shl.d` (R65). -/
def shlD64 (a : DWord) (n : Word) : DWord := if n.toNat < 64 then a <<< n.toNat else 0

/-- `shr.d` (R65). -/
def shrD64 (a : DWord) (n : Word) : DWord := if n.toNat < 64 then a >>> n.toNat else 0

/-- `sra.d` (R65). -/
def sraD64 (a : DWord) (n : Word) : DWord := if n.toNat < 64 then a.sshiftRight n.toNat else a.sshiftRight 63

/-! ### Forms -/

/-- A 32-bit result written to D, with its latch value (R36, R61). -/
def res32 (t : Thread) (nw : Bool) (d : BitVec 6) (v : Word) : Thread × DWord := (t.wr32 nw d v, v.setWidth 64)

/-- A 64-bit result written to the pair D (R36, R61). -/
def res64 (t : Thread) (nw : Bool) (d : BitVec 6) (v : DWord) : Thread × DWord := (t.wr64 nw d v, v)

/-- A predicate result (R36, R61). -/
def resP (t : Thread) (nw : Bool) (p : BitVec 3) (v : Bool) : Thread × DWord := (t.wrp nw p v, BitVec.ofNat 64 (b2n v))

/-- D := g(A, B). -/
def opBin (g : Word → Word → Word) (f : FA) (t : Thread) : Thread × DWord :=
  res32 t f.nw f.d (g (t.src32 f.lit f.a) (t.src32 f.lit f.b))

/-- D := g(A). -/
def opUn (g : Word → Word) (f : FU) (t : Thread) : Thread × DWord := res32 t f.nw f.d (g (t.src32 f.lit f.a))

/-- D := g(old D, A, B). -/
def opAcc (g : Word → Word → Word → Word) (f : FA) (t : Thread) : Thread × DWord :=
  res32 t f.nw f.d (g (t.old32 f.d) (t.src32 f.lit f.a) (t.src32 f.lit f.b))

/-- p := g(A, B). -/
def opCmp (g : Word → Word → Bool) (f : FP) (t : Thread) : Thread × DWord :=
  resP t f.nw f.p (g (t.src32 f.lit f.a) (t.src32 f.lit f.b))

/-- D := g(A, sext(IMM10, 10)) (R67). -/
def opImm (g : Word → Word → Word) (f : FI) (t : Thread) : Thread × DWord :=
  res32 t false f.d (g (t.src32 f.lit f.a) (f.i.signExtend 32))

/-- D := g(A, n) for a shift amount n (R67). -/
def opShi (g : Word → Word → Word) (f : FSh) (t : Thread) : Thread × DWord :=
  res32 t false f.d (g (t.src32 f.lit f.a) (f.n.setWidth 32))

/-- p := g(A, sext(IMM10, 10)) (R67). -/
def opCmpi (g : Word → Word → Bool) (f : FCi) (t : Thread) : Thread × DWord :=
  resP t false f.p (g (t.src32 f.lit f.a) (f.i.signExtend 32))

/-- `lea.n` (R66): pair A plus the sign-extended B shifted left by `s`. -/
def opLea (s : Nat) (f : FA) (t : Thread) : Thread × DWord :=
  res64 t f.nw f.d (t.src64 f.lit f.a + ((t.src32 f.lit f.b).signExtend 64 <<< s))

/-- A 64-bit shift (R65). -/
def opSh64 (g : DWord → Word → DWord) (f : FA) (t : Thread) : Thread × DWord :=
  res64 t f.nw f.d (g (t.src64 f.lit f.a) (t.src32 f.lit f.b))

/-! ### Instructions -/

/-- `add`: (a + b)[31:0] (R63). -/
def opAdd : FA → Thread → Thread × DWord := opBin (fun a b => a + b)
/-- Meaning of `add` (R63). -/
def execAdd (f : FA) : State → Host.Outcome State Fault Refusal := issueAlu (shA f 1 1 1) (opAdd f)

/-- `sub`: (a - b)[31:0] (R63). -/
def opSub : FA → Thread → Thread × DWord := opBin (fun a b => a - b)
/-- Meaning of `sub` (R63). -/
def execSub (f : FA) : State → Host.Outcome State Fault Refusal := issueAlu (shA f 1 1 1) (opSub f)

/-- `and`: a and b (R63). -/
def opAnd : FA → Thread → Thread × DWord := opBin (fun a b => a &&& b)
/-- Meaning of `and` (R63). -/
def execAnd (f : FA) : State → Host.Outcome State Fault Refusal := issueAlu (shA f 1 1 1) (opAnd f)

/-- `or`: a or b (R63). -/
def opOr : FA → Thread → Thread × DWord := opBin (fun a b => a ||| b)
/-- Meaning of `or` (R63). -/
def execOr (f : FA) : State → Host.Outcome State Fault Refusal := issueAlu (shA f 1 1 1) (opOr f)

/-- `xor`: a xor b (R63). -/
def opXor : FA → Thread → Thread × DWord := opBin (fun a b => a ^^^ b)
/-- Meaning of `xor` (R63). -/
def execXor (f : FA) : State → Host.Outcome State Fault Refusal := issueAlu (shA f 1 1 1) (opXor f)

/-- `andn`: a and not b (R63). -/
def opAndn : FA → Thread → Thread × DWord := opBin (fun a b => a &&& ~~~b)
/-- Meaning of `andn` (R63). -/
def execAndn (f : FA) : State → Host.Outcome State Fault Refusal := issueAlu (shA f 1 1 1) (opAndn f)

/-- `orn`: a or not b (R63). -/
def opOrn : FA → Thread → Thread × DWord := opBin (fun a b => a ||| ~~~b)
/-- Meaning of `orn` (R63). -/
def execOrn (f : FA) : State → Host.Outcome State Fault Refusal := issueAlu (shA f 1 1 1) (opOrn f)

/-- `xnor`: not (a xor b) (R63). -/
def opXnor : FA → Thread → Thread × DWord := opBin (fun a b => ~~~(a ^^^ b))
/-- Meaning of `xnor` (R63). -/
def execXnor (f : FA) : State → Host.Outcome State Fault Refusal := issueAlu (shA f 1 1 1) (opXnor f)

/-- `shl`: a shifted left by the whole unsigned b (R63). -/
def opShl : FA → Thread → Thread × DWord := opBin (fun a b => shlW a b)
/-- Meaning of `shl` (R63). -/
def execShl (f : FA) : State → Host.Outcome State Fault Refusal := issueAlu (shA f 1 1 1) (opShl f)

/-- `shr`: a shifted right, zero-filled (R63). -/
def opShr : FA → Thread → Thread × DWord := opBin (fun a b => shrW a b)
/-- Meaning of `shr` (R63). -/
def execShr (f : FA) : State → Host.Outcome State Fault Refusal := issueAlu (shA f 1 1 1) (opShr f)

/-- `sra`: a shifted right, filled with a[31] (R63). -/
def opSra : FA → Thread → Thread × DWord := opBin (fun a b => sraW a b)
/-- Meaning of `sra` (R63). -/
def execSra (f : FA) : State → Host.Outcome State Fault Refusal := issueAlu (shA f 1 1 1) (opSra f)

/-- `rol`: a rotated left by b[4:0] (R63). -/
def opRol : FA → Thread → Thread × DWord := opBin (fun a b => rolW a b)
/-- Meaning of `rol` (R63). -/
def execRol (f : FA) : State → Host.Outcome State Fault Refusal := issueAlu (shA f 1 1 1) (opRol f)

/-- `ror`: a rotated right by b[4:0] (R63). -/
def opRor : FA → Thread → Thread × DWord := opBin (fun a b => rorW a b)
/-- Meaning of `ror` (R63). -/
def execRor (f : FA) : State → Host.Outcome State Fault Refusal := issueAlu (shA f 1 1 1) (opRor f)

/-- `minS`: signed minimum (R63). -/
def opMinS : FA → Thread → Thread × DWord := opBin (fun a b => if a.slt b then a else b)
/-- Meaning of `minS` (R63). -/
def execMinS (f : FA) : State → Host.Outcome State Fault Refusal := issueAlu (shA f 1 1 1) (opMinS f)

/-- `maxS`: signed maximum (R63). -/
def opMaxS : FA → Thread → Thread × DWord := opBin (fun a b => if a.slt b then b else a)
/-- Meaning of `maxS` (R63). -/
def execMaxS (f : FA) : State → Host.Outcome State Fault Refusal := issueAlu (shA f 1 1 1) (opMaxS f)

/-- `minU`: unsigned minimum (R63). -/
def opMinU : FA → Thread → Thread × DWord := opBin (fun a b => if a.ult b then a else b)
/-- Meaning of `minU` (R63). -/
def execMinU (f : FA) : State → Host.Outcome State Fault Refusal := issueAlu (shA f 1 1 1) (opMinU f)

/-- `maxU`: unsigned maximum (R63). -/
def opMaxU : FA → Thread → Thread × DWord := opBin (fun a b => if a.ult b then b else a)
/-- Meaning of `maxU` (R63). -/
def execMaxU (f : FA) : State → Host.Outcome State Fault Refusal := issueAlu (shA f 1 1 1) (opMaxU f)

/-- `mul`: (a * b)[31:0] (R64). -/
def opMul : FA → Thread → Thread × DWord := opBin (fun a b => a * b)
/-- Meaning of `mul` (R64). -/
def execMul (f : FA) : State → Host.Outcome State Fault Refusal := issueAlu (shA f 1 1 1) (opMul f)

/-- `mulhiS`: bits [63:32] of the signed product (R64). -/
def opMulhiS : FA → Thread → Thread × DWord := opBin (fun a b => ((a.signExtend 64 * b.signExtend 64) >>> 32).setWidth 32)
/-- Meaning of `mulhiS` (R64). -/
def execMulhiS (f : FA) : State → Host.Outcome State Fault Refusal := issueAlu (shA f 1 1 1) (opMulhiS f)

/-- `mulhiU`: bits [63:32] of the unsigned product (R64). -/
def opMulhiU : FA → Thread → Thread × DWord := opBin (fun a b => ((a.setWidth 64 * b.setWidth 64) >>> 32).setWidth 32)
/-- Meaning of `mulhiU` (R64). -/
def execMulhiU (f : FA) : State → Host.Outcome State Fault Refusal := issueAlu (shA f 1 1 1) (opMulhiU f)

/-- `divS`: div_s(a, b) (R64). -/
def opDivS : FA → Thread → Thread × DWord := opBin (fun a b => divSW a b)
/-- Meaning of `divS` (R64). -/
def execDivS (f : FA) : State → Host.Outcome State Fault Refusal := issueAlu (shA f 1 1 1) (opDivS f)

/-- `divU`: unsigned quotient, all ones for b = 0 (R64). -/
def opDivU : FA → Thread → Thread × DWord := opBin (fun a b => if b = 0 then 0xFFFFFFFF else a / b)
/-- Meaning of `divU` (R64). -/
def execDivU (f : FA) : State → Host.Outcome State Fault Refusal := issueAlu (shA f 1 1 1) (opDivU f)

/-- `remS`: rem_s(a, b) (R64). -/
def opRemS : FA → Thread → Thread × DWord := opBin (fun a b => remSW a b)
/-- Meaning of `remS` (R64). -/
def execRemS (f : FA) : State → Host.Outcome State Fault Refusal := issueAlu (shA f 1 1 1) (opRemS f)

/-- `remU`: unsigned remainder, a for b = 0 (R64). -/
def opRemU : FA → Thread → Thread × DWord := opBin (fun a b => if b = 0 then a else a % b)
/-- Meaning of `remU` (R64). -/
def execRemU (f : FA) : State → Host.Outcome State Fault Refusal := issueAlu (shA f 1 1 1) (opRemU f)

/-- `bfxU`: the field of a that b describes, zero-extended (R66). -/
def opBfxU : FA → Thread → Thread × DWord := opBin (fun a b => bfxUW a b)
/-- Meaning of `bfxU` (R66). -/
def execBfxU (f : FA) : State → Host.Outcome State Fault Refusal := issueAlu (shA f 1 1 1) (opBfxU f)

/-- `bfxS`: the field of a that b describes, sign-extended (R66). -/
def opBfxS : FA → Thread → Thread × DWord := opBin (fun a b => bfxSW a b)
/-- Meaning of `bfxS` (R66). -/
def execBfxS (f : FA) : State → Host.Outcome State Fault Refusal := issueAlu (shA f 1 1 1) (opBfxS f)

/-- `clz`: number of leading zero bits (R63). -/
def opClz : FU → Thread → Thread × DWord := opUn (fun a => clzW a)
/-- Meaning of `clz` (R63). -/
def execClz (f : FU) : State → Host.Outcome State Fault Refusal := issueAlu (shU f 1 1) (opClz f)

/-- `popc`: number of one bits (R63). -/
def opPopc : FU → Thread → Thread × DWord := opUn (fun a => popcW a)
/-- Meaning of `popc` (R63). -/
def execPopc (f : FU) : State → Host.Outcome State Fault Refusal := issueAlu (shU f 1 1) (opPopc f)

/-- `brev`: bits in reverse order (R63). -/
def opBrev : FU → Thread → Thread × DWord := opUn (fun a => brevW a)
/-- Meaning of `brev` (R63). -/
def execBrev (f : FU) : State → Host.Outcome State Fault Refusal := issueAlu (shU f 1 1) (opBrev f)

/-- `abs`: absolute value modulo 2^32 (R63). -/
def opAbs : FU → Thread → Thread × DWord := opUn (fun a => if a.getLsbD 31 then 0 - a else a)
/-- Meaning of `abs` (R63). -/
def execAbs (f : FU) : State → Host.Outcome State Fault Refusal := issueAlu (shU f 1 1) (opAbs f)

/-- `neg`: (0 - a)[31:0] (R63). -/
def opNeg : FU → Thread → Thread × DWord := opUn (fun a => 0 - a)
/-- Meaning of `neg` (R63). -/
def execNeg (f : FU) : State → Host.Outcome State Fault Refusal := issueAlu (shU f 1 1) (opNeg f)

/-- `sextB`: sext(a[7:0], 8) (R63). -/
def opSextB : FU → Thread → Thread × DWord := opUn (fun a => (a.setWidth 8).signExtend 32)
/-- Meaning of `sextB` (R63). -/
def execSextB (f : FU) : State → Host.Outcome State Fault Refusal := issueAlu (shU f 1 1) (opSextB f)

/-- `sextH`: sext(a[15:0], 16) (R63). -/
def opSextH : FU → Thread → Thread × DWord := opUn (fun a => (a.setWidth 16).signExtend 32)
/-- Meaning of `sextH` (R63). -/
def execSextH (f : FU) : State → Host.Outcome State Fault Refusal := issueAlu (shU f 1 1) (opSextH f)

/-- `mov`: a (R66). -/
def opMov : FU → Thread → Thread × DWord := opUn (fun a => a)
/-- Meaning of `mov` (R66). -/
def execMov (f : FU) : State → Host.Outcome State Fault Refusal := issueAlu (shU f 1 1) (opMov f)

/-- `mad`: (a * b + old32(D))[31:0] (R64). -/
def opMad : FA → Thread → Thread × DWord := opAcc (fun o a b => a * b + o)
/-- Meaning of `mad` (R64). -/
def execMad (f : FA) : State → Host.Outcome State Fault Refusal := issueAlu (shAcc f 1 1 1) (opMad f)

/-- `bfi`: the low bits of a in the field of the old D (R66). -/
def opBfi : FA → Thread → Thread × DWord := opAcc bfiW
/-- Meaning of `bfi` (R66). -/
def execBfi (f : FA) : State → Host.Outcome State Fault Refusal := issueAlu (shAcc f 1 1 1) (opBfi f)

/-- `addD`: 64-bit sum (R65). -/
def opAddD (f : FA) (t : Thread) : Thread × DWord :=
  let a := t.src64 f.lit f.a
  let b := t.src64 f.lit f.b
  res64 t f.nw f.d (a + b)
/-- Meaning of `addD` (R65). -/
def execAddD (f : FA) : State → Host.Outcome State Fault Refusal := issueAlu (shA f 2 2 2) (opAddD f)

/-- `subD`: 64-bit difference (R65). -/
def opSubD (f : FA) (t : Thread) : Thread × DWord :=
  let a := t.src64 f.lit f.a
  let b := t.src64 f.lit f.b
  res64 t f.nw f.d (a - b)
/-- Meaning of `subD` (R65). -/
def execSubD (f : FA) : State → Host.Outcome State Fault Refusal := issueAlu (shA f 2 2 2) (opSubD f)

/-- `madD`: 64-bit product plus the old pair D (R65). -/
def opMadD (f : FA) (t : Thread) : Thread × DWord :=
  res64 t f.nw f.d (t.src64 f.lit f.a * t.src64 f.lit f.b + t.old64 f.d)
/-- Meaning of `madD` (R65). -/
def execMadD (f : FA) : State → Host.Outcome State Fault Refusal := issueAlu (shAcc f 2 2 2) (opMadD f)

/-- `mulwS`: exact signed 64-bit product (R65). -/
def opMulwS (f : FA) (t : Thread) : Thread × DWord :=
  res64 t f.nw f.d ((t.src32 f.lit f.a).signExtend 64 * (t.src32 f.lit f.b).signExtend 64)
/-- Meaning of `mulwS` (R65). -/
def execMulwS (f : FA) : State → Host.Outcome State Fault Refusal := issueAlu (shA f 2 1 1) (opMulwS f)

/-- `mulwU`: exact unsigned 64-bit product (R65). -/
def opMulwU (f : FA) (t : Thread) : Thread × DWord :=
  res64 t f.nw f.d ((t.src32 f.lit f.a).setWidth 64 * (t.src32 f.lit f.b).setWidth 64)
/-- Meaning of `mulwU` (R65). -/
def execMulwU (f : FA) : State → Host.Outcome State Fault Refusal := issueAlu (shA f 2 1 1) (opMulwU f)

/-- `shlD`: 64-bit shift of the pair A by the whole unsigned B (R65). -/
def opShlD : FA → Thread → Thread × DWord := opSh64 shlD64
/-- Meaning of `shlD` (R65). -/
def execShlD (f : FA) : State → Host.Outcome State Fault Refusal := issueAlu (shA f 2 2 1) (opShlD f)

/-- `shrD`: 64-bit shift of the pair A by the whole unsigned B (R65). -/
def opShrD : FA → Thread → Thread × DWord := opSh64 shrD64
/-- Meaning of `shrD` (R65). -/
def execShrD (f : FA) : State → Host.Outcome State Fault Refusal := issueAlu (shA f 2 2 1) (opShrD f)

/-- `sraD`: 64-bit shift of the pair A by the whole unsigned B (R65). -/
def opSraD : FA → Thread → Thread × DWord := opSh64 sraD64
/-- Meaning of `sraD` (R65). -/
def execSraD (f : FA) : State → Host.Outcome State Fault Refusal := issueAlu (shA f 2 2 1) (opSraD f)

/-- `lea2`: pair A plus sign-extended B shifted left by 1 (R66). -/
def opLea2 : FA → Thread → Thread × DWord := opLea 1
/-- Meaning of `lea2` (R66). -/
def execLea2 (f : FA) : State → Host.Outcome State Fault Refusal := issueAlu (shA f 2 2 1) (opLea2 f)

/-- `lea4`: pair A plus sign-extended B shifted left by 2 (R66). -/
def opLea4 : FA → Thread → Thread × DWord := opLea 2
/-- Meaning of `lea4` (R66). -/
def execLea4 (f : FA) : State → Host.Outcome State Fault Refusal := issueAlu (shA f 2 2 1) (opLea4 f)

/-- `lea8`: pair A plus sign-extended B shifted left by 3 (R66). -/
def opLea8 : FA → Thread → Thread × DWord := opLea 3
/-- Meaning of `lea8` (R66). -/
def execLea8 (f : FA) : State → Host.Outcome State Fault Refusal := issueAlu (shA f 2 2 1) (opLea8 f)

/-- `lea16`: pair A plus sign-extended B shifted left by 4 (R66). -/
def opLea16 : FA → Thread → Thread × DWord := opLea 4
/-- Meaning of `lea16` (R66). -/
def execLea16 (f : FA) : State → Host.Outcome State Fault Refusal := issueAlu (shA f 2 2 1) (opLea16 f)

/-- `cmpEq`: writes the predicate (R69). -/
def opCmpEq : FP → Thread → Thread × DWord := opCmp (fun a b => a == b)
/-- Meaning of `cmpEq` (R69). -/
def execCmpEq (f : FP) : State → Host.Outcome State Fault Refusal := issueAlu (shP f) (opCmpEq f)

/-- `cmpNe`: writes the predicate (R69). -/
def opCmpNe : FP → Thread → Thread × DWord := opCmp (fun a b => a != b)
/-- Meaning of `cmpNe` (R69). -/
def execCmpNe (f : FP) : State → Host.Outcome State Fault Refusal := issueAlu (shP f) (opCmpNe f)

/-- `cmpLtS`: writes the predicate (R69). -/
def opCmpLtS : FP → Thread → Thread × DWord := opCmp (fun a b => a.slt b)
/-- Meaning of `cmpLtS` (R69). -/
def execCmpLtS (f : FP) : State → Host.Outcome State Fault Refusal := issueAlu (shP f) (opCmpLtS f)

/-- `cmpLeS`: writes the predicate (R69). -/
def opCmpLeS : FP → Thread → Thread × DWord := opCmp (fun a b => a.sle b)
/-- Meaning of `cmpLeS` (R69). -/
def execCmpLeS (f : FP) : State → Host.Outcome State Fault Refusal := issueAlu (shP f) (opCmpLeS f)

/-- `cmpLtU`: writes the predicate (R69). -/
def opCmpLtU : FP → Thread → Thread × DWord := opCmp (fun a b => a.ult b)
/-- Meaning of `cmpLtU` (R69). -/
def execCmpLtU (f : FP) : State → Host.Outcome State Fault Refusal := issueAlu (shP f) (opCmpLtU f)

/-- `cmpLeU`: writes the predicate (R69). -/
def opCmpLeU : FP → Thread → Thread × DWord := opCmp (fun a b => a.ule b)
/-- Meaning of `cmpLeU` (R69). -/
def execCmpLeU (f : FP) : State → Host.Outcome State Fault Refusal := issueAlu (shP f) (opCmpLeU f)

/-- `cmpTst`: writes the predicate (R69). -/
def opCmpTst : FP → Thread → Thread × DWord := opCmp (fun a b => a &&& b != 0)
/-- Meaning of `cmpTst` (R69). -/
def execCmpTst (f : FP) : State → Host.Outcome State Fault Refusal := issueAlu (shP f) (opCmpTst f)

/-- `cmpTstn`: writes the predicate (R69). -/
def opCmpTstn : FP → Thread → Thread × DWord := opCmp (fun a b => a &&& b == 0)
/-- Meaning of `cmpTstn` (R69). -/
def execCmpTstn (f : FP) : State → Host.Outcome State Fault Refusal := issueAlu (shP f) (opCmpTstn f)

/-- `sel`: D := p(FN) ? A : B (R70). -/
def opSel (f : FSel) (t : Thread) : Thread × DWord :=
  res32 t f.nw f.d (if t.pred f.p then t.src32 f.lit f.a else t.src32 f.lit f.b)
/-- Meaning of `sel` (R70). -/
def execSel (f : FSel) : State → Host.Outcome State Fault Refusal := issueAlu (shSel f) (opSel f)

/-- `addi`: with the sign-extended IMM10 (R67). -/
def opAddi : FI → Thread → Thread × DWord := opImm (fun a b => a + b)
/-- Meaning of `addi` (R67). -/
def execAddi (f : FI) : State → Host.Outcome State Fault Refusal := issueAlu (shI f) (opAddi f)

/-- `andi`: with the sign-extended IMM10 (R67). -/
def opAndi : FI → Thread → Thread × DWord := opImm (fun a b => a &&& b)
/-- Meaning of `andi` (R67). -/
def execAndi (f : FI) : State → Host.Outcome State Fault Refusal := issueAlu (shI f) (opAndi f)

/-- `ori`: with the sign-extended IMM10 (R67). -/
def opOri : FI → Thread → Thread × DWord := opImm (fun a b => a ||| b)
/-- Meaning of `ori` (R67). -/
def execOri (f : FI) : State → Host.Outcome State Fault Refusal := issueAlu (shI f) (opOri f)

/-- `xori`: with the sign-extended IMM10 (R67). -/
def opXori : FI → Thread → Thread × DWord := opImm (fun a b => a ^^^ b)
/-- Meaning of `xori` (R67). -/
def execXori (f : FI) : State → Host.Outcome State Fault Refusal := issueAlu (shI f) (opXori f)

/-- `shli`: by the immediate amount (R67). -/
def opShli : FSh → Thread → Thread × DWord := opShi shlW
/-- Meaning of `shli` (R67). -/
def execShli (f : FSh) : State → Host.Outcome State Fault Refusal := issueAlu (shSh f) (opShli f)

/-- `shri`: by the immediate amount (R67). -/
def opShri : FSh → Thread → Thread × DWord := opShi shrW
/-- Meaning of `shri` (R67). -/
def execShri (f : FSh) : State → Host.Outcome State Fault Refusal := issueAlu (shSh f) (opShri f)

/-- `srai`: by the immediate amount (R67). -/
def opSrai : FSh → Thread → Thread × DWord := opShi sraW
/-- Meaning of `srai` (R67). -/
def execSrai (f : FSh) : State → Host.Outcome State Fault Refusal := issueAlu (shSh f) (opSrai f)

/-- `roli`: by the immediate amount (R67). -/
def opRoli : FSh → Thread → Thread × DWord := opShi rolW
/-- Meaning of `roli` (R67). -/
def execRoli (f : FSh) : State → Host.Outcome State Fault Refusal := issueAlu (shSh f) (opRoli f)

/-- `cmpiEq`: against the sign-extended IMM10 (R67). -/
def opCmpiEq : FCi → Thread → Thread × DWord := opCmpi (fun a b => a == b)
/-- Meaning of `cmpiEq` (R67). -/
def execCmpiEq (f : FCi) : State → Host.Outcome State Fault Refusal := issueAlu (shCi f) (opCmpiEq f)

/-- `cmpiNe`: against the sign-extended IMM10 (R67). -/
def opCmpiNe : FCi → Thread → Thread × DWord := opCmpi (fun a b => a != b)
/-- Meaning of `cmpiNe` (R67). -/
def execCmpiNe (f : FCi) : State → Host.Outcome State Fault Refusal := issueAlu (shCi f) (opCmpiNe f)

/-- `cmpiLtS`: against the sign-extended IMM10 (R67). -/
def opCmpiLtS : FCi → Thread → Thread × DWord := opCmpi (fun a b => a.slt b)
/-- Meaning of `cmpiLtS` (R67). -/
def execCmpiLtS (f : FCi) : State → Host.Outcome State Fault Refusal := issueAlu (shCi f) (opCmpiLtS f)

/-- `cmpiLeS`: against the sign-extended IMM10 (R67). -/
def opCmpiLeS : FCi → Thread → Thread × DWord := opCmpi (fun a b => a.sle b)
/-- Meaning of `cmpiLeS` (R67). -/
def execCmpiLeS (f : FCi) : State → Host.Outcome State Fault Refusal := issueAlu (shCi f) (opCmpiLeS f)

/-- `cmpiLtU`: against the sign-extended IMM10 (R67). -/
def opCmpiLtU : FCi → Thread → Thread × DWord := opCmpi (fun a b => a.ult b)
/-- Meaning of `cmpiLtU` (R67). -/
def execCmpiLtU (f : FCi) : State → Host.Outcome State Fault Refusal := issueAlu (shCi f) (opCmpiLtU f)

/-- `cmpiLeU`: against the sign-extended IMM10 (R67). -/
def opCmpiLeU : FCi → Thread → Thread × DWord := opCmpi (fun a b => a.ule b)
/-- Meaning of `cmpiLeU` (R67). -/
def execCmpiLeU (f : FCi) : State → Host.Outcome State Fault Refusal := issueAlu (shCi f) (opCmpiLeU f)

/-- `cmpiGtS`: against the sign-extended IMM10 (R67). -/
def opCmpiGtS : FCi → Thread → Thread × DWord := opCmpi (fun a b => b.slt a)
/-- Meaning of `cmpiGtS` (R67). -/
def execCmpiGtS (f : FCi) : State → Host.Outcome State Fault Refusal := issueAlu (shCi f) (opCmpiGtS f)

/-- `cmpiGtU`: against the sign-extended IMM10 (R67). -/
def opCmpiGtU : FCi → Thread → Thread × DWord := opCmpi (fun a b => b.ult a)
/-- Meaning of `cmpiGtU` (R67). -/
def execCmpiGtU (f : FCi) : State → Host.Outcome State Fault Refusal := issueAlu (shCi f) (opCmpiGtU f)

/-- `movi`: sext(IMM16, 16) (R68). -/
def opMovi (f : FMv) (t : Thread) : Thread × DWord := res32 t false f.d (f.i.signExtend 32)
/-- Meaning of `movi` (R68). -/
def execMovi (f : FMv) : State → Host.Outcome State Fault Refusal := issueAlu (shMovi f) (opMovi f)

/-- `movhi`: the high half of D replaced (R68). -/
def opMovhi (f : FMv) (t : Thread) : Thread × DWord :=
  res32 t false f.d ((f.i.setWidth 32 <<< 16) ||| (t.old32 f.d &&& 0xFFFF))
/-- Meaning of `movhi` (R68). -/
def execMovhi (f : FMv) : State → Host.Outcome State Fault Refusal := issueAlu (shMovhi f) (opMovhi f)

end Sys2Proof.Machine
end

