-- ==== Sys2Proof/Machine/Transc.lean ====
section
/-! DEFINITION. The special functions (04_number_instructions.md R162, 09_numbers.md R362). Each is evaluated in fixed point with
`prec` fraction bits, far below the resolution of every format; a result that is not exact carries one more low bit, set, so that
each rounding of R357 decides as on the exact value. -/

namespace Sys2Proof.Machine

/-- Fraction bits of the fixed-point evaluations. -/
def prec : Nat := 1024

/-- The value v / 2^p, known to lie strictly between v and v + 1 units, as a dyadic number that rounds as the exact value does. -/
def inexactFp (neg : Bool) (v : Nat) (p : Int) : Fp := .fin neg (2 * v + 1) (-p - 1)

/-- floor(sqrt(n)), by bits from `k` down: `r` is the root found so far. -/
def isqrtFrom (n : Nat) : Nat → Nat → Nat
  | 0, r => r
  | k + 1, r =>
    let c := r + 2 ^ k
    isqrtFrom n k (if c * c ≤ n then c else r)

/-- floor(sqrt(n)). -/
def isqrt (n : Nat) : Nat := isqrtFrom n (nlen n / 2 + 1) 0

/-- Sum of t(0) + t(1) + …, where term(i, t) gives the next term, until `fuel` terms: for positive series in fixed point. -/
def series (next : Nat → Nat → Nat) : Nat → Nat → Nat → Nat
  | 0, _, _ => 0
  | fuel + 1, i, t => if t = 0 then 0 else t + series next fuel (i + 1) (next i t)

/-- exp(r) in fixed point for 0 ≤ r < 1, r in units of 2^−prec. -/
def expFix (r : Nat) : Nat := series (fun i t => t * r / 2 ^ prec / (i + 1)) 400 0 (2 ^ prec)

/-- atanh(a / b) in fixed point, for 0 ≤ a / b < 1/2: a/b + (a/b)³/3 + … -/
def atanhFix (a b : Nat) : Nat :=
  let z := a * 2 ^ prec / b
  let z2 := z * z / 2 ^ prec
  -- the odd powers of z, each divided by its exponent
  let rec go : Nat → Nat → Nat → Nat
    | 0, _, _ => 0
    | fuel + 1, k, w => if w = 0 then 0 else w / (2 * k + 1) + go fuel (k + 1) (w * z2 / 2 ^ prec)
  go 600 0 z

/-- ln 2 in fixed point: 2 atanh(1/3). -/
def ln2Fix : Nat := 2 * atanhFix 1 3

/-- arctan(1/n) with `p` fraction bits. -/
def atanInv (p n : Nat) : Nat :=
  let rec go : Nat → Nat → Nat → Int
    | 0, _, _ => 0
    | fuel + 1, k, w => if w = 0 then 0 else (if k % 2 = 0 then 1 else -1) * ((w / (2 * k + 1) : Nat) : Int) + go fuel (k + 1) (w / (n * n))
  (go (p + 8) 0 (2 ^ p / n)).toNat

/-- π with `p` fraction bits: 16 arctan(1/5) − 4 arctan(1/239). -/
def piFix (p : Nat) : Nat := 16 * atanInv p 5 - 4 * atanInv p 239

/-- m × 2^e in units of 2^−p, rounded down. -/
def toFix (m : Nat) (e : Int) (p : Nat) : Nat :=
  let k := e + p
  if 0 ≤ k then m * 2 ^ k.toNat else m / 2 ^ (-k).toNat

/-- exp of ±m × 2^e as a mantissa in [1, 2) with `prec` fraction bits and an exponent: exp(x) = mant × 2^k. For |x| < 2^12. -/
def expParts (neg : Bool) (m : Nat) (e : Int) : Nat × Int :=
  let x : Int := let v : Int := (toFix m e prec : Nat); if neg then -v else v
  let k := x / (ln2Fix : Int)
  let r := (x - k * ln2Fix).toNat
  (expFix r, k)

/-- The number mant × 2^k with `prec` fraction bits in mant, inexact. -/
def partsFp (neg : Bool) (p : Nat × Int) : Fp := inexactFp neg p.1 (prec - p.2)

/-- Whether |x| is at least 2^k, for m ≠ 0. -/
def atLeast2 (m : Nat) (e k : Int) : Bool := decide (k < e + nlen m)

/-- A magnitude beyond every format, and one below every format, with a sign. -/
def hugeFp (neg : Bool) : Fp := inexactFp neg 1 (-1000)
def tinyFp (neg : Bool) : Fp := inexactFp neg 1 1000

/-- exp (R162). -/
def fnExp (neg : Bool) (m : Nat) (e : Int) : Fp :=
  if m = 0 then .fin false 1 0
  else if atLeast2 m e 9 then (if neg then tinyFp false else hugeFp false)
  else if !atLeast2 m e (-900) then inexactFp false (if neg then 2 ^ prec - 1 else 2 ^ prec) prec
  else partsFp false (expParts neg m e)

/-- exp2 (R162): exact for integers (R362). -/
def fnExp2 (neg : Bool) (m : Nat) (e : Int) : Fp :=
  if m = 0 then .fin false 1 0
  else if atLeast2 m e 9 then (if neg then tinyFp false else hugeFp false)
  else if 0 ≤ e then .fin false 1 (signedAt neg m e 0)
  else if m % 2 ^ (-e).toNat = 0 then .fin false 1 (let v : Int := (m / 2 ^ (-e).toNat : Nat); if neg then -v else v)
  else
    let x : Int := let v : Int := (toFix m e prec : Nat); if neg then -v else v
    let k := x / (2 ^ prec : Nat)
    let r := (x % (2 ^ prec : Nat)).toNat
    if r = 0 then inexactFp false (if neg then 2 ^ prec - 1 else 2 ^ prec) prec
    else partsFp false (expFix (r * ln2Fix / 2 ^ prec), k)

/-- ln of m × 2^e > 0 in units of 2^−prec: the exponent part and the part of the mantissa, which lies in [2/3, 4/3]. -/
def lnFix (m : Nat) (e : Int) : Int :=
  let l := nlen m
  -- the mantissa over [1/2, 1) is m / 2^l; below 2/3 it is doubled
  let low := decide (3 * m < 2 * 2 ^ l)
  let num := if low then 2 * m else m
  let k : Int := e + l - (if low then 1 else 0)
  let a : Int := if 2 ^ l ≤ num then (2 * atanhFix (num - 2 ^ l) (num + 2 ^ l) : Nat) else -((2 * atanhFix (2 ^ l - num) (num + 2 ^ l) : Nat) : Int)
  k * ln2Fix + a

/-- A fixed-point result with its sign, inexact. -/
def signedFix (v : Int) : Fp := inexactFp (decide (v < 0)) v.natAbs prec

/-- ln of a positive number (R162); ln(1) = +0. -/
def fnLn (m : Nat) (e : Int) : Fp :=
  if m = 2 ^ (nlen m - 1) ∧ e + nlen m - 1 = 0 then .fin false 0 0 else signedFix (lnFix m e)

/-- log2 of a positive number (R162): exact for powers of two (R362). -/
def fnLog2 (m : Nat) (e : Int) : Fp :=
  if m = 2 ^ (nlen m - 1) then
    let k := e + nlen m - 1
    .fin (decide (k < 0)) k.natAbs 0
  else signedFix (lnFix m e * (2 ^ prec : Nat) / ln2Fix)

/-- a × 2^e / b, exact where it is. -/
def divFp (neg : Bool) (a : Nat) (e : Int) (b : Nat) : Fp :=
  let k := prec + nlen b
  let q := a * 2 ^ k / b
  if a * 2 ^ k % b = 0 then .fin neg q (e - k) else inexactFp neg q (k - e)

/-- rcp of a non-zero number (R162). -/
def fnRcp (neg : Bool) (m : Nat) (e : Int) : Fp := divFp neg 1 (-e) m

/-- m × 2^e with an even exponent. -/
def evenExp (m : Nat) (e : Int) : Nat × Int := if e % 2 = 0 then (m, e) else (2 * m, e - 1)

/-- sqrt of a positive number (R162): exact where it is. -/
def fnSqrt (m : Nat) (e : Int) : Fp :=
  let (m, e) := evenExp m e
  let n := m * 2 ^ (2 * prec)
  let r := isqrt n
  if r * r = n then .fin false r (e / 2 - prec) else inexactFp false r (prec - e / 2)

/-- rsqrt of a positive number (R162): exact where it is. -/
def fnRsqrt (m : Nat) (e : Int) : Fp :=
  let (m, e) := evenExp m e
  let n := 2 ^ (2 * prec)
  let r := isqrt (n / m)
  if r * r * m = n then .fin false r (-(e / 2) - prec) else inexactFp false r (prec + e / 2)

/-- 1 / (1 + exp(−|x|)) or its complement exp(−|x|) / (1 + exp(−|x|)) as a mantissa and an exponent. -/
def sigmParts (neg : Bool) (m : Nat) (e : Int) : Nat × Int :=
  let t := expParts true m e
  -- exp(−|x|) in units of 2^−prec
  let low := t.1 / 2 ^ (-t.2).toNat
  if neg then (t.1 * 2 ^ prec / (2 ^ prec + low), t.2) else (2 ^ (2 * prec) / (2 ^ prec + low), 0)

/-- sigm (R162): sigm(0) = 0.5. -/
def fnSigm (neg : Bool) (m : Nat) (e : Int) : Fp :=
  if m = 0 then .fin false 1 (-1)
  else if atLeast2 m e 9 then (if neg then tinyFp false else inexactFp false (2 ^ prec - 1) prec)
  else partsFp false (sigmParts neg m e)

/-- silu: x × sigm(x), rounded once (R162). -/
def fnSilu (neg : Bool) (m : Nat) (e : Int) : Fp :=
  if m = 0 then .fin neg 0 0
  else if atLeast2 m e 9 then (if neg then tinyFp true else inexactFp false (m * 2 ^ prec - 1) (prec - e))
  else
    let p := sigmParts neg m e
    inexactFp neg (m * p.1) (prec - p.2 - e)

/-- tanh of a positive number (R162). -/
def fnTanh (m : Nat) (e : Int) : Fp :=
  if atLeast2 m e 8 then inexactFp false (2 ^ prec - 1) prec
  else if !atLeast2 m e (-300) then inexactFp false (m * 2 ^ 500 - 1) (500 - e)
  else
    let t := expParts true m (e + 1)
    let low := t.1 / 2 ^ (-t.2).toNat
    inexactFp false ((2 ^ prec - low) * 2 ^ prec / (2 ^ prec + low)) prec

/-- Σ (−1)^n x^(2n+1) / (n! (2n+1)) for x in units of 2^−prec. -/
def erfSeries (x2 : Nat) : Nat → Nat → Nat → Int
  | 0, _, _ => 0
  | fuel + 1, n, w =>
    if w = 0 then 0
    else (if n % 2 = 0 then 1 else -1) * ((w / (2 * n + 1) : Nat) : Int) + erfSeries x2 fuel (n + 1) (w * x2 / 2 ^ prec / (n + 1))

/-- erf(x) in units of 2^−prec, for x in the same units and below 24. -/
def erfFix (x : Nat) : Nat :=
  let s := (erfSeries (x * x / 2 ^ prec) 4000 0 x).toNat
  -- 2 / sqrt(pi)
  let rp := isqrt (piFix (2 * prec))
  min (2 * s * 2 ^ prec / rp) (2 ^ prec - 1)

/-- erf of a positive number (R162). -/
def fnErf (m : Nat) (e : Int) : Fp :=
  if atLeast2 m e 4 then inexactFp false (2 ^ prec - 1) prec
  else if !atLeast2 m e (-300) then
    -- 2x / sqrt(pi) to first order, a little below
    inexactFp false (m * 2 ^ 1500 / isqrt (piFix 998) - 1) (1000 - e)
  else inexactFp false (erfFix (toFix m e prec)) prec

/-- gelu: x × ½ × (1 + erf(x / √2)), rounded once (R162). -/
def fnGelu (neg : Bool) (m : Nat) (e : Int) : Fp :=
  if m = 0 then .fin neg 0 0
  else if atLeast2 m e 5 then (if neg then tinyFp true else inexactFp false (m * 2 ^ prec - 1) (prec - e))
  else
    -- x / √2 in fixed point
    let y := toFix m e prec * 2 ^ prec / isqrt (2 * 2 ^ (2 * prec))
    let g := erfFix y
    let h := if neg then 2 ^ prec - g else 2 ^ prec + g
    inexactFp neg (m * h) (prec + 1 - e)

/-- sin (`c` false) or cos of r in [0, π/2), in units of 2^−prec. -/
def sinCosFix (c : Bool) (r : Nat) : Nat :=
  let r2 := r * r / 2 ^ prec
  let rec go : Nat → Nat → Nat → Int
    | 0, _, _ => 0
    | fuel + 1, n, w =>
      if w = 0 then 0
      else
        let d := if c then (2 * n + 1) * (2 * n + 2) else (2 * n + 2) * (2 * n + 3)
        (if n % 2 = 0 then 1 else -1) * (w : Int) + go fuel (n + 1) (w * r2 / 2 ^ prec / d)
  (go 400 0 (if c then 2 ^ prec else r)).toNat

/-- sin or cos of a positive number, whose argument is reduced exactly (R162). -/
def fnSinCos (c : Bool) (m : Nat) (e : Int) : Fp :=
  if !atLeast2 m e (-300) then
    (if c then inexactFp false (2 ^ prec - 1) prec else inexactFp false (m * 2 ^ 500 - 1) (500 - e))
  else
    -- quarter turns and the rest, with enough bits of π for the largest argument
    let p := prec + 160
    let x := toFix m e p
    let h := piFix p / 2
    let k := x / h
    let r := (x % h) / 2 ^ 160
    let useCos := xor c (k % 2 == 1)
    let v := sinCosFix useCos r
    let neg := if c then (k % 4 == 1 || k % 4 == 2) else (k % 4 == 2 || k % 4 == 3)
    inexactFp neg v prec

/-- The special functions by number: 0 to 7 of major 0x1E, 8 to 13 of major 0x1F (R41). -/
inductive Sfn where
  | exp | exp2 | ln | log2 | rcp | rsqrt | sqrt | erf | tanh | sigm | gelu | silu | sin | cos
  deriving DecidableEq, Repr, Inhabited

/-- Number of a special function (R41). -/
def Sfn.num : Sfn → Nat
  | .exp => 0 | .exp2 => 1 | .ln => 2 | .log2 => 3 | .rcp => 4 | .rsqrt => 5 | .sqrt => 6 | .erf => 7
  | .tanh => 8 | .sigm => 9 | .gelu => 10 | .silu => 11 | .sin => 12 | .cos => 13

/-- The number one with a sign. -/
def oneFp (neg : Bool) : Fp := .fin neg 1 0

/-- The exact result of a special function, or the inexact number that rounds as it does, with `dz` and `nv` (R162). A result that
R162 calls exactly ±1 or 0 for large arguments is reached by rounding. -/
def Sfn.eval (f : Sfn) (x : Fp) : Fp × Word :=
  match x with
  | .nan s => (.nan false, flagIf s fNV)
  | .inf n =>
    match f with
    | .exp | .exp2 => (if n then .fin false 0 0 else .inf false, 0)
    | .ln | .log2 | .sqrt => if n then (.nan false, fNV) else (.inf false, 0)
    | .rcp => (.fin n 0 0, 0)
    | .rsqrt => if n then (.nan false, fNV) else (.fin false 0 0, 0)
    | .erf | .tanh => (oneFp n, 0)
    | .sigm => (if n then .fin false 0 0 else oneFp false, 0)
    | .gelu | .silu => (if n then .fin true 0 0 else .inf false, 0)
    | .sin | .cos => (.nan false, fNV)
  | .fin n m e =>
    match f with
    | .exp => (fnExp n m e, 0)
    | .exp2 => (fnExp2 n m e, 0)
    | .ln => if m = 0 then (.inf true, fDZ) else if n then (.nan false, fNV) else (fnLn m e, 0)
    | .log2 => if m = 0 then (.inf true, fDZ) else if n then (.nan false, fNV) else (fnLog2 m e, 0)
    | .rcp => if m = 0 then (.inf n, fDZ) else (fnRcp n m e, 0)
    | .rsqrt => if m = 0 then (.inf n, fDZ) else if n then (.nan false, fNV) else (fnRsqrt m e, 0)
    | .sqrt => if m = 0 then (.fin n 0 0, 0) else if n then (.nan false, fNV) else (fnSqrt m e, 0)
    | .erf => if m = 0 then (.fin n 0 0, 0) else (if n then (fnErf m e).neg else fnErf m e, 0)
    | .tanh => if m = 0 then (.fin n 0 0, 0) else (if n then (fnTanh m e).neg else fnTanh m e, 0)
    | .sigm => (fnSigm n m e, 0)
    | .gelu => (fnGelu n m e, 0)
    | .silu => (fnSilu n m e, 0)
    | .sin => if m = 0 then (.fin n 0 0, 0) else (if n then (fnSinCos false m e).neg else fnSinCos false m e, 0)
    | .cos => if m = 0 then (oneFp false, 0) else (fnSinCos true m e, 0)

/-- The flags of a special function's rounded result: a result that comes out as ±0 or ±1 counts as exact (R362 and the worked
example at the head of 09_numbers.md; DEDUCED, notes/assumptions/11.md). `one` is the code of 1. -/
def sfFlags (mag one : Nat) (f : Word) : Word := if mag = 0 ∨ mag = one then f &&& ~~~(fNX ||| fUF) else f

/-- The FP32 answer of a special function (R162, R362): the exact or correctly rounded result where that is exact, ±0, ±1 or ±∞;
else one of the two FP32 values around the exact one, which one is free. `a` is the operand; odd and even functions answer by its
magnitude. -/
def Sfn.round32 (f : Sfn) (a : Word) (x : Fp) : Nat × Word :=
  let n := f32.round .ne x
  if n.2 &&& fNX = 0 ∨ n.1 % 2 ^ 31 = 0 ∨ n.1 % 2 ^ 31 = 0x3F800000 ∨ n.1 % 2 ^ 31 = 0x7F800000 then
    (n.1, sfFlags (n.1 % 2 ^ 31) 0x3F800000 n.2)
  else
    let sym := f = .tanh ∨ f = .erf ∨ f = .sin ∨ f = .cos
    let up := Config.sfUpper f.num (if sym then a &&& 0x7FFFFFFF else a)
    f32.round (if up then (if x.sgn && sym then .dn else .up) else (if x.sgn && sym then .up else .dn)) x

end Sys2Proof.Machine
end

