-- ==== Sys2Proof/Machine/Float.lean ====
section
/-! DEFINITION. The floating-point, narrow-format and per-thread quantisation instructions, majors 0x10 to 0x20 less the
collectives (04_number_instructions.md R138 to R167). -/

namespace Sys2Proof.Machine

/-! ### Forms -/

/-- A 32-bit result with its flags, written to D (R138, R140). -/
def resF (t : Thread) (nw : Bool) (d : BitVec 6) (v : Nat × Word) : Thread × DWord :=
  res32 (t.raise v.2) nw d (BitVec.ofNat 32 v.1)

/-- An FP32 operation rounded under `fpcr.rnd`: one value, one draw (R139). -/
def opF2 (g : Rm → Nat → Nat → Nat × Word) (f : FA) (t : Thread) : Thread × DWord :=
  let r := t.draw
  resF r.2 f.nw f.d (g r.1 (t.src32 f.lit f.a).toNat (t.src32 f.lit f.b).toNat)

/-- The same with the accumuland D (R145). -/
def opF3 (g : Rm → Nat → Nat → Nat → Nat × Word) (f : FA) (t : Thread) : Thread × DWord :=
  let r := t.draw
  resF r.2 f.nw f.d (g r.1 (t.src32 f.lit f.a).toNat (t.src32 f.lit f.b).toNat (t.old32 f.d).toNat)

/-- An operation that rounds nothing. -/
def opFx (g : Nat → Nat → Nat × Word) (f : FA) (t : Thread) : Thread × DWord :=
  resF t f.nw f.d (g (t.src32 f.lit f.a).toNat (t.src32 f.lit f.b).toNat)

/-- A unary operation rounded under `fpcr.rnd`. -/
def opF1 (g : Rm → Nat → Nat × Word) (f : FU) (t : Thread) : Thread × DWord :=
  let r := t.draw
  resF r.2 f.nw f.d (g r.1 (t.src32 f.lit f.a).toNat)

/-- A unary operation that draws nothing. -/
def opF1x (g : Nat → Nat × Word) (f : FU) (t : Thread) : Thread × DWord :=
  resF t f.nw f.d (g (t.src32 f.lit f.a).toNat)

/-- Half `k` of a packed pair (R138). -/
def half (x : Word) (k : Nat) : Nat := bits x.toNat (16 * k) 16

/-- A packed pair of halves, half 0 rounded first (R145). -/
def opH (g : Rm → Nat → Nat → Nat → Nat × Word) (f : FA) (t : Thread) : Thread × DWord :=
  let a := t.src32 f.lit f.a
  let b := t.src32 f.lit f.b
  let d := t.old32 f.d
  let r0 := t.draw
  let r1 := r0.2.draw
  let x := g r0.1 (half a 0) (half b 0) (half d 0)
  let y := g r1.1 (half a 1) (half b 1) (half d 1)
  resF r1.2 f.nw f.d (x.1 + 65536 * y.1, x.2 ||| y.2)

/-- A packed pair of halves that rounds nothing. -/
def opHx (g : Nat → Nat → Nat × Word) (f : FA) (t : Thread) : Thread × DWord :=
  let a := t.src32 f.lit f.a
  let b := t.src32 f.lit f.b
  let x := g (half a 0) (half b 0)
  let y := g (half a 1) (half b 1)
  resF t f.nw f.d (x.1 + 65536 * y.1, x.2 ||| y.2)

/-- A packed pair of halves of two operands, half 0 rounded first (R149). -/
def opH2x (g : Rm → Nat → Nat → Nat × Word) (f : FA) (t : Thread) : Thread × DWord :=
  let a := t.src32 f.lit f.a
  let b := t.src32 f.lit f.b
  let r0 := t.draw
  let r1 := r0.2.draw
  let x := g r0.1 (half a 0) (half b 0)
  let y := g r1.1 (half a 1) (half b 1)
  resF r1.2 f.nw f.d (x.1 + 65536 * y.1, x.2 ||| y.2)

/-- An FP32 compare with its flags (R146): `quiet` forms raise `nv` for a signalling NaN only. -/
def opFcmp (quiet : Bool) (g : Fp → Fp → Bool) (f : FP) (t : Thread) : Thread × DWord :=
  let x := f32.decode (t.src32 f.lit f.a).toNat
  let y := f32.decode (t.src32 f.lit f.b).toNat
  let nv := if quiet then x.isSnan || y.isSnan else x.isNan || y.isNan
  resP (t.raise (flagIf nv fNV)) f.nw f.p (g x y)

/-! ### Conversions and their kin -/

/-- A value rounded to an integer (R147): the signed integer and whether it is inexact. -/
def toInteger (rm : Rm) (neg : Bool) (m : Nat) (e : Int) : Int × Bool :=
  let r := roundQ rm neg m e 0
  (if neg then -(r.1 : Int) else r.1, r.2)

/-- FP32 to an integer in [lo, hi] (R147): NaN gives 0, a rounded integer out of range the nearer bound, both with `nv` only. -/
def cvtToInt (lo hi : Int) (rm : Rm) (a : Nat) : Nat × Word :=
  let w (v : Int) : Nat := (v % 2 ^ 32).toNat
  match f32.decode a with
  | .nan _ => (0, fNV)
  | .inf n => (w (if n then lo else hi), fNV)
  | .fin n m e =>
    let r := toInteger rm n m e
    if r.1 < lo then (w lo, fNV) else if hi < r.1 then (w hi, fNV) else (w r.1, flagIf r.2 fNX)

/-- An integer to FP32 (R147). -/
def cvtFromInt (rm : Rm) (v : Int) : Nat × Word := f32.round rm (.fin (decide (v < 0)) v.natAbs 0)

/-- Widening to FP32 (R147): exact; a NaN becomes the canonical one. -/
def widen (f : Fmt) (a : Nat) : Nat × Word := f32.round .ne (f.decode (a % 65536))

/-- `frnd` (R148): to an integral value in a fixed direction; the sign of zero is kept and `nx` is not raised. -/
def frndTo (rm : Rm) (a : Nat) : Nat × Word :=
  match f32.decode a with
  | .fin n m e => ((f32.round .ne (.fin n (roundQ rm n m e 0).1 0)).1, 0)
  | x => f32.round .ne x

/-- `fcls` (R148): the class mask. -/
def classMask (a : Nat) : Nat :=
  match f32.decode a with
  | .nan s => if s then 256 else 512
  | .inf n => if n then 1 else 128
  | .fin n m e =>
    if m = 0 then (if n then 8 else 16)
    else if e + nlen m ≤ f32.enorm then (if n then 4 else 32)
    else if n then 2 else 64

/-- `fldexp` (R148): n clamped to −300..300. -/
def ldexp (rm : Rm) (a b : Nat) : Nat × Word :=
  let n := max (-300) (min 300 (sgn 32 b))
  f32.round rm ((f32.decode a).scale n)

/-- `fgetexp` (R148). -/
def getExp (a : Nat) : Nat × Word :=
  match f32.decode a with
  | .nan s => (0x7FFFFFFF, flagIf s fNV)
  | .inf _ => (0x7FFFFFFF, 0)
  | .fin _ m e => if m = 0 then (0x80000000, 0) else (((e + nlen m - 1) % 2 ^ 32).toNat, 0)

/-- `fgetman` (R148). -/
def getMan (a : Nat) : Nat × Word :=
  match f32.decode a with
  | .nan _ | .inf _ => (f32.qnan, fNV)
  | .fin n m _ => f32.round .ne (.fin n m (1 - nlen m))

/-! ### Narrow packs -/

/-- Convert values into a narrow format in ascending order, each with its own draw, with the flags and strict failures they raise
(R139, R150, R151). `bad` is the scale 0xFF. -/
def convertAll (n : Nf) (bad : Bool) (t : Thread) : List Fp → List Nat × Thread
  | [] => ([], t)
  | x :: xs =>
    let r := t.draw
    let c := if bad then (n.invalid, fNV, true) else n.convert t.nsat r.1 x
    let t' := r.2.raise (c.2.1 ||| flagIf c.2.2 fPSN)
    let q := convertAll n bad t' xs
    (c.1 :: q.1, q.2)

/-- The scale byte of a B operand: 127 for `zero` (R151). -/
def scaleOf (t : Thread) (lit : Word) (b : BitVec 6) : Nat := if b = 62 then 127 else (t.src32 lit b).toNat % 256

/-- `npk` (R151). -/
def opNpk (n : Nf) (k : Nat) (f : FA) (t : Thread) : Thread × DWord :=
  let s := scaleOf t f.lit f.b
  let xs := (t.getGs f.a.toNat k).map (fun x => (f32.decode x.toNat).scale (127 - (s : Int)))
  let r := convertAll n (s == 255) t xs
  res32 r.2 f.nw f.d (BitVec.ofNat 32 (packFields n.width r.1))

/-- One element of `nup` (R152): its BF16 value and flags. -/
def unpackOne (n : Nf) (rm : Rm) (s c : Nat) : Nat × Word :=
  let bad := c == n.invalid && n != .e4m3 && n != .e5m2
  if s = 255 ∨ bad then (bf16.qnan, flagIf (s == 255) fNV ||| flagIf bad fPSN)
  else bf16.round rm ((n.decode c).scale ((s : Int) - 127))

/-- Unpack codes in ascending order, each with its own draw (R139, R152). -/
def unpackAll (n : Nf) (s : Nat) (t : Thread) : List Nat → List Nat × Thread
  | [] => ([], t)
  | c :: cs =>
    let r := t.draw
    let v := unpackOne n r.1 s c
    let q := unpackAll n s (r.2.raise v.2) cs
    (v.1 :: q.1, q.2)

/-- BF16 values, two to a register (R152). -/
def pairUp : List Nat → List Word
  | [] => []
  | [x] => [BitVec.ofNat 32 x]
  | x :: y :: r => BitVec.ofNat 32 (x + 65536 * y) :: pairUp r

/-- The latch value of an instruction that writes several registers: D and D + 1 (R138). -/
def latch2 (ws : List Word) : DWord := DWord.mk (ws.getD 1 0) (ws.getD 0 0)

/-- `nup` (R152). -/
def opNup (n : Nf) (k : Nat) (f : FA) (t : Thread) : Thread × DWord :=
  let x := t.src32 f.lit f.a
  let r := unpackAll n (scaleOf t f.lit f.b) t ((List.range k).map (laneField x n.width))
  let ws := pairUp r.1
  (if f.nw then r.2 else r.2.setGs f.d.toNat ws, latch2 ws)

/-! ### Dot products -/

/-- The exact products of the elements of two words of `w`-bit codes, and whether one is invalid (R153). -/
def products (dec : Nat → Fp) (w k : Nat) (a b : Word) : List Fp × Bool :=
  let ps := (List.range k).map (fun i => Fp.mul (dec (laneField a w i)) (dec (laneField b w i)))
  (ps.map (·.1), ps.any (·.2))

/-- A value with subnormals of a format read as zero of the same sign (R153). -/
def flushIn (f : Fmt) (x : Fp) : Fp :=
  match x with
  | .fin n m e => if e + nlen m ≤ f.enorm then .fin n 0 0 else .fin n m e
  | y => y

/-- d + Σ aᵢ × bᵢ in FP32, exact and rounded once (R153). -/
def dotF32 (dec : Nat → Fp) (w k : Nat) (rm : Rm) (a b d : Word) : Nat × Word :=
  let p := products dec w k a b
  let s := Fp.sum rm.down (f32.decode d.toNat) p.1
  f32.finish rm (s.1, p.2 || s.2)

/-- An FP32 dot product (R153). -/
def opDot (dec : Nat → Fp) (w k : Nat) (f : FA) (t : Thread) : Thread × DWord :=
  let r := t.draw
  resF r.2 f.nw f.d (dotF32 dec w k r.1 (t.src32 f.lit f.a) (t.src32 f.lit f.b) (t.old32 f.d))

/-- An integer dot product modulo 2^32 (R153). -/
def opDotI (w k : Nat) (f : FA) (t : Thread) : Thread × DWord :=
  let a := t.src32 f.lit f.a
  let b := t.src32 f.lit f.b
  let s : Int := ((List.range k).map (fun i => sgn w (laneField a w i) * sgn w (laneField b w i))).sum
  res32 t f.nw f.d (t.old32 f.d + BitVec.ofInt 32 s)

/-- `dot2.b2f` (R153): subnormal inputs and results are zeros of their sign; only `nv` is raised. -/
def opDotFlush (f : FA) (t : Thread) : Thread × DWord :=
  let p := products (fun c => flushIn bf16 (bf16.decode c)) 16 2 (t.src32 f.lit f.a) (t.src32 f.lit f.b)
  let s := Fp.sum false (flushIn f32 (f32.decode (t.old32 f.d).toNat)) p.1
  let v := (f32.round .ne s.1).1
  let v := if bits v 23 8 = 0 then v / 2 ^ 31 * 2 ^ 31 else v
  resF t f.nw f.d (v, flagIf (p.2 || s.2) fNV)

/-! ### Scales, codebook, masks -/

/-- emax of a target (R159). -/
def emaxOf (t : Nat) : Int := if t = 0 then 2 else if t = 1 then 8 else if t = 2 then 15 else if t = 3 then 4 else if t = 4 then 2 else if t = 5 then 6 else 2

/-- `scl` (R159). -/
def sclOf (a b : Nat) : Nat × Word :=
  if 7 ≤ b then (255, fNV)
  else match f32.decode a with
    | .nan q => (255, flagIf q fNV)
    | .inf _ => (255, 0)
    | .fin _ m e => if m = 0 then (127, 0) else ((max 0 (min 254 (e + nlen m - 1 - emaxOf b + 127))).toNat, 0)

/-- Parity of the low `n` bits (R357). -/
def parityBelow (x : Word) (n : Nat) : Bool := onesBelow x n % 2 == 1

/-- Weight `i` of the KC2 index `x` over the codebook entry `c` (R160). -/
def kc2Weight (c : Word) (x i : Nat) : Nat :=
  let n := laneField c 4 i
  let mag := if bit x 0 && bit n 3 then min (n % 8 + 1) 7 else n % 8
  let neg := if i < 7 then bit x (i + 1) else parityBelow (BitVec.ofNat 32 (bits x 1 7)) 7
  if mag = 0 then 0 else 8 * b2n neg + mag

/-- The eight codes of a KC2 index (R160). -/
def kc2Codes (book : FMap Word) (x : Nat) : List Nat :=
  if x = 0xFFFF then List.replicate 8 8 else (List.range 8).map (kc2Weight (book.get (x / 256)) x)

/-- `kc2.dec.lo` and `kc2.dec.hi` (R160). -/
def opKc2 (book : FMap Word) (h : Nat) (f : FU) (t : Thread) : Thread × DWord :=
  res32 t f.nw f.d (BitVec.ofNat 32 (packFields 4 (kc2Codes book (half (t.src32 f.lit f.a) h))))

/-- The MASK code (R165). -/
def maskCode : Word := 0xFF800001

/-! ### Special functions -/

/-- The rounded result of a format code (R162) for an exact or inexact value: FP32 nearest-even (used by `tbl`), FP16 and BF16 under
`fpcr.rnd`, FP8 through R150 with s = 127. -/
def roundTo (t : Thread) (code : Nat) (x : Fp) : Nat × Word :=
  if code = 0 then f32.round .ne x
  else if code = 1 then f16.round t.rmFixed x
  else if code = 2 then bf16.round t.rmFixed x
  else
    let r := (if code = 3 then Nf.e4m3 else Nf.e5m2).convert t.nsat t.rmFixed x
    (r.1, r.2.1 ||| flagIf r.2.2 fPSN)

/-- The operand of a format code (R138, R162). -/
def operandOf (code : Nat) (a : Word) : Fp :=
  if code = 0 then f32.decode a.toNat
  else if code = 1 then f16.decode (a.toNat % 65536)
  else if code = 2 then bf16.decode (a.toNat % 65536)
  else if code = 3 then e4m3.decode (a.toNat % 256)
  else e5m2.decode (a.toNat % 256)

/-- The code of 1 in each format. -/
def oneCode (code : Nat) : Nat := if code = 0 then 0x3F800000 else if code = 1 then 0x3C00 else if code = 2 then 0x3F80 else if code = 3 then 0x38 else 0x3C

/-- The width of a format code less its sign. -/
def magBits (code : Nat) : Nat := if code = 0 then 31 else if code ≤ 2 then 15 else 7

/-- A special function of a format code (R162, R362). -/
def Sfn.apply (g : Sfn) (t : Thread) (code : Nat) (a : Word) : Nat × Word :=
  let r := g.eval (operandOf code a)
  if code = 0 then
    let v := g.round32 a r.1
    (v.1, v.2 ||| r.2)
  else
    let v := roundTo t code r.1
    (v.1, sfFlags (v.1 % 2 ^ magBits code) (oneCode code) v.2 ||| r.2)

/-- A special-function instruction (R162). -/
def opSf (g : Sfn) (f : FSf) (t : Thread) : Thread × DWord :=
  resF t f.nw f.d (g.apply t f.f.toNat (t.src32 f.lit f.a))

/-- A word of a table bank (R163). -/
def bankWord (b : FMap Byte) (o : Nat) : Nat := leNat (Memory.read b o 4)

/-- `tbl` over a bank (R163). -/
def tblEval (b : FMap Byte) (x : Fp) : Nat × Word :=
  if x.isNan then (f32.qnan, flagIf x.isSnan fNV)
  else
    let d := Fp.add false x (f32.decode (bankWord b 0)).neg
    let p := Fp.mul d.1 (f32.decode (bankWord b 4))
    let t := f32.finish .ne (p.1, d.2 || p.2)
    let tv := f32.decode t.1
    let c (o : Nat) : Nat := bankWord b (16 + o)
    let y :=
      if tv.isNan then (f32.qnan, 0)
      else if tv.lt (.fin false 0 0) then (if (f32.decode (c 0)).isNan then f32.qnan else c 0, flagIf (f32.decode (c 0)).isSnan fNV)
      else if !tv.lt (.fin false 256 0) then f32.add .ne (c 2040) (c 2044)
      else
        let i := match tv with
          | .fin _ m e => (roundQ .z false m e 0).1
          | _ => 0
        let fr := Fp.add false tv (.fin true i 0)
        let q := Fp.mul (f32.decode (c (8 * i + 4))) fr.1
        let r := Fp.add false (f32.decode (c (8 * i))) q.1
        f32.finish .ne (r.1, q.2 || r.2)
    (y.1, t.2 ||| y.2)

/-- `tbl` (R163): in FP32, then rounded to the format. -/
def opTbl (b : FMap Byte) (f : FSf) (t : Thread) : Thread × DWord :=
  let code := f.f.toNat
  let y := tblEval b (operandOf code (t.src32 f.lit f.a))
  let v := if code = 0 then y else
    let r := roundTo t code (f32.decode y.1)
    (r.1, r.2 ||| y.2)
  resF t f.nw f.d v

/-! ### Instructions -/

/-- `fadd` (R144): rounded under fpcr.rnd. -/
def opFadd : FA → Thread → Thread × DWord := opF2 f32.add
/-- Meaning of `fadd` (R144). -/
def execFadd (f : FA) : State → Host.Outcome State Fault Refusal := issueAlu (shA f 1 1 1) (opFadd f)

/-- `fsub` (R144): rounded under fpcr.rnd. -/
def opFsub : FA → Thread → Thread × DWord := opF2 f32.sub
/-- Meaning of `fsub` (R144). -/
def execFsub (f : FA) : State → Host.Outcome State Fault Refusal := issueAlu (shA f 1 1 1) (opFsub f)

/-- `fmul` (R144): rounded under fpcr.rnd. -/
def opFmul : FA → Thread → Thread × DWord := opF2 f32.mul
/-- Meaning of `fmul` (R144). -/
def execFmul (f : FA) : State → Host.Outcome State Fault Refusal := issueAlu (shA f 1 1 1) (opFmul f)

/-- `fmin` (R144): the lesser. -/
def opFmin : FA → Thread → Thread × DWord := opFx (f32.minmax false)
/-- Meaning of `fmin` (R144). -/
def execFmin (f : FA) : State → Host.Outcome State Fault Refusal := issueAlu (shA f 1 1 1) (opFmin f)

/-- `fmax` (R144): the greater. -/
def opFmax : FA → Thread → Thread × DWord := opFx (f32.minmax true)
/-- Meaning of `fmax` (R144). -/
def execFmax (f : FA) : State → Host.Outcome State Fault Refusal := issueAlu (shA f 1 1 1) (opFmax f)

/-- `fabs` (R144): bit 31 cleared. -/
def opFabs : FU → Thread → Thread × DWord := opUn (fun a => a &&& 0x7FFFFFFF)
/-- Meaning of `fabs` (R144). -/
def execFabs (f : FU) : State → Host.Outcome State Fault Refusal := issueAlu (shU f 1 1) (opFabs f)

/-- `fneg` (R144): bit 31 inverted. -/
def opFneg : FU → Thread → Thread × DWord := opUn (fun a => a ^^^ 0x80000000)
/-- Meaning of `fneg` (R144). -/
def execFneg (f : FU) : State → Host.Outcome State Fault Refusal := issueAlu (shU f 1 1) (opFneg f)

/-- `fcpsgn` (R144): magnitude of a, sign of b. -/
def opFcpsgn : FA → Thread → Thread × DWord := opBin (fun a b => (a &&& 0x7FFFFFFF) ||| (b &&& 0x80000000))
/-- Meaning of `fcpsgn` (R144). -/
def execFcpsgn (f : FA) : State → Host.Outcome State Fault Refusal := issueAlu (shA f 1 1 1) (opFcpsgn f)

/-- `fma` (R145): a × b + d, one rounding. -/
def opFma : FA → Thread → Thread × DWord := opF3 (fun rm a b d => f32.fma rm false false a b d)
/-- Meaning of `fma` (R145). -/
def execFma (f : FA) : State → Host.Outcome State Fault Refusal := issueAlu (shAcc f 1 1 1) (opFma f)

/-- `fms` (R145): a × b − d, one rounding. -/
def opFms : FA → Thread → Thread × DWord := opF3 (fun rm a b d => f32.fma rm false true a b d)
/-- Meaning of `fms` (R145). -/
def execFms (f : FA) : State → Host.Outcome State Fault Refusal := issueAlu (shAcc f 1 1 1) (opFms f)

/-- `fnma` (R145): −(a × b) + d, one rounding. -/
def opFnma : FA → Thread → Thread × DWord := opF3 (fun rm a b d => f32.fma rm true false a b d)
/-- Meaning of `fnma` (R145). -/
def execFnma (f : FA) : State → Host.Outcome State Fault Refusal := issueAlu (shAcc f 1 1 1) (opFnma f)

/-- `fnms` (R145): −(a × b) − d, one rounding. -/
def opFnms : FA → Thread → Thread × DWord := opF3 (fun rm a b d => f32.fma rm true true a b d)
/-- Meaning of `fnms` (R145). -/
def execFnms (f : FA) : State → Host.Outcome State Fault Refusal := issueAlu (shAcc f 1 1 1) (opFnms f)

/-- `fmulH2` (R145): FP16 halves. -/
def opFmulH2 : FA → Thread → Thread × DWord := opH (fun rm a b _ => f16.mul rm a b)
/-- Meaning of `fmulH2` (R145). -/
def execFmulH2 (f : FA) : State → Host.Outcome State Fault Refusal := issueAlu (shAcc f 1 1 1) (opFmulH2 f)

/-- `faddH2` (R145): FP16 halves. -/
def opFaddH2 : FA → Thread → Thread × DWord := opH (fun rm a b _ => f16.add rm a b)
/-- Meaning of `faddH2` (R145). -/
def execFaddH2 (f : FA) : State → Host.Outcome State Fault Refusal := issueAlu (shAcc f 1 1 1) (opFaddH2 f)

/-- `fmaH2` (R145): FP16 halves. -/
def opFmaH2 : FA → Thread → Thread × DWord := opH (fun rm a b d => f16.fma rm false false a b d)
/-- Meaning of `fmaH2` (R145). -/
def execFmaH2 (f : FA) : State → Host.Outcome State Fault Refusal := issueAlu (shAcc f 1 1 1) (opFmaH2 f)

/-- `fmaB2` (R145): BF16 halves. -/
def opFmaB2 : FA → Thread → Thread × DWord := opH (fun rm a b d => bf16.fma rm false false a b d)
/-- Meaning of `fmaB2` (R145). -/
def execFmaB2 (f : FA) : State → Host.Outcome State Fault Refusal := issueAlu (shAcc f 1 1 1) (opFmaB2 f)

/-- `fcmpEq` (R146): FP32 compare. -/
def opFcmpEq : FP → Thread → Thread × DWord := opFcmp true (fun x y => x.eq y)
/-- Meaning of `fcmpEq` (R146). -/
def execFcmpEq (f : FP) : State → Host.Outcome State Fault Refusal := issueAlu (shP f) (opFcmpEq f)

/-- `fcmpNe` (R146): FP32 compare. -/
def opFcmpNe : FP → Thread → Thread × DWord := opFcmp true (fun x y => !x.eq y)
/-- Meaning of `fcmpNe` (R146). -/
def execFcmpNe (f : FP) : State → Host.Outcome State Fault Refusal := issueAlu (shP f) (opFcmpNe f)

/-- `fcmpLt` (R146): FP32 compare. -/
def opFcmpLt : FP → Thread → Thread × DWord := opFcmp false (fun x y => x.lt y)
/-- Meaning of `fcmpLt` (R146). -/
def execFcmpLt (f : FP) : State → Host.Outcome State Fault Refusal := issueAlu (shP f) (opFcmpLt f)

/-- `fcmpLe` (R146): FP32 compare. -/
def opFcmpLe : FP → Thread → Thread × DWord := opFcmp false (fun x y => x.lt y || x.eq y)
/-- Meaning of `fcmpLe` (R146). -/
def execFcmpLe (f : FP) : State → Host.Outcome State Fault Refusal := issueAlu (shP f) (opFcmpLe f)

/-- `fcmpGe` (R146): FP32 compare. -/
def opFcmpGe : FP → Thread → Thread × DWord := opFcmp false (fun x y => y.lt x || x.eq y)
/-- Meaning of `fcmpGe` (R146). -/
def execFcmpGe (f : FP) : State → Host.Outcome State Fault Refusal := issueAlu (shP f) (opFcmpGe f)

/-- `fcmpGt` (R146): FP32 compare. -/
def opFcmpGt : FP → Thread → Thread × DWord := opFcmp false (fun x y => y.lt x)
/-- Meaning of `fcmpGt` (R146). -/
def execFcmpGt (f : FP) : State → Host.Outcome State Fault Refusal := issueAlu (shP f) (opFcmpGt f)

/-- `fcmpUn` (R146): FP32 compare. -/
def opFcmpUn : FP → Thread → Thread × DWord := opFcmp true (fun x y => x.isNan || y.isNan)
/-- Meaning of `fcmpUn` (R146). -/
def execFcmpUn (f : FP) : State → Host.Outcome State Fault Refusal := issueAlu (shP f) (opFcmpUn f)

/-- `fcmpOrd` (R146): FP32 compare. -/
def opFcmpOrd : FP → Thread → Thread × DWord := opFcmp true (fun x y => !x.isNan && !y.isNan)
/-- Meaning of `fcmpOrd` (R146). -/
def execFcmpOrd (f : FP) : State → Host.Outcome State Fault Refusal := issueAlu (shP f) (opFcmpOrd f)

/-- `cvtF32S` (R147): signed integer to FP32. -/
def opCvtF32S : FU → Thread → Thread × DWord := opF1 (fun rm a => cvtFromInt rm (sgn 32 a))
/-- Meaning of `cvtF32S` (R147). -/
def execCvtF32S (f : FU) : State → Host.Outcome State Fault Refusal := issueAlu (shU f 1 1) (opCvtF32S f)

/-- `cvtSF32` (R147): FP32 to signed integer. -/
def opCvtSF32 : FU → Thread → Thread × DWord := opF1 (cvtToInt (-(2 ^ 31)) (2 ^ 31 - 1))
/-- Meaning of `cvtSF32` (R147). -/
def execCvtSF32 (f : FU) : State → Host.Outcome State Fault Refusal := issueAlu (shU f 1 1) (opCvtSF32 f)

/-- `cvtF32U` (R147): unsigned integer to FP32. -/
def opCvtF32U : FU → Thread → Thread × DWord := opF1 (fun rm a => cvtFromInt rm a)
/-- Meaning of `cvtF32U` (R147). -/
def execCvtF32U (f : FU) : State → Host.Outcome State Fault Refusal := issueAlu (shU f 1 1) (opCvtF32U f)

/-- `cvtUF32` (R147): FP32 to unsigned integer. -/
def opCvtUF32 : FU → Thread → Thread × DWord := opF1 (cvtToInt 0 (2 ^ 32 - 1))
/-- Meaning of `cvtUF32` (R147). -/
def execCvtUF32 (f : FU) : State → Host.Outcome State Fault Refusal := issueAlu (shU f 1 1) (opCvtUF32 f)

/-- `cvtF32F16` (R147): FP16 to FP32, exact. -/
def opCvtF32F16 : FU → Thread → Thread × DWord := opF1x (widen f16)
/-- Meaning of `cvtF32F16` (R147). -/
def execCvtF32F16 (f : FU) : State → Host.Outcome State Fault Refusal := issueAlu (shU f 1 1) (opCvtF32F16 f)

/-- `cvtF16F32` (R147): FP32 to FP16. -/
def opCvtF16F32 : FU → Thread → Thread × DWord := opF1 (fun rm a => f16.round rm (f32.decode a))
/-- Meaning of `cvtF16F32` (R147). -/
def execCvtF16F32 (f : FU) : State → Host.Outcome State Fault Refusal := issueAlu (shU f 1 1) (opCvtF16F32 f)

/-- `cvtF32Bf16` (R147): BF16 to FP32, exact. -/
def opCvtF32Bf16 : FU → Thread → Thread × DWord := opF1x (widen bf16)
/-- Meaning of `cvtF32Bf16` (R147). -/
def execCvtF32Bf16 (f : FU) : State → Host.Outcome State Fault Refusal := issueAlu (shU f 1 1) (opCvtF32Bf16 f)

/-- `cvtBf16F32` (R147): FP32 to BF16. -/
def opCvtBf16F32 : FU → Thread → Thread × DWord := opF1 (fun rm a => bf16.round rm (f32.decode a))
/-- Meaning of `cvtBf16F32` (R147). -/
def execCvtBf16F32 (f : FU) : State → Host.Outcome State Fault Refusal := issueAlu (shU f 1 1) (opCvtBf16F32 f)

/-- `frndNe` (R148): to an integral value. -/
def opFrndNe : FU → Thread → Thread × DWord := opF1x (frndTo .ne)
/-- Meaning of `frndNe` (R148). -/
def execFrndNe (f : FU) : State → Host.Outcome State Fault Refusal := issueAlu (shU f 1 1) (opFrndNe f)

/-- `frndZ` (R148): to an integral value. -/
def opFrndZ : FU → Thread → Thread × DWord := opF1x (frndTo .z)
/-- Meaning of `frndZ` (R148). -/
def execFrndZ (f : FU) : State → Host.Outcome State Fault Refusal := issueAlu (shU f 1 1) (opFrndZ f)

/-- `frndDn` (R148): to an integral value. -/
def opFrndDn : FU → Thread → Thread × DWord := opF1x (frndTo .dn)
/-- Meaning of `frndDn` (R148). -/
def execFrndDn (f : FU) : State → Host.Outcome State Fault Refusal := issueAlu (shU f 1 1) (opFrndDn f)

/-- `frndUp` (R148): to an integral value. -/
def opFrndUp : FU → Thread → Thread × DWord := opF1x (frndTo .up)
/-- Meaning of `frndUp` (R148). -/
def execFrndUp (f : FU) : State → Host.Outcome State Fault Refusal := issueAlu (shU f 1 1) (opFrndUp f)

/-- `fcls` (R148): class mask. -/
def opFcls : FU → Thread → Thread × DWord := opF1x (fun a => (classMask a, 0))
/-- Meaning of `fcls` (R148). -/
def execFcls (f : FU) : State → Host.Outcome State Fault Refusal := issueAlu (shU f 1 1) (opFcls f)

/-- `fldexp` (R148): a × 2^n. -/
def opFldexp : FA → Thread → Thread × DWord := opF2 ldexp
/-- Meaning of `fldexp` (R148). -/
def execFldexp (f : FA) : State → Host.Outcome State Fault Refusal := issueAlu (shA f 1 1 1) (opFldexp f)

/-- `fgetexp` (R148): the exponent. -/
def opFgetexp : FU → Thread → Thread × DWord := opF1x getExp
/-- Meaning of `fgetexp` (R148). -/
def execFgetexp (f : FU) : State → Host.Outcome State Fault Refusal := issueAlu (shU f 1 1) (opFgetexp f)

/-- `fgetman` (R148): the mantissa. -/
def opFgetman : FU → Thread → Thread × DWord := opF1x getMan
/-- Meaning of `fgetman` (R148). -/
def execFgetman (f : FU) : State → Host.Outcome State Fault Refusal := issueAlu (shU f 1 1) (opFgetman f)

/-- `addB2` (R149): packed halves. -/
def opAddB2 : FA → Thread → Thread × DWord := opH2x bf16.add
/-- Meaning of `addB2` (R149). -/
def execAddB2 (f : FA) : State → Host.Outcome State Fault Refusal := issueAlu (shA f 1 1 1) (opAddB2 f)

/-- `subB2` (R149): packed halves. -/
def opSubB2 : FA → Thread → Thread × DWord := opH2x bf16.sub
/-- Meaning of `subB2` (R149). -/
def execSubB2 (f : FA) : State → Host.Outcome State Fault Refusal := issueAlu (shA f 1 1 1) (opSubB2 f)

/-- `mulB2` (R149): packed halves. -/
def opMulB2 : FA → Thread → Thread × DWord := opH2x bf16.mul
/-- Meaning of `mulB2` (R149). -/
def execMulB2 (f : FA) : State → Host.Outcome State Fault Refusal := issueAlu (shA f 1 1 1) (opMulB2 f)

/-- `subH2` (R149): packed halves. -/
def opSubH2 : FA → Thread → Thread × DWord := opH2x f16.sub
/-- Meaning of `subH2` (R149). -/
def execSubH2 (f : FA) : State → Host.Outcome State Fault Refusal := issueAlu (shA f 1 1 1) (opSubH2 f)

/-- `minB2` (R149): packed halves. -/
def opMinB2 : FA → Thread → Thread × DWord := opHx (bf16.minmax false)
/-- Meaning of `minB2` (R149). -/
def execMinB2 (f : FA) : State → Host.Outcome State Fault Refusal := issueAlu (shA f 1 1 1) (opMinB2 f)

/-- `maxB2` (R149): packed halves. -/
def opMaxB2 : FA → Thread → Thread × DWord := opHx (bf16.minmax true)
/-- Meaning of `maxB2` (R149). -/
def execMaxB2 (f : FA) : State → Host.Outcome State Fault Refusal := issueAlu (shA f 1 1 1) (opMaxB2 f)

/-- `minH2` (R149): packed halves. -/
def opMinH2 : FA → Thread → Thread × DWord := opHx (f16.minmax false)
/-- Meaning of `minH2` (R149). -/
def execMinH2 (f : FA) : State → Host.Outcome State Fault Refusal := issueAlu (shA f 1 1 1) (opMinH2 f)

/-- `maxH2` (R149): packed halves. -/
def opMaxH2 : FA → Thread → Thread × DWord := opHx (f16.minmax true)
/-- Meaning of `maxH2` (R149). -/
def execMaxH2 (f : FA) : State → Host.Outcome State Fault Refusal := issueAlu (shA f 1 1 1) (opMaxH2 f)

/-- `npkE4m3` (R151): 4 values into codes. -/
def opNpkE4m3 : FA → Thread → Thread × DWord := opNpk .e4m3 4
/-- Meaning of `npkE4m3` (R151). -/
def execNpkE4m3 (f : FA) : State → Host.Outcome State Fault Refusal := issueAlu (shNpk f 4) (opNpkE4m3 f)

/-- `npkE5m2` (R151): 4 values into codes. -/
def opNpkE5m2 : FA → Thread → Thread × DWord := opNpk .e5m2 4
/-- Meaning of `npkE5m2` (R151). -/
def execNpkE5m2 (f : FA) : State → Host.Outcome State Fault Refusal := issueAlu (shNpk f 4) (opNpkE5m2 f)

/-- `npkE3m2` (R151): 5 values into codes. -/
def opNpkE3m2 : FA → Thread → Thread × DWord := opNpk .e3m2 5
/-- Meaning of `npkE3m2` (R151). -/
def execNpkE3m2 (f : FA) : State → Host.Outcome State Fault Refusal := issueAlu (shNpk f 5) (opNpkE3m2 f)

/-- `npkE2m3` (R151): 5 values into codes. -/
def opNpkE2m3 : FA → Thread → Thread × DWord := opNpk .e2m3 5
/-- Meaning of `npkE2m3` (R151). -/
def execNpkE2m3 (f : FA) : State → Host.Outcome State Fault Refusal := issueAlu (shNpk f 5) (opNpkE2m3 f)

/-- `npkE2m1` (R151): 8 values into codes. -/
def opNpkE2m1 : FA → Thread → Thread × DWord := opNpk .e2m1 8
/-- Meaning of `npkE2m1` (R151). -/
def execNpkE2m1 (f : FA) : State → Host.Outcome State Fault Refusal := issueAlu (shNpk f 8) (opNpkE2m1 f)

/-- `npkI8` (R151): 4 values into codes. -/
def opNpkI8 : FA → Thread → Thread × DWord := opNpk .i8 4
/-- Meaning of `npkI8` (R151). -/
def execNpkI8 (f : FA) : State → Host.Outcome State Fault Refusal := issueAlu (shNpk f 4) (opNpkI8 f)

/-- `npkI4` (R151): 8 values into codes. -/
def opNpkI4 : FA → Thread → Thread × DWord := opNpk .i4 8
/-- Meaning of `npkI4` (R151). -/
def execNpkI4 (f : FA) : State → Host.Outcome State Fault Refusal := issueAlu (shNpk f 8) (opNpkI4 f)

/-- `nupE4m3` (R152): 4 codes into BF16 values. -/
def opNupE4m3 : FA → Thread → Thread × DWord := opNup .e4m3 4
/-- Meaning of `nupE4m3` (R152). -/
def execNupE4m3 (f : FA) : State → Host.Outcome State Fault Refusal := issueAlu (shNup f 2) (opNupE4m3 f)

/-- `nupE5m2` (R152): 4 codes into BF16 values. -/
def opNupE5m2 : FA → Thread → Thread × DWord := opNup .e5m2 4
/-- Meaning of `nupE5m2` (R152). -/
def execNupE5m2 (f : FA) : State → Host.Outcome State Fault Refusal := issueAlu (shNup f 2) (opNupE5m2 f)

/-- `nupE3m2` (R152): 5 codes into BF16 values. -/
def opNupE3m2 : FA → Thread → Thread × DWord := opNup .e3m2 5
/-- Meaning of `nupE3m2` (R152). -/
def execNupE3m2 (f : FA) : State → Host.Outcome State Fault Refusal := issueAlu (shNup f 3) (opNupE3m2 f)

/-- `nupE2m3` (R152): 5 codes into BF16 values. -/
def opNupE2m3 : FA → Thread → Thread × DWord := opNup .e2m3 5
/-- Meaning of `nupE2m3` (R152). -/
def execNupE2m3 (f : FA) : State → Host.Outcome State Fault Refusal := issueAlu (shNup f 3) (opNupE2m3 f)

/-- `nupE2m1` (R152): 8 codes into BF16 values. -/
def opNupE2m1 : FA → Thread → Thread × DWord := opNup .e2m1 8
/-- Meaning of `nupE2m1` (R152). -/
def execNupE2m1 (f : FA) : State → Host.Outcome State Fault Refusal := issueAlu (shNup f 4) (opNupE2m1 f)

/-- `nupI8` (R152): 4 codes into BF16 values. -/
def opNupI8 : FA → Thread → Thread × DWord := opNup .i8 4
/-- Meaning of `nupI8` (R152). -/
def execNupI8 (f : FA) : State → Host.Outcome State Fault Refusal := issueAlu (shNup f 2) (opNupI8 f)

/-- `nupI4` (R152): 8 codes into BF16 values. -/
def opNupI4 : FA → Thread → Thread × DWord := opNup .i4 8
/-- Meaning of `nupI4` (R152). -/
def execNupI4 (f : FA) : State → Host.Outcome State Fault Refusal := issueAlu (shNup f 4) (opNupI4 f)

/-- `dot4E4` (R153): 4 × E4M3. -/
def opDot4E4 : FA → Thread → Thread × DWord := opDot e4m3.decode 8 4
/-- Meaning of `dot4E4` (R153). -/
def execDot4E4 (f : FA) : State → Host.Outcome State Fault Refusal := issueAlu (shAcc f 1 1 1) (opDot4E4 f)

/-- `dot4E5` (R153): 4 × E5M2. -/
def opDot4E5 : FA → Thread → Thread × DWord := opDot e5m2.decode 8 4
/-- Meaning of `dot4E5` (R153). -/
def execDot4E5 (f : FA) : State → Host.Outcome State Fault Refusal := issueAlu (shAcc f 1 1 1) (opDot4E5 f)

/-- `dot8F4` (R153): 8 × E2M1. -/
def opDot8F4 : FA → Thread → Thread × DWord := opDot e2m1.decode 4 8
/-- Meaning of `dot8F4` (R153). -/
def execDot8F4 (f : FA) : State → Host.Outcome State Fault Refusal := issueAlu (shAcc f 1 1 1) (opDot8F4 f)

/-- `dot4I8` (R153): 4 × INT8. -/
def opDot4I8 : FA → Thread → Thread × DWord := opDotI 8 4
/-- Meaning of `dot4I8` (R153). -/
def execDot4I8 (f : FA) : State → Host.Outcome State Fault Refusal := issueAlu (shAcc f 1 1 1) (opDot4I8 f)

/-- `dot8I4` (R153): 8 × INT4. -/
def opDot8I4 : FA → Thread → Thread × DWord := opDotI 4 8
/-- Meaning of `dot8I4` (R153). -/
def execDot8I4 (f : FA) : State → Host.Outcome State Fault Refusal := issueAlu (shAcc f 1 1 1) (opDot8I4 f)

/-- `dot2B2` (R153): 2 × BF16. -/
def opDot2B2 : FA → Thread → Thread × DWord := opDot bf16.decode 16 2
/-- Meaning of `dot2B2` (R153). -/
def execDot2B2 (f : FA) : State → Host.Outcome State Fault Refusal := issueAlu (shAcc f 1 1 1) (opDot2B2 f)

/-- `dot2H2` (R153): 2 × FP16. -/
def opDot2H2 : FA → Thread → Thread × DWord := opDot f16.decode 16 2
/-- Meaning of `dot2H2` (R153). -/
def execDot2H2 (f : FA) : State → Host.Outcome State Fault Refusal := issueAlu (shAcc f 1 1 1) (opDot2H2 f)

/-- `dot2B2f` (R153): 2 × BF16, flushing. -/
def opDot2B2f : FA → Thread → Thread × DWord := opDotFlush
/-- Meaning of `dot2B2f` (R153). -/
def execDot2B2f (f : FA) : State → Host.Outcome State Fault Refusal := issueAlu (shAcc f 1 1 1) (opDot2B2f f)

/-- `scl` (R159): magnitude to E8M0 scale. -/
def opScl : FA → Thread → Thread × DWord := opFx sclOf
/-- Meaning of `scl` (R159). -/
def execScl (f : FA) : State → Host.Outcome State Fault Refusal := issueAlu (shA f 1 1 1) (opScl f)

/-- `mask` (R165): MASK where B is not 0. -/
def opMask : FA → Thread → Thread × DWord := opBin (fun a b => if b = 0 then a else maskCode)
/-- Meaning of `mask` (R165). -/
def execMask (f : FA) : State → Host.Outcome State Fault Refusal := issueAlu (shA f 1 1 1) (opMask f)

/-- `exp` (R162): special function. -/
def opExp : FSf → Thread → Thread × DWord := opSf .exp
/-- Meaning of `exp` (R162). -/
def execExp (f : FSf) : State → Host.Outcome State Fault Refusal := issueAlu (shSf f) (opExp f)

/-- `exp2` (R162): special function. -/
def opExp2 : FSf → Thread → Thread × DWord := opSf .exp2
/-- Meaning of `exp2` (R162). -/
def execExp2 (f : FSf) : State → Host.Outcome State Fault Refusal := issueAlu (shSf f) (opExp2 f)

/-- `ln` (R162): special function. -/
def opLn : FSf → Thread → Thread × DWord := opSf .ln
/-- Meaning of `ln` (R162). -/
def execLn (f : FSf) : State → Host.Outcome State Fault Refusal := issueAlu (shSf f) (opLn f)

/-- `log2` (R162): special function. -/
def opLog2 : FSf → Thread → Thread × DWord := opSf .log2
/-- Meaning of `log2` (R162). -/
def execLog2 (f : FSf) : State → Host.Outcome State Fault Refusal := issueAlu (shSf f) (opLog2 f)

/-- `rcp` (R162): special function. -/
def opRcp : FSf → Thread → Thread × DWord := opSf .rcp
/-- Meaning of `rcp` (R162). -/
def execRcp (f : FSf) : State → Host.Outcome State Fault Refusal := issueAlu (shSf f) (opRcp f)

/-- `rsqrt` (R162): special function. -/
def opRsqrt : FSf → Thread → Thread × DWord := opSf .rsqrt
/-- Meaning of `rsqrt` (R162). -/
def execRsqrt (f : FSf) : State → Host.Outcome State Fault Refusal := issueAlu (shSf f) (opRsqrt f)

/-- `sqrt` (R162): special function. -/
def opSqrt : FSf → Thread → Thread × DWord := opSf .sqrt
/-- Meaning of `sqrt` (R162). -/
def execSqrt (f : FSf) : State → Host.Outcome State Fault Refusal := issueAlu (shSf f) (opSqrt f)

/-- `erf` (R162): special function. -/
def opErf : FSf → Thread → Thread × DWord := opSf .erf
/-- Meaning of `erf` (R162). -/
def execErf (f : FSf) : State → Host.Outcome State Fault Refusal := issueAlu (shSf f) (opErf f)

/-- `tanh` (R162): special function. -/
def opTanh : FSf → Thread → Thread × DWord := opSf .tanh
/-- Meaning of `tanh` (R162). -/
def execTanh (f : FSf) : State → Host.Outcome State Fault Refusal := issueAlu (shSf f) (opTanh f)

/-- `sigm` (R162): special function. -/
def opSigm : FSf → Thread → Thread × DWord := opSf .sigm
/-- Meaning of `sigm` (R162). -/
def execSigm (f : FSf) : State → Host.Outcome State Fault Refusal := issueAlu (shSf f) (opSigm f)

/-- `gelu` (R162): special function. -/
def opGelu : FSf → Thread → Thread × DWord := opSf .gelu
/-- Meaning of `gelu` (R162). -/
def execGelu (f : FSf) : State → Host.Outcome State Fault Refusal := issueAlu (shSf f) (opGelu f)

/-- `silu` (R162): special function. -/
def opSilu : FSf → Thread → Thread × DWord := opSf .silu
/-- Meaning of `silu` (R162). -/
def execSilu (f : FSf) : State → Host.Outcome State Fault Refusal := issueAlu (shSf f) (opSilu f)

/-- `sin` (R162): special function. -/
def opSin : FSf → Thread → Thread × DWord := opSf .sin
/-- Meaning of `sin` (R162). -/
def execSin (f : FSf) : State → Host.Outcome State Fault Refusal := issueAlu (shSf f) (opSin f)

/-- `cos` (R162): special function. -/
def opCos : FSf → Thread → Thread × DWord := opSf .cos
/-- Meaning of `cos` (R162). -/
def execCos (f : FSf) : State → Host.Outcome State Fault Refusal := issueAlu (shSf f) (opCos f)

/-- The codebook that a thread's core holds for its context (R161). -/
def State.codebook (s : State) (t : Thread) : FMap Word := (s.cores.get (s.coreOf t)).codebooks.get t.ctx

/-- Meaning of `kc2.dec.lo` (R160). -/
def execKc2DecLo (f : FU) (s : State) : Host.Outcome State Fault Refusal :=
  issueAlu (shU f 1 1) (opKc2 (s.codebook (s.thr s.cur)) 0 f) s
/-- Meaning of `kc2.dec.hi` (R160). -/
def execKc2DecHi (f : FU) (s : State) : Host.Outcome State Fault Refusal :=
  issueAlu (shU f 1 1) (opKc2 (s.codebook (s.thr s.cur)) 1 f) s
/-- Meaning of `tbl` (R163): the active bank of the thread's core. -/
def execTbl (f : FSf) (s : State) : Host.Outcome State Fault Refusal :=
  issueAlu (shSf f) (opTbl (s.cores.get (s.coreOf (s.thr s.cur))).tblAct f) s

/-- Meaning of `tbl.rd` (R164). -/
def execTblRd (f : FA) (s : State) : Host.Outcome State Fault Refusal :=
  issue (shA f 1 1 1) (fun s =>
    let t := s.thr s.cur
    let o := (t.src32 f.lit f.a).toNat
    let b := t.src32 f.lit f.b
    let c := s.cores.get (s.coreOf t)
    if 2060 < o ∨ o % 4 ≠ 0 ∨ (b ≠ 0 ∧ b ≠ 1) then .fault codeField 0 0
    else
      let r := res32 t f.nw f.d (BitVec.ofNat 32 (bankWord (if b = 0 then c.tblAct else c.tblShd) o))
      .done (s.setThr s.cur r.1) r.2) s

/-- Whether some thread of core `c` has a `tbl.ld` that has not completed (R164). -/
def State.tblLoading (s : State) (c : Nat) : Bool :=
  s.threads.any (fun e => e.2.live && e.2.tblLd && s.coreOf e.2 == c)

/-- Meaning of `tbl.ld` (R164): the 2,064-byte image into the shadow bank, which the thread's context then owns (R163). -/
def execTblLd (f : FA1) (s : State) : Host.Outcome State Fault Refusal :=
  issue (shA1 f 2 0) (fun s =>
    let t := s.thr s.cur
    let va := t.src64 f.lit f.a
    if va.toNat % 16 ≠ 0 then .fault codeAddr 0 va
    else
      let s' := s.modThr s.cur (fun t => { t with tblLd := true })
      s'.withBytes s.cur va 2064 (fun bs =>
        .done ((s.modCore (s.coreOf t) (fun c => { c with tblShd := Memory.write c.tblShd 0 bs, tblOwner := some t.ctx })).modThr s.cur
          (fun t => { t with tblLd := false })) 0)) s

/-- Meaning of `tbl.sw` (R164): waits for every `tbl.ld` of the core, then swaps the banks. -/
def execTblSw (f : FG) (s : State) : Host.Outcome State Fault Refusal :=
  issue (shG f 0) (fun s =>
    let c := s.coreOf (s.thr s.cur)
    if s.tblLoading c then .wait s .loads
    else .done (s.modCore c (fun c => { c with tblAct := c.tblShd, tblShd := c.tblAct })) 0) s

/-- Meaning of `cb.ld` (R161): n entries from the memory at A change as one event. -/
def execCbLd (f : FAB) (s : State) : Host.Outcome State Fault Refusal :=
  issue (shAB f 2 1 0) (fun s =>
    let t := s.thr s.cur
    let b := (t.src32 f.lit f.b).toNat
    let first := bits b 0 8
    let n := bits b 8 8 + 1
    if 256 < first + n then .fault codeField 0 0
    else s.withBytes s.cur (t.src64 f.lit f.a) (4 * n) (fun bs =>
      .done (s.modCore (s.coreOf t) (fun c => { c with codebooks := c.codebooks.modify t.ctx (fun m =>
        m.setMany first ((List.range n).map (fun i => BitVec.ofNat 32 (leNat ((bs.drop (4 * i)).take 4))))) })) 0)) s

end Sys2Proof.Machine
end

