-- ==== Sys2Proof/Machine/Control.lean ====
section
/-! DEFINITION. Control transfer, the call stack, ending, trapping, capture hints, creating and moving threads, and special
registers (02_integer_control.md R79 to R92, 03_memory_system_instructions.md R133, 08_trellis.md R295, R296 and R300). -/

namespace Sys2Proof.Machine

/-- Whether a control transfer to `v` passes the check of R79. -/
def targetOk (v : DWord) : Bool := v.toNat / 2 ^ 60 == 0

/-- An address with bits [1:0] cleared (R27). -/
def aligned4 (v : DWord) : DWord := v &&& ~~~3#64

/-- A transfer to `v` from the state `s`, under R79. -/
def transfer (s : State) (v : DWord) : Eff := if targetOk v then .jump s v else .fault codeAddr 0 v

/-! ### The loop monitor -/

/-- The count of a loop head (R295); 0 where the monitor holds no entry. -/
def Core.hotCount (c : Core) (x : Nat) (h : DWord) : Nat :=
  match c.monitor.find? (fun e => e.ctx == x && e.head == h) with
  | some e => e.count
  | none => 0

/-- Set the count of a head, replacing the least recently used of 64 entries (R295). -/
def Core.setHot (c : Core) (x : Nat) (h : DWord) (n : Nat) : Core :=
  { c with monitor := (⟨x, h, min n 65535⟩ :: c.monitor.filter (fun e => !(e.ctx == x && e.head == h))).take 64 }

/-- The value of `hotthr` (R25). -/
def Ctx.hotthr (x : Ctx) : Nat := (64 + x.hotthrOff).toNat

/-- The capture of (context, head) that is resident on a core (R300). -/
def Grid.captureOf (g : Grid) (x : Nat) (h : DWord) : Option Cfg :=
  g.cfgs.find? (fun c => c.captured && c.ctx == x && c.head == h)

/-- Count a taken backward branch of the thread's peloton, once for each issue (R295). -/
def State.countBranch (s : State) (t : Thread) (h : DWord) : State :=
  if s.counted.contains (t.ctx, h) then s
  else { s.modCore (s.coreOf t) (fun c => c.setHot t.ctx h (c.hotCount t.ctx h + 1)) with counted := s.counted ++ [(t.ctx, h)] }

/-- Whether a thread may enter the grid at all (R300): not inhibited, and no stochastic rounding. -/
def Thread.mayEnter (t : Thread) : Bool := !t.nocap && t.fpcr.toNat % 8 != 5

/-- Whether a body is the one that the peloton of thread `t` records (R299): its first thread issued with `t`. -/
def Body.records (b : Body) (s : State) (core : Nat) (t : Thread) (h : DWord) : Bool :=
  b.core == core && b.ctx == t.ctx && b.head == h && (match b.threads with
    | v :: _ => (s.thr v).packed == t.packed
    | [] => false)

/-- A taken backward branch at `pc` to `h` (R295, R296, R299, R300): it is counted; threads of the issue that records the body, and
those that find the loop resident, wait at the branch; every other thread takes it. -/
def backBranch (h : DWord) (s : State) : Eff :=
  let u := s.cur
  let t := s.thr u
  let core := s.coreOf t
  let fresh := !s.counted.contains (t.ctx, h)
  let s1 := (s.countBranch t h).modThr u (fun t => { t with hotHead := some h })
  if isService core then .jump s1 h
  else match (s.grids.get core).captureOf t.ctx h with
    | some c => if c.stage == .run && t.mayEnter then .wait s1 .capture else .jump s1 h
    | none =>
      if (s.cores.get core).failed.contains (t.ctx, h) then .jump s1 h
      else if s1.bodies.any (fun b => b.core == core && b.ctx == t.ctx && b.head == h) then
        if fresh || !s1.bodies.any (fun b => b.records s1 core t h) then .jump s1 h
        else .wait { s1 with bodies := s1.bodies.map (fun b => if b.records s1 core t h then { b with threads := b.threads ++ [u] } else b) } .capture
      else if fresh && decide ((s.ctxs.get t.ctx).hotthr ≤ (s1.cores.get core).hotCount t.ctx h) then
        .wait { s1 with bodies := s1.bodies ++ [⟨core, t.ctx, h, t.pc, [u], s.clk core⟩] } .capture
      else .jump s1 h

/-! ### Branches and calls -/

/-- The target of a J-format word (R34, R80). -/
def jTarget (t : Thread) (o : BitVec 22) : DWord := t.pc + o.signExtend 64 * 4

/-- Meaning of `br` (R80). -/
def execBr (f : FJ) : State → Host.Outcome State Fault Refusal :=
  issue (shJ f) (fun s =>
    let t := s.thr s.cur
    let v := jTarget t f.o
    if !targetOk v then .fault codeAddr 0 v
    else if v.toNat ≤ t.pc.toNat then backBranch v s
    else .jump s v)

/-- A call to `v` from an instruction of `len` bytes (R80 to R83): the target's check, then the push, then the transfer. -/
def callEff (v : DWord) (len : Nat) (s : State) : Eff :=
  if !targetOk v then .fault codeAddr 0 v
  else match s.push s.cur ((s.thr s.cur).pc + BitVec.ofNat 64 len) true with
    | .done s' => .jump s' v
    | .blocked w => .wait s w
    | .bad c va => .fault c 0 va

/-- Meaning of `call` (R80). -/
def execCall (f : FJ) : State → Host.Outcome State Fault Refusal :=
  issue (shJ f) (fun s => callEff (jTarget (s.thr s.cur) f.o) 4 s)

/-- Meaning of `brx` (R81). -/
def execBrx (f : FA1) : State → Host.Outcome State Fault Refusal :=
  issue (shA1 f 2 0) (fun s => transfer s (aligned4 ((s.thr s.cur).src64 f.lit f.a)))

/-- Meaning of `callx` (R81). -/
def execCallx (f : FA1) : State → Host.Outcome State Fault Refusal :=
  issue (shA1 f 2 0) (fun s => callEff (aligned4 ((s.thr s.cur).src64 f.lit f.a)) (shA1 f 2 0).len s)

/-- End thread `u` (R84): its loads are abandoned, its slot and stack area are free, and numbered barriers see it depart. -/
def State.endThread (s : State) (u : Nat) : State :=
  (s.modThr u (fun t => { t.breakLatches with
    live := false, exited := true, loads := [], cs := [], csSp := 0, wait := .none, pend := none, bulk := none, mrun := none })).nbDepart
    (s.thr u).plot

/-- The address and length of a fill of the call stack (R82). -/
def Thread.fillAddr (t : Thread) : DWord := t.sbase + BitVec.ofNat 64 (8 * (t.csSp - 2))

/-- Older and newer entry of a fill. -/
def fillPair (bs : List Byte) : DWord × DWord := (BitVec.ofNat 64 (leNat (bs.take 8)), BitVec.ofNat 64 (leNat (bs.drop 8)))

/-- Meaning of `ret` (R81 to R83). -/
def execRet (f : FG) : State → Host.Outcome State Fault Refusal :=
  issue (shG f 0) (fun s =>
    let t := s.thr s.cur
    match t.cs with
    | v :: r => transfer (s.setThr s.cur { t with cs := r }) (aligned4 v)
    | [] =>
      if t.csSp = 0 then .gone (s.endThread s.cur)
      else s.withPair s.cur t.fillAddr (fun bs =>
        transfer (s.setThr s.cur { t with cs := [(fillPair bs).1], csSp := t.csSp - 2 }) (aligned4 (fillPair bs).2)))

/-- Meaning of `tret` (R133). -/
def execTret (f : FG) : State → Host.Outcome State Fault Refusal :=
  issue (shG f 0) (fun s =>
    let t := s.thr s.cur
    match t.cs with
    | v :: _ :: r => transfer (s.setThr s.cur { t with cs := r }) (aligned4 v)
    | r =>
      if r.length + t.csSp < 2 then .gone (s.endThread s.cur)
      else s.withPair s.cur t.fillAddr (fun bs =>
        match r with
        | v :: _ => transfer (s.setThr s.cur { t with cs := [(fillPair bs).1], csSp := t.csSp - 2 }) (aligned4 v)
        | [] => transfer (s.setThr s.cur { t with cs := [], csSp := t.csSp - 2 }) (aligned4 (fillPair bs).2)))

/-- Meaning of `exit` (R81, R84). -/
def execExit (f : FG) : State → Host.Outcome State Fault Refusal :=
  issue (shG f 0) (fun s => .gone (s.endThread s.cur))

/-! ### Yield, sleep, hints and traps -/

/-- The effect of `yield` (R81, R216). -/
def yieldEff (s : State) : Eff := .done (s.modThr s.cur (fun t => { t with age := s.time + 1 })) 0

/-- Meaning of `yield` (R81). -/
def execYield (f : FG) : State → Host.Outcome State Fault Refusal := issue (shG f 0) yieldEff

/-- Meaning of `sleep` (R81). -/
def execSleep (f : FA1) : State → Host.Outcome State Fault Refusal :=
  issue (shA1 f 1 0) (fun s =>
    let t := s.thr s.cur
    let n := min (t.src32 f.lit f.a).toNat 0xFFFFFF
    if n = 0 then yieldEff s else .rest s (.sleep (s.after (s.coreOf t) n)))

/-- Meaning of `nop` (R81). -/
def execNop (f : FG) : State → Host.Outcome State Fault Refusal := issue (shG f 0) (fun s => .done s 0)

/-- Meaning of `hot` (R86). -/
def execHot (f : FG) : State → Host.Outcome State Fault Refusal :=
  issue (shG f 0) (fun s =>
    let t := s.thr s.cur
    .done (s.modCore (s.coreOf t) (fun c => c.setHot t.ctx (t.pc + 4) (s.ctxs.get t.ctx).hotthr)) 0)

/-- Meaning of `nocap` (R87). -/
def execNocap (f : FG) : State → Host.Outcome State Fault Refusal :=
  issue (shG f 0) (fun s => .done (s.modThr s.cur (fun t => { t with nocap := true })) 0)

/-- Meaning of `capok` (R87). -/
def execCapok (f : FG) : State → Host.Outcome State Fault Refusal :=
  issue (shG f 0) (fun s => .done (s.modThr s.cur (fun t => { t with nocap := false })) 0)

/-- Meaning of `trap` (R85). -/
def execTrap (f : FA1) : State → Host.Outcome State Fault Refusal :=
  issue (shA1 f 1 0) (fun s => .user (((s.thr s.cur).src32 f.lit f.a).toNat % 65536))

/-! ### Spawning -/

/-- Children pending on a core (R89). -/
def State.pending (s : State) (core : Nat) : Nat :=
  s.plots.foldl (fun n e => if e.2.live && e.2.resident && e.2.core == core then n + e.2.bins.foldl (fun k b => k + b.kids.length) 0 else n) 0

/-- Threads that a launch record asks for (R235). -/
def Launch.threads (l : Launch) : Nat := leNat ((l.record.drop 8).take 4)

/-- Whether the launch has handed out every spawned id (R89). -/
def Launch.idsOut (l : Launch) : Bool := decide (0xFFFFFFFD < l.threads + l.spawned)

/-- The value of `bintmr` (R25). -/
def Plot.bintmr (p : Plot) : Nat := (256 + p.bintmrOff).toNat

/-- File a child in the bin of its entry, whose timer starts when the bin was empty (R224). -/
def Plot.file (p : Plot) (entry : DWord) (k : Child) (ends : Nat) : Plot :=
  if p.bins.any (fun b => b.entry == entry) then
    { p with bins := p.bins.map (fun b => if b.entry == entry then { b with kids := b.kids ++ [k] } else b) }
  else { p with bins := p.bins ++ [⟨entry, ends, [k]⟩] }

/-- Create a child of thread `u` (R88, R89). -/
def State.spawnChild (s : State) (u : Nat) (entry : DWord) (arg : Word) : State :=
  let t := s.thr u
  let p := s.plotOf t
  let l := s.launches.get p.launch
  let k : Child := ⟨BitVec.ofNat 32 (l.threads + l.spawned), arg, t.arr.get 0⟩
  (s.modPlot t.plot (fun p => p.file entry k (s.after p.core p.bintmr))).modLaunch p.launch
    (fun l => { l with spawned := l.spawned + 1 })

/-- `spawn` and `spawn.w` (R88). -/
def spawnEff (wait : Bool) (f : FP) (s : State) : Eff :=
  let t := s.thr s.cur
  let entry := aligned4 (t.src64 f.lit f.a)
  let arg := t.src32 f.lit f.b
  if !targetOk entry then .fault codeAddr 0 entry
  else if !s.fenceOk t 2 then .wait s .fence
  else if (s.launches.get (s.plotOf t).launch).idsOut then .done (s.setThr s.cur (t.wrp f.nw f.p false)) 0
  else if s.pending (s.coreOf t) < 1024 then .done ((s.spawnChild s.cur entry arg).modThr s.cur (fun t => t.wrp f.nw f.p true)) 0
  else if wait then .wait s (.queue ((if t.wait = .fence then t.sinceC else s.clk (s.coreOf t)) + 65536000)
    ⟨entry, arg, f.p, f.nw, t.pc + BitVec.ofNat 64 (shSpawn f).len⟩)
  else .done (s.setThr s.cur (t.wrp f.nw f.p false)) 0

/-- Meaning of `spawn` (R88). -/
def execSpawn (f : FP) : State → Host.Outcome State Fault Refusal := issue (shSpawn f) (spawnEff false f)

/-- Meaning of `spawn.w` (R88). -/
def execSpawnW (f : FP) : State → Host.Outcome State Fault Refusal := issue (shSpawn f) (spawnEff true f)

/-! ### Regroup -/

/-- File thread `u` in the regroup bin of (pc, v) (R90, R228). -/
def Plot.fileR (p : Plot) (pc : DWord) (v : Word) (u ends : Nat) : Plot :=
  if p.rbins.any (fun b => b.pc == pc && b.val == v) then
    { p with rbins := p.rbins.map (fun b => if b.pc == pc && b.val == v then { b with members := b.members ++ [u] } else b) }
  else { p with rbins := p.rbins ++ [⟨pc, v, ends, [u]⟩] }

/-- Meaning of `regroup` (R90). -/
def execRegroup (f : FA1) : State → Host.Outcome State Fault Refusal :=
  issue (shA1 f 1 0) (fun s =>
    let t := s.thr s.cur
    .rest (s.modPlot t.plot (fun p => p.fileR (t.pc + BitVec.ofNat 64 (shA1 f 1 0).len) (t.src32 f.lit f.a) s.cur
      (s.after p.core p.bintmr))) .bin)

/-! ### Launching -/

/-- The next launch id of a context (R91): ids run from 1 to 2^32 − 1. -/
def Ctx.nextId (x : Ctx) : Nat := x.ids % (2 ^ 32 - 1) + 1

/-- Key of launch `id` of context `x`. -/
def launchKey (x id : Nat) : Nat := x * 2 ^ 32 + id

/-- Create a launch from a complete record (R91, R233, R239). -/
def State.newLaunch (s : State) (x home : Nat) (record : List Byte) (addr : DWord) (pav : Option Nat) : State :=
  let id := (s.ctxs.get x).nextId
  let cls := bits (leNat ((record.drop 20).take 4)) 0 2
  let l : Launch := { (default : Launch) with
    stage := .queued, ctx := x, id := id, record := record, recAddr := addr, home := home, pav := pav,
    arrival := s.time, cls := cls, clsSince := s.time }
  (s.modCtx x (fun c => { c with ids := c.ids + 1 })).modLaunch (launchKey x id) (fun _ => l)

/-- Meaning of `lnch` (R91); a service core has none (R397), which it finds in the effect (DEDUCED, notes/assumptions/104.md). -/
def execLnch (f : FU) : State → Host.Outcome State Fault Refusal :=
  issue (shDU f 2) (fun s =>
    let t := s.thr s.cur
    let va := t.src64 f.lit f.a
    let d := dieOf (s.coreOf t)
    if isService (s.coreOf t) then .fault codeOp 0 0
    else if va.toNat % 128 ≠ 0 ∨ 2 ≤ va.toNat / 2 ^ 60 then .fault codeAddr 0 va
    else if !s.fenceOk t 2 then .wait s .fence
    else if 64 ≤ (s.dies.get d).internal.length then .done (s.setThr s.cur (t.wr32 f.nw f.d 0)) 0
    else s.withBytes s.cur va 128 (fun bs =>
      let id := (s.ctxs.get t.ctx).nextId
      let s1 := (s.newLaunch t.ctx d bs va none).modDie d (fun q => { q with internal := q.internal ++ [launchKey t.ctx id] })
      .done (s1.modThr s.cur (fun t => t.wr32 f.nw f.d (BitVec.ofNat 32 id))) 0))

/-! ### Special registers -/

/-- The k-th further group of a thread (R24). -/
def Thread.grp (t : Thread) (k : Nat) : Word := BitVec.ofNat 32 (t.grps.getD k 0xFFFFFFFF)

/-- The value of special register `n` for thread `t` (R24). -/
def State.sreg (s : State) (t : Thread) (n : Nat) : DWord :=
  let p := s.plotOf t
  let l := s.launches.get p.launch
  let w (x : Word) : DWord := x.setWidth 64
  if n = 0 then w t.tid
  else if n = 1 then BitVec.ofNat 64 (t.slot % 32)
  else if n = 2 then BitVec.ofNat 64 p.num
  else if n = 3 then BitVec.ofNat 64 (p.core % 160)
  else if n = 4 then BitVec.ofNat 64 p.vdie
  else if n = 5 then BitVec.ofNat 64 t.slot
  else if n = 8 then 0
  else if n ≤ 0xB then w (t.grp (n - 9))
  else if n = 0x10 then BitVec.ofNat 64 (s.time % 2 ^ 32)
  else if n = 0x11 then BitVec.ofNat 64 (s.time / 2 ^ 32 % 2 ^ 32)
  else if n = 0x12 then BitVec.ofNat 64 s.time
  else if n = 0x14 then BitVec.ofInt 64 (s.ctxs.get t.ctx).pannier
  else if n = 0x16 then BitVec.ofNat 64 l.id
  else if n = 0x17 then w t.spawnArg
  else if n = 0x18 then p.argp
  else match t.hotHead with
    | some h => BitVec.ofNat 64 ((s.cores.get p.core).hotCount t.ctx h)
    | none => 0

/-- Meaning of `srd` (R24, R92). -/
def execSrd (f : FS) : State → Host.Outcome State Fault Refusal :=
  issue (shSrd f) (fun s =>
    let t := s.thr s.cur
    let v := s.sreg t f.n.toNat
    .done (s.setThr s.cur (if srWidth f.n.toNat = some 2 then t.wr64 false f.d v else t.wr32 false f.d v.lo)) 0)

end Sys2Proof.Machine
end

