-- ==== Sys2Proof/Machine/Pannier.lean ====
section
/-! DEFINITION. What an empty Pannier brings about (11_package.md R415). -/

namespace Sys2Proof.Machine

/-- Whether context `x` has a resident plot on die `d`. -/
def State.onDie (s : State) (x d : Nat) : Bool :=
  s.plots.any (fun e => e.2.live && e.2.resident && e.2.ctx == x && !isService e.2.core && dieOf e.2.core == d)

/-- Whether context `x` is the only one with a resident plot on die `d`. -/
def State.aloneOn (s : State) (x d : Nat) : Bool :=
  s.onDie x d && s.plots.all (fun e => !(e.2.live && e.2.resident && !isService e.2.core && dieOf e.2.core == d) || e.2.ctx == x)

/-- Whether the balance is at most 0 and the reserve 0 (R415). -/
def Ctx.empty (c : Ctx) : Bool := decide (c.pannier ≤ 0) && c.panRsv == 0

/-- POLICY and FLOOR of `pan.ctl` (R415). -/
def Ctx.policy (c : Ctx) : Nat := c.panCtl.toNat % 4
def Ctx.floor (c : Ctx) : Nat := bits c.panCtl.toNat 2 3

/-- One throttle step on die `d` for context `x` (R415): the operating point falls by one index, or the context is paused where it
shares the die or FLOOR is reached. -/
def State.throttleDie (s : State) (x d : Nat) : State :=
  let c := s.ctxs.get x
  if !s.onDie x d then s
  else if s.aloneOn x d && decide (c.floor < (s.dies.get d).op) then
    s.modDie d (fun q => { q with throttle := 7 - max c.floor (q.op - 1) })
  else s.modCtx x (fun c => { c with paused := true })

/-- The die whose runtime a Pannier event of context `x` goes to. -/
def State.panDie (s : State) (x : Nat) : Nat := ((List.range 8).find? (fun d => s.onDie x d)).getD 0

/-- A Pannier is found empty (R415): the event is posted when the context was not acted upon yet, and POLICY 1 pauses it. -/
def State.panAct (s : State) (x : Nat) : State :=
  let c := s.ctxs.get x
  if !c.empty then s
  else
    let s1 := if c.throttled then s else
      (s.post (s.panDie x) ⟨.pannier, [], [x, 0]⟩).modCtx x (fun c => { c with throttled := true })
    if c.policy = 1 then s1.modCtx x (fun c => { c with paused := true }) else s1

/-- What a window does for an empty Pannier (R415): as `panAct`, and under POLICY 0 or 3 one throttle step on every die of the context. -/
def State.panWindow (s : State) (x : Nat) : State :=
  let s1 := s.panAct x
  let c := s1.ctxs.get x
  if c.empty && (c.policy == 0 || c.policy == 3) then (List.range 8).foldl (fun s d => s.throttleDie x d) s1 else s1

/-- Pause a launch whose running debit exceeds its limit (R415). -/
def State.launchAct (s : State) (l : Nat) : State :=
  let q := s.launches.get l
  let limit := leNat ((q.record.drop 56).take 8)
  if limit ≠ 0 ∧ limit < q.debit ∧ !q.paused then
    (s.modLaunch l (fun q => { q with paused := true })).post q.home ⟨.pannier, [], [q.ctx, q.id]⟩
  else s

/-- A credit that has made the balance positive ends the throttle and the pause (R415). -/
def State.panClear (s : State) (x : Nat) : State :=
  let c := s.ctxs.get x
  if c.throttled ∧ 0 < c.pannier then s.modCtx x (fun c => { c with throttled := false, paused := false }) else s

/-- A die on which no throttled context has a resident plot is throttled no longer (R415). -/
def State.endThrottles (s : State) : State :=
  (List.range 8).foldl (fun s d =>
    if s.ctxs.keys.any (fun x => (s.ctxs.get x).throttled && s.onDie x d) then s else s.modDie d (fun q => { q with throttle := 0 })) s

end Sys2Proof.Machine
end

