-- ==== Sys2Proof/Machine/System.lean ====
section
/-! DEFINITION. Control registers and the system words for threads (01_words.md R25 and R26, 03_memory_system_instructions.md R130
and R134, 11_package.md R400, R401, R415). -/

namespace Sys2Proof.Machine

/-! ### Control registers -/

/-- Lowest privilege that may read control register `n` (R25); 3, above every privilege, for a number that is not there. `svc` says
that the thread runs on a service core. -/
def crReadPriv (svc : Bool) (n : Nat) : Nat :=
  if 0x1000 ≤ n then (if svc && (Pav.read default 0 0 (n - 0x1000)).isSome then 2 else 3)
  else if (crWidth n).isSome then 0 else 3

/-- Lowest privilege that may write control register `n` (R25, R400). -/
def crWritePriv (svc : Bool) (n : Nat) : Nat :=
  if 0x1000 ≤ n then (if svc && ringWritable (n - 0x1000) then 2 else 3)
  else if n ≤ 2 || n = 8 then 0
  else if n = 0x11 then 2
  else if (crWidth n).isSome then 1 else 3

/-- The value of `pan.ctl`, with EMPTY (R415). -/
def Ctx.panCtlValue (c : Ctx) : Nat := c.panCtl.toNat % 32 + 32 * b2n (decide (c.pannier ≤ 0))

/-- The value of control register `n` for thread `t` (R25). -/
def State.creg (s : State) (t : Thread) (n : Nat) : DWord :=
  let c := s.ctxs.get t.ctx
  if n = 0 then t.fpcr.setWidth 64
  else if n = 1 then t.fpsr.setWidth 64
  else if n = 2 then t.lfsr.setWidth 64
  else if n = 4 then c.tvec
  else if n = 6 then t.sbase
  else if n = 8 then BitVec.ofNat 64 (s.plotOf t).bintmr
  else if n = 9 then BitVec.ofNat 64 c.hotthr
  else if n = 0x10 then BitVec.ofNat 64 c.panCtlValue
  else if n = 0x11 then c.panRsv
  else
    let k := s.coreOf t - serviceBase
    BitVec.ofNat 64 (((s.pavs.get k).read k s.time (n - 0x1000)).getD 0)

/-- `fpcr` as a write stores it (R18, R26). -/
def fpcrStored (v : Word) : Word :=
  let r := v &&& 31
  if 6 ≤ r.toNat % 8 then r &&& 24 else r

/-- Write control register `n` for thread `u` (R18, R25, R26). -/
def State.cregWrite (s : State) (u n : Nat) (v : DWord) : State :=
  let t := s.thr u
  let w := v.lo
  if n = 0 then s.setThr u { t with fpcr := fpcrStored w }
  else if n = 1 then s.setThr u { t with fpsr := w &&& 127 }
  else if n = 2 then s.setThr u { t with lfsr := if w = 0 then 1 else w }
  else if n = 4 then s.modCtx t.ctx (fun c => { c with tvec := v })
  else if n = 6 then s.setThr u { t with sbase := v }
  else if n = 8 then s.modPlot t.plot (fun p => { p with bintmrOff := ((max 64 (min 4096 w.toNat) : Nat) : Int) - 256 })
  else if n = 9 then s.modCtx t.ctx (fun c => { c with hotthrOff := (w.toNat : Int) - 64 })
  else if n = 0x10 then (s.modCtx t.ctx (fun c => { c with panCtl := w &&& 31 })).panAct t.ctx
  else if n = 0x11 then (s.modCtx t.ctx (fun c => { c with panRsv := v })).panAct t.ctx
  else s.modPav (s.coreOf t - serviceBase) (fun p => p.write (n - 0x1000) w.toNat s.time)

/-- Meaning of `crd` (R25, R130). -/
def execCrd (f : FS) (s : State) : Host.Outcome State Fault Refusal :=
  issue { shCrd f with priv := crReadPriv (isService (s.coreOf (s.thr s.cur))) f.n.toNat } (fun s =>
    let t := s.thr s.cur
    let v := s.creg t f.n.toNat
    .done (s.setThr s.cur (if crWidth f.n.toNat = some 2 then t.wr64 false f.d v else t.wr32 false f.d v.lo)) 0) s

/-- Meaning of `cwr` (R25, R130). -/
def execCwr (f : FS) (s : State) : Host.Outcome State Fault Refusal :=
  issue { shCwr f with priv := crWritePriv (isService (s.coreOf (s.thr s.cur))) f.n.toNat } (fun s =>
    let t := s.thr s.cur
    let v := if crWidth f.n.toNat = some 2 then t.src64 f.lit f.d else (t.src32 f.lit f.d).setWidth 64
    .done (s.cregWrite s.cur f.n.toNat v) 0) s

/-! ### System words -/

/-- Meaning of `wfi` (R134): it waits for an event posted after it began. -/
def execWfi (f : FG) : State → Host.Outcome State Fault Refusal :=
  issue (shG f 1) (fun s => .rest s (.wfi (s.dies.get (dieOf (s.coreOf (s.thr s.cur)))).posted))

/-- Meaning of `halt` (R134). -/
def execHalt (f : FG) : State → Host.Outcome State Fault Refusal :=
  issue (shG f 2) (fun s => .rest s .halt)

/-- Ring distance between two physical dies (R134). -/
def ringDistance (p q : Nat) : Nat := min ((q + 8 - p) % 8) ((p + 8 - q) % 8)

/-- Meaning of `vdhop` (R134, R248). -/
def execVdhop (f : FA) : State → Host.Outcome State Fault Refusal :=
  issue (shD f 1 1 0) (fun s =>
    let t := s.thr s.cur
    let vd := (s.desc (s.who t).die t.ctx).vd
    let v : Word := match s.boundDie vd (t.src32 f.lit f.a).toNat, s.boundDie vd (t.src32 f.lit f.b).toNat with
      | some p, some q => BitVec.ofNat 32 (ringDistance p.1 q.1)
      | _, _ => 0xFFFFFFFF
    .done (s.setThr s.cur (t.wr32 f.nw f.d v)) 0)

end Sys2Proof.Machine
end

