-- ==== Sys2Proof/Machine/Tile.lean ====
section
/-! DEFINITION. Tiles and accumulators (05_cadence_microcode.md R171 to R175, R179) and the thread's words on them (R195, R196). -/

namespace Sys2Proof.Machine

/-! ### Tiles -/

/-- Bytes of a tile's elements. -/
def Tile.bytes (t : Tile) : Nat := t.h * t.c * t.w / 8

/-- Whether a tile's shape is valid (R171); `side` where the instruction uses the sidecar. -/
def Tile.shapeOk (t : Tile) (side : Bool) : Bool :=
  [4, 6, 8, 16].contains t.w && decide (1 ≤ t.h) && decide (1 ≤ t.c) && t.c * t.w % 32 == 0
    && decide (t.h * t.c * t.w ≤ 262144) && (!side || t.h * t.c % 32 == 0)

/-- Element `n` of a tile, in row-major order (R172). -/
def Tile.elem (t : Tile) (n : Nat) : Nat := leNat (Memory.read t.data (t.w * n / 8) 3) / 2 ^ (t.w * n % 8) % 2 ^ t.w

/-- The list limit L (R173). -/
def Tile.limit (t : Tile) : Nat := 128 - t.limGap

/-- The escape code of a width; none for 16 (R371). -/
def escCode (w : Nat) : Option Nat := if w = 4 then some 8 else if w = 6 then some 0x20 else if w = 8 then some 0x80 else none

/-- Whether escapes are enabled (R23). -/
def Tile.escOn (t : Tile) : Bool := t.esc.getLsbD 0

/-- Whether element `n` is an escape (R179, R371). -/
def Tile.isEsc (t : Tile) (n : Nat) : Bool := t.escOn && escCode t.w == some (t.elem n)

/-- The list index of the escape at element `n`: the escapes before it (R179). -/
def Tile.escIndex (t : Tile) (n : Nat) : Nat := ((List.range n).filter t.isEsc).length

/-- List entry `k` as an `mma` reads it: +0 and unpoisoned from the count on (R175). -/
def Tile.entry (t : Tile) (k : Nat) : Nat := if k < t.listCount then (t.list.get k).toNat else 0
def Tile.entryPoison (t : Tile) (k : Nat) : Bool := decide (k < t.listCount) && t.listPoison.get k

/-- `tz.t` (R174). -/
def Tile.zero (t : Tile) : Tile :=
  { t with data := [], side := [], poison := [], sidePoison := [], list := [], listPoison := [], listCount := 0 }

/-- Change tile `n` of plot `p`. -/
def State.modTile (s : State) (p n : Nat) (f : Tile → Tile) : State := s.modPlot p (fun q => { q with tiles := q.tiles.modify n f })

/-- Change accumulator `n` of plot `p`. -/
def State.modAcc (s : State) (p n : Nat) (f : Accum → Accum) : State := s.modPlot p (fun q => { q with accs := q.accs.modify n f })

/-! ### TILEX -/

/-- The literal a poisoned element reads as (R195). -/
def poisonWord : Word := 0x7FC00000

/-- A TILEX word (R195): the number and index within `lim`, below the plot's count `n`. -/
def tilexEff (lim : Nat) (count : Plot → Nat) (a b : Word) (k : Nat → Nat → State → Eff) (s : State) : Eff :=
  let p := s.plotOf (s.thr s.cur)
  if count p ≤ a.toNat ∨ lim ≤ b.toNat then .fault codeField 0 0 else k a.toNat b.toNat s

/-- A value read from plot state, with `psn` where it is poisoned (R195). -/
def tilexRead (nw : Bool) (d : BitVec 6) (v : Word) (psn : Bool) (s : State) : Eff :=
  .done (s.modThr s.cur (fun t => (t.raise (flagIf psn fPSN)).wr32 nw d v)) 0

/-- Meaning of `acc.rd` (R195). -/
def execAccRd (f : FA) : State → Host.Outcome State Fault Refusal :=
  issue (shD f 1 1 0) (fun s =>
    let t := s.thr s.cur
    tilexEff 16384 (fun p => min 4 p.naccs) (t.src32 f.lit f.a) (t.src32 f.lit f.b) (fun n x s =>
      let q := (s.plotOf t).accs.get n
      tilexRead f.nw f.d (if q.poison.get x then poisonWord else q.v.get x) (q.poison.get x) s) s)

/-- Meaning of `acc.wr` (R195). -/
def execAccWr (f : FDab) : State → Host.Outcome State Fault Refusal :=
  issue (shW f) (fun s =>
    let t := s.thr s.cur
    tilexEff 16384 (fun p => min 4 p.naccs) (t.src32 f.lit f.a) (t.src32 f.lit f.b) (fun n x s =>
      .done (s.modAcc t.plot n (fun q =>
        { q with v := q.v.set x (t.src32 f.lit f.d), poison := q.poison.set x false })) 0) s)

/-- The elements that word `x` of a tile's bit string touches: first and count (R172). -/
def Tile.wordElems (t : Tile) (x : Nat) : Nat × Nat :=
  if t.w = 0 then (0, 0) else (32 * x / t.w, (32 * x + 31) / t.w + 1 - 32 * x / t.w)

/-- Whether word `x` of a tile holds a poisoned element (R195). -/
def Tile.wordPoison (t : Tile) (x : Nat) : Bool :=
  (List.range (t.wordElems x).2).any (fun i => t.poison.get ((t.wordElems x).1 + i))

/-- `tile.wr` of word `x` (R195). -/
def Tile.setWord (t : Tile) (x : Nat) (v : Word) : Tile :=
  { t with data := Memory.write t.data (4 * x) (leBytes 4 v.toNat)
           poison := (List.range (t.wordElems x).2).foldl (fun m i => m.set ((t.wordElems x).1 + i) false) t.poison }

/-- Meaning of `tile.rd` (R195). -/
def execTileRd (f : FA) : State → Host.Outcome State Fault Refusal :=
  issue (shD f 1 1 0) (fun s =>
    let t := s.thr s.cur
    tilexEff 8192 (fun p => min 16 p.ntiles) (t.src32 f.lit f.a) (t.src32 f.lit f.b) (fun n x s =>
      let q := (s.plotOf t).tiles.get n
      if !([4, 6, 8, 16].contains q.w) then .fault codeTileFmt 0 0
      else tilexRead f.nw f.d (BitVec.ofNat 32 (leNat (Memory.read q.data (4 * x) 4))) (q.wordPoison x) s) s)

/-- Meaning of `tile.wr` (R195). -/
def execTileWr (f : FDab) : State → Host.Outcome State Fault Refusal :=
  issue (shW f) (fun s =>
    let t := s.thr s.cur
    tilexEff 8192 (fun p => min 16 p.ntiles) (t.src32 f.lit f.a) (t.src32 f.lit f.b) (fun n x s =>
      if !([4, 6, 8, 16].contains ((s.plotOf t).tiles.get n).w) then .fault codeTileFmt 0 0
      else .done (s.modTile t.plot n (fun q => q.setWord x (t.src32 f.lit f.d))) 0) s)

/-- Meaning of `ol.rd` (R195). -/
def execOlRd (f : FA) : State → Host.Outcome State Fault Refusal :=
  issue (shD f 1 1 0) (fun s =>
    let t := s.thr s.cur
    tilexEff 128 (fun p => min 16 p.ntiles) (t.src32 f.lit f.a) (t.src32 f.lit f.b) (fun n x s =>
      let q := (s.plotOf t).tiles.get n
      tilexRead f.nw f.d (if q.listPoison.get x then poisonWord else q.list.get x) (q.listPoison.get x) s) s)

/-- Meaning of `ol.wr` (R195). -/
def execOlWr (f : FDab) : State → Host.Outcome State Fault Refusal :=
  issue (shW f) (fun s =>
    let t := s.thr s.cur
    tilexEff 128 (fun p => min 16 p.ntiles) (t.src32 f.lit f.a) (t.src32 f.lit f.b) (fun n x s =>
      .done (s.modTile t.plot n (fun q => { q with
        list := q.list.set x (t.src32 f.lit f.d), listPoison := q.listPoison.set x false, listCount := max q.listCount (x + 1) })) 0) s)

/-- Meaning of `ol.cnt` (R195). -/
def execOlCnt (f : FU) : State → Host.Outcome State Fault Refusal :=
  issue (shDU f 1) (fun s =>
    let t := s.thr s.cur
    tilexEff 1 (fun p => min 16 p.ntiles) (t.src32 f.lit f.a) 0 (fun n _ s =>
      tilexRead f.nw f.d (BitVec.ofNat 32 ((s.plotOf t).tiles.get n).listCount) false s) s)

end Sys2Proof.Machine
end

