-- ==== Sys2Proof/Machine/Matrix.lean ====
section
/-! DEFINITION. The matrix multiply (05_cadence_microcode.md R182 to R188, 10_outliers_microseq.md R371, R377 to R380): the value and
poison of each accumulator element, and the array's occupation. -/

namespace Sys2Proof.Machine

/-- The forms of `mma` (R182); for `mxf6`, whether A and B are E2M3. -/
inductive MmaForm where
  | bf16
  | f16
  | e4m3
  | e5m2
  | mxe4
  | mxe5
  | mxf6 (p q : Bool)
  | mxf4
  | i8
  | i4
  | bf16t
  deriving DecidableEq, Repr, Inhabited

/-- Element width (R182). -/
def MmaForm.w : MmaForm → Nat
  | .bf16 | .f16 | .bf16t => 16
  | .e4m3 | .e5m2 | .mxe4 | .mxe5 | .i8 => 8
  | .mxf6 _ _ => 6
  | .mxf4 | .i4 => 4

/-- K (R182). -/
def MmaForm.k (f : MmaForm) : Nat := if f.w = 16 then 128 else if f.w = 4 then 512 else 256

/-- Whether the form uses scales. -/
def MmaForm.mx : MmaForm → Bool
  | .mxe4 | .mxe5 | .mxf6 _ _ | .mxf4 => true
  | _ => false

/-- Whether the form is an integer one. -/
def MmaForm.int : MmaForm → Bool
  | .i8 | .i4 => true
  | _ => false

/-- The value of a code of the A operand (`b` false) or the B operand (R183). -/
def MmaForm.value (f : MmaForm) (b : Bool) (c : Nat) : Fp :=
  match f with
  | .bf16 | .bf16t => Machine.bf16.decode c
  | .f16 => Machine.f16.decode c
  | .e4m3 | .mxe4 => Machine.e4m3.decode c
  | .e5m2 | .mxe5 => Machine.e5m2.decode c
  | .mxf6 p q => if (if b then q else p) then Machine.e2m3.decode c else Machine.e3m2.decode c
  | .mxf4 => Machine.e2m1.decode c
  | .i8 => Nf.decode .i8 c
  | .i4 => Nf.decode .i4 c

/-- An operand's element at (r, c) of the product's shape: A at (i, k), B at (k, n); `mma.bf16.t` reads B(k, n) at (n, k) (R182). -/
structure MmaOp where
  tile : Tile
  form : MmaForm
  b : Bool
  deriving DecidableEq, Repr, Inhabited

/-- Row-major number of an operand's element (R172, R182). -/
def MmaOp.index (o : MmaOp) (r c : Nat) : Nat :=
  if o.b then (if o.form = .bf16t then c * o.form.k + r else r * 128 + c) else r * o.form.k + c

/-- The sidecar byte that scales an operand's element (R172). -/
def MmaOp.scaleByte (o : MmaOp) (r c : Nat) : Nat :=
  if o.b then r / 32 * 128 + c else r * (o.form.k / 32) + c / 32

/-- The scaled value of a code in a block of scale `s` (R183): NaN for 0xFF. -/
def scaled (mx : Bool) (x : Fp) (s : Nat) : Fp :=
  if !mx then x else if s = 255 then .nan false else x.scale ((s : Int) - 127)

/-- The dense value of an element: 0 for an escape (R183). -/
def MmaOp.dense (o : MmaOp) (r c : Nat) : Fp :=
  let n := o.index r c
  if o.tile.isEsc n then scaled o.form.mx (.fin false 0 0) (o.tile.side.get (o.scaleByte r c)).toNat
  else scaled o.form.mx (o.form.value o.b (o.tile.elem n)) (o.tile.side.get (o.scaleByte r c)).toNat

/-- The list entry of the escape at an element, as a value; integer forms convert it (R185, R186). -/
def MmaOp.outlier (o : MmaOp) (r c : Nat) : Fp :=
  let e := o.tile.entry (o.tile.escIndex (o.index r c))
  if o.form.int then
    let v := Machine.sgn 32 (cvtToInt (-2147483648) 2147483647 .ne e).1
    .fin (decide (v < 0)) v.natAbs 0
  else f32.decode e

/-- `full(X, r, c)` (R185). -/
def MmaOp.full (o : MmaOp) (r c : Nat) : Fp := if o.tile.isEsc (o.index r c) then o.outlier r c else o.dense r c

/-- Whether an element, its list entry or its scale is poisoned (R187). -/
def MmaOp.poisoned (o : MmaOp) (r c : Nat) : Bool :=
  let n := o.index r c
  o.tile.poison.get n || (o.tile.isEsc n && o.tile.entryPoison (o.tile.escIndex n))
    || (o.form.mx && o.tile.sidePoison.get (o.scaleByte r c))

/-- Add a value to an accumulator element (R184, R186): an exact zero leaves its bits unchanged. -/
def accAdd (int : Bool) (acc : Word) (x : Fp) : Word :=
  match x with
  | .fin n m e =>
    if m = 0 then acc
    else if int then acc + BitVec.ofInt 32 (signedAt n m e 0)
    else BitVec.ofNat 32 (f32.finish .ne (Fp.add false (f32.decode acc.toNat) x)).1
  | _ => BitVec.ofNat 32 (f32.finish .ne (Fp.add false (f32.decode acc.toNat) x)).1

/-- The outlier products of (i, n) in block `kb`, in merge order (R185, R380). -/
def mergeProducts (a b : MmaOp) (i n kb : Nat) : List Fp :=
  let ks := (List.range 32).map (32 * kb + ·)
  (ks.filter (fun k => a.tile.isEsc (a.index i k))).map (fun k => (Fp.mul (a.outlier i k) (b.full k n)).1)
  ++ (ks.filter (fun k => b.tile.isEsc (b.index k n) && !a.tile.isEsc (a.index i k))).map
      (fun k => (Fp.mul (a.full i k) (b.outlier k n)).1)

/-- The dense sum of block `kb` for (i, n) (R184). -/
def denseSum (a b : MmaOp) (i n kb : Nat) : Fp :=
  (Fp.sum false (.fin false 0 0) ((List.range 32).map (fun j => (Fp.mul (a.dense i (32 * kb + j)) (b.dense (32 * kb + j) n)).1))).1

/-- The new value of accumulator element (i, n) (R184 to R186). -/
def mmaElem (a b : MmaOp) (acc : Word) (i n : Nat) : Word :=
  (List.range (a.form.k / 32)).foldl (fun acc kb =>
    (mergeProducts a b i n kb).foldl (accAdd a.form.int) (accAdd a.form.int acc (denseSum a b i n kb))) acc

/-- The new poison of accumulator element (i, n) (R187). -/
def mmaPoison (a b : MmaOp) (own : Bool) (i n : Nat) : Bool :=
  own || (List.range a.form.k).any (fun k => a.poisoned i k || b.poisoned k n)

/-- The accumulator after an `mma` (R182 to R187). -/
def mmaAcc (a b : MmaOp) (za : Bool) (q : Accum) : Accum :=
  let cells := List.range 16384
  { v := cells.foldl (fun m x => m.set x (mmaElem a b (if za then 0 else q.v.get x) (x / 128) (x % 128))) q.v
    poison := cells.foldl (fun m x => m.set x (mmaPoison a b (!za && q.poison.get x) (x / 128) (x % 128))) q.poison }

/-- Whether a tile has the shape that a form needs as A or as B (R171, R182). -/
def MmaForm.fits (f : MmaForm) (b : Bool) (t : Tile) : Bool :=
  t.shapeOk f.mx && t.w == f.w &&
    (if b && f != .bf16t then t.h == f.k && t.c == 128 else t.h == 128 && t.c == f.k)

/-- Escapes of a tile. -/
def Tile.escapes (t : Tile) : Nat := ((List.range (t.h * t.c)).filter t.isEsc).length

/-- Cycles that an `mma` occupies the array (R188, R378). -/
def mmaCycles (warm : Bool) (esc : Nat) : Nat := 128 + (if warm then 0 else 192) + (esc - 256 + 1) / 2

end Sys2Proof.Machine
end

