-- ==== Sys2Proof/Machine/Cadence.lean ====
section
/-! DEFINITION. The Cadence sequencer (05_cadence_microcode.md R168 to R194, 10_outliers_microseq.md R373 to R377): one definition
for each word of its stream, over the frame of R169 and R170. -/

namespace Sys2Proof.Machine

/-! ### The frame -/

/-- What a Cadence word's own effect comes to. -/
inductive SEff where
  /-- It completes. -/
  | done (s : State)
  /-- It completes and goes on at `pc`. -/
  | jump (s : State) (pc : DWord)
  /-- It raises a Cadence fault (R170). -/
  | fault (code sub : Nat) (addr : DWord)
  /-- It waits and runs again from its start. -/
  | wait (s : State) (w : SeqWait)

/-- Change the sequencer of plot `p`. -/
def State.modSeq (s : State) (p : Nat) (f : Seq → Seq) : State := s.modPlot p (fun q => { q with seq := f q.seq })

/-- The 64-byte Cadence fault record (R170). -/
def cadRecord (code launch num : Nat) (imprecise : Bool) (pc addr : DWord) (time sub row col cnt : Nat) : List Byte :=
  leBytes 2 code ++ leBytes 2 (b2n imprecise) ++ leBytes 4 launch ++ leBytes 4 0xFFFFFFFF ++ leBytes 4 num
    ++ leBytes 8 pc.toNat ++ leBytes 8 addr.toNat ++ leBytes 8 time ++ leBytes 2 sub ++ leBytes 2 row ++ leBytes 2 col
    ++ leBytes 2 (min cnt 0xFFFF) ++ leBytes 16 0

/-- Write a Cadence fault record of plot `p` for the word at `pc` (R170). -/
def State.cadPost (s : State) (p code : Nat) (imprecise : Bool) (pc addr : DWord) (sub row col cnt : Nat) : State :=
  let q := s.plots.get p
  s.post (dieOf q.core)
    ⟨.fault, cadRecord code (s.launches.get q.launch).id q.num imprecise pc addr s.time sub row col cnt, [p, code]⟩

/-- Stop the sequencer of plot `p` before its instruction (R170). -/
def State.seqFault (s : State) (p code sub : Nat) (addr : DWord) : State :=
  ((s.forgetAns (.seqRead p)).cadPost p code false (s.plots.get p).seq.pc addr sub 0 0 0).modSeq p (fun q =>
    { q with faulted := true, wait := .none })

/-- The state after a Cadence word's own effect. -/
def State.settleSeq (s : State) (p : Nat) (e : SEff) : State :=
  match e with
  | .done s' => (s'.forgetAns (.seqRead p)).modSeq p (fun q => { q with pc := q.pc + 4, wait := .none })
  | .jump s' pc => s'.modSeq p (fun q => { q with pc := pc, wait := .none })
  | .fault code sub addr => s.seqFault p code sub addr
  | .wait s' w => s'.modSeq p (fun q => { q with wait := w, since := if q.wait = w then q.since else s.time })

/-- A Cadence word of the sequencer of `s.curPlot`, whose own effect is `body`. -/
def issueSeq (body : Nat → State → SEff) (s : State) : Host.Outcome State Fault Refusal :=
  let p := s.curPlot
  let q := (s.plots.get p).seq
  if q.present && q.running && !q.faulted then .next (s.settleSeq p (body p s)) else .fault .noSequencer

/-- `k(n)` of plot `p`. -/
def State.kreg (s : State) (p : Nat) (n : BitVec 5) : Word := (s.plots.get p).seq.k.get n.toNat

/-- The pair k(n):k(n+1). -/
def State.kpair (s : State) (p : Nat) (n : BitVec 5) : DWord :=
  DWord.mk ((s.plots.get p).seq.k.get (n.toNat + 1)) ((s.plots.get p).seq.k.get n.toNat)

/-- Write `k(n)`. -/
def State.setK (s : State) (p : Nat) (n : BitVec 5) (v : Word) : State := s.modSeq p (fun q => { q with k := q.k.set n.toNat v })

/-- Whether a tile number, an accumulator number or a barrier is one that the plot has (R169 step 4). -/
def Plot.hasTile (p : Plot) (n : BitVec 5) : Bool := decide (n.toNat < p.ntiles)
def Plot.hasAcc (p : Plot) (n : BitVec 5) : Bool := decide (n.toNat < p.naccs)

/-- Whether the `mma` in flight of plot `p` reads tile `n`, or accumulates into accumulator `n` (R188). -/
def State.mmaReads (s : State) (p n : Nat) : Bool :=
  match (s.cores.get (s.plots.get p).core).mmaBusy with
  | some m => m.plot == p && (m.a == n || m.b == n)
  | none => false
def State.mmaAccs (s : State) (p n : Nat) : Bool :=
  match (s.cores.get (s.plots.get p).core).mmaBusy with
  | some m => m.plot == p && m.d == n
  | none => false

/-- On whose behalf a sequencer's accesses are made: user privilege (R168). -/
def State.whoSeq (s : State) (p : Nat) : Who := { s.whoPlot p with priv := 0 }

/-- The asker of a sequencer's access (R426). -/
def State.askSeq (s : State) (p : Nat) : Asker :=
  ⟨(s.launches.get (s.plots.get p).launch).id, 0xFFFFFFFF, 1, (s.plots.get p).seq.pc⟩

/-- What the checks of several ranges answer. -/
inductive Ranges where
  | ok (ps : List (List Part))
  | bad (code : Nat) (va : DWord)
  | miss (va : DWord)
  deriving Inhabited

/-- The checks of R94 over several ranges in order, with the walks they need. -/
def State.checkRanges (s : State) (w : Who) (q : Asker) (a : Acc) : List (DWord × Nat) → State × Ranges
  | [] => (s, .ok [])
  | (va, n) :: rs =>
    match s.checkNow w q a va n (pageFuel n) with
    | (s1, .bad c) => (s1, .bad c va)
    | (s1, .miss m) => (s1, .miss m)
    | (s1, .ok ps) =>
      if a != .write && !s.keysOk ps then (s1, .bad codeAddr va)
      else match State.checkRanges s1 w q a rs with
        | (s2, .ok qs) => (s2, .ok (ps :: qs))
        | r => r

/-- Whether a part lies in a closed bank of a weight store (R264). -/
def State.partsClosed (s : State) (ps : List Part) : Bool :=
  ps.any (fun p => match p.loc with
    | .wgt d o => (s.dies.get d).bankClosed (bits o 9 6)
    | _ => false)

/-- Whether each byte of the parts, read for plot `q`, has an uncorrectable error (R179). -/
def State.badBytes (s : State) (q : Nat) (ps : List Part) : List Bool :=
  ps.flatMap (fun p => (List.range p.len).map (fun i => s.badAt q (p.loc.add i) 1))

/-- Whether a tile store of the sequencer that has not been performed writes a byte of the parts (R168). -/
def Seq.owes (q : Seq) (ps : List Part) : Bool := ps.any (fun p => q.stores.any (fun h => h.loc.overlaps h.len p.loc p.len))

/-- Read parts for the sequencer of plot `p` (R168, R177, R264, R271): first its own earlier stores to them are performed, closed banks
open, and other packages answer. -/
def State.seqRead (s : State) (p : Nat) (ps : List Part) (k : State → List Byte → SEff) : SEff :=
  let q := s.plots.get p
  if q.seq.owes ps then .wait s .stores
  else if s.partsClosed ps then .wait s .bank
  else match s.fetchParts q.ctx p ⟨0, p, q.seq.pc, 0, 0, (0, 0)⟩ (.seqRead p) ps with
    | (s1, .wait) => .wait s1 .remote
    | (_, .bad reason va) => .fault (refusalCode reason) 0 va
    | (s1, .ok bs) => k s1 bs

/-! ### Tile fields, zeroing and lists -/

/-- A word that changes one tile of the plot (R169 step 4). -/
def tileEff (d : BitVec 5) (f : Tile → Tile) (p : Nat) (s : State) : SEff :=
  if !(s.plots.get p).hasTile d then .fault codeField 0 0 else .done (s.modTile p d.toNat f)

/-- Meaning of `tset.w` (R173). -/
def execTsetW (d a : BitVec 5) : State → Host.Outcome State Fault Refusal :=
  issueSeq (fun p s => tileEff d (fun t => { t with w := (s.kreg p a).toNat % 65536 }) p s)

/-- Meaning of `tset.h` (R173). -/
def execTsetH (d a : BitVec 5) : State → Host.Outcome State Fault Refusal :=
  issueSeq (fun p s => tileEff d (fun t => { t with h := (s.kreg p a).toNat % 65536 }) p s)

/-- Meaning of `tset.c` (R173). -/
def execTsetC (d a : BitVec 5) : State → Host.Outcome State Fault Refusal :=
  issueSeq (fun p s => tileEff d (fun t => { t with c := (s.kreg p a).toNat % 65536 }) p s)

/-- Meaning of `tset.esc` (R173): bits [6:1] are stored as 0. -/
def execTsetEsc (d a : BitVec 5) : State → Host.Outcome State Fault Refusal :=
  issueSeq (fun p s => tileEff d (fun t => { t with esc := s.kpair p a &&& ~~~0x7E#64 }) p s)

/-- Meaning of `tz.t` (R174). -/
def execTzT (d : BitVec 5) : State → Host.Outcome State Fault Refusal :=
  issueSeq (fun p s => if s.mmaReads p d.toNat && (s.plots.get p).hasTile d then .wait s .array else tileEff d Tile.zero p s)

/-- Meaning of `tz.a` (R174). -/
def execTzA (d : BitVec 5) : State → Host.Outcome State Fault Refusal :=
  issueSeq (fun p s =>
    if !(s.plots.get p).hasAcc d then .fault codeField 0 0
    else if s.mmaAccs p d.toNat then .wait s .array
    else .done (s.modAcc p d.toNat (fun _ => default)))

/-- Meaning of `ol.clr` (R175). -/
def execOlClr (d : BitVec 5) : State → Host.Outcome State Fault Refusal :=
  issueSeq (fun p s => if s.mmaReads p d.toNat && (s.plots.get p).hasTile d then .wait s .array
    else tileEff d (fun t => { t with listCount := 0 }) p s)

/-- Meaning of `ol.lim` (R175). -/
def execOlLim (d a : BitVec 5) : State → Host.Outcome State Fault Refusal :=
  issueSeq (fun p s =>
    let v := (s.kreg p a).toNat
    if !(s.plots.get p).hasTile d || decide (v = 0) || decide (128 < v) then .fault codeField 0 0
    else .done (s.modTile p d.toNat (fun t => { t with limGap := 128 - v })))

/-! ### Loading tiles -/

/-- The tile bytes of a row of a source: KC2 indices decoded, or the bytes themselves (R177, R178). -/
def kc2Bytes (book : FMap Word) : Nat → List Byte → List Byte
  | 0, _ => []
  | n + 1, bs => leBytes 4 (packFields 4 (kc2Codes book (leNat (bs.take 2)))) ++ kc2Bytes book n (bs.drop 2)

/-- Whether a tile has a shape in which an instruction with scales reads it in the B role (R182): 128 columns, and more rows. -/
def Tile.bRole (t : Tile) : Bool := t.c == 128 && decide (128 < t.h)

/-- The sidecar byte that scales element `n` of a tile in the role that its shape admits (R172; DEDUCED, notes/assumptions/96.md). -/
def Tile.scaleOf (t : Tile) (n : Nat) : Nat := if t.bRole then n / 128 / 32 * 128 + n % 128 else n / 32

/-- Whether element `n` of a loaded tile comes from a byte with an error (R179): `bad` flags the source's row bytes and `sbad` its
scale bytes, of which `m` scales the element. -/
def loadedBad (kc2 : Bool) (w : Nat) (bad sbad : List Bool) (m n : Nat) : Bool :=
  (if kc2 then bad.getD (2 * (n / 8)) false || bad.getD (2 * (n / 8) + 1) false
   else (List.range ((w * n + w - 1) / 8 + 1 - w * n / 8)).any (fun i => bad.getD (w * n / 8 + i) false))
  || sbad.getD m false

/-- A tile with new elements and sidecar bytes (R177 to R179). -/
def Tile.loadData (t : Tile) (kc2 : Bool) (data scales : List Byte) (bad sbad : List Bool) : Tile :=
  { t with
    data := Memory.write t.data 0 data
    side := Memory.write t.side 0 scales
    poison := (List.range (t.h * t.c)).foldl (fun m n => m.set n (loadedBad kc2 t.w bad sbad (t.scaleOf n) n)) t.poison
    sidePoison := FMap.setMany t.sidePoison 0 sbad }

/-- A tile with a new outlier list of `n` entries (R177). -/
def Tile.loadList (t : Tile) (n : Nat) (bs : List Byte) (bad : List Bool) : Tile :=
  { t with
    list := FMap.setMany [] 0 (loadWords bs n)
    listPoison := FMap.setMany [] 0 ((List.range n).map (fun k => (List.range 4).any (fun j => bad.getD (4 * k + j) false)))
    listCount := n }

/-- The source ranges of a `tld`: its rows, then its scale bytes (R177). -/
def tldRanges (t : Tile) (f : CTld) (base : DWord) (stride soff : Int) : List (DWord × Nat) :=
  (List.range t.h).map (fun r => (base + BitVec.ofInt 64 (r * stride), if f.k then t.c / 4 else t.c * t.w / 8))
  ++ (if f.c || f.k then [(base + BitVec.ofInt 64 soff, t.h * t.c / 32)] else [])

/-- The end of a `tld`: the outlier list of the loaded tile `t`, then the write as one event (R177, R376). -/
def tldList (p : Nat) (d : BitVec 5) (t : Tile) (s : State) : SEff :=
  let n := t.escapes
  if t.limit < n then .fault codeOvf (d.toNat % 16 + 16 * min n 0xFFF) 0
  else if n = 0 then .done (s.modTile p d.toNat (fun _ => t.loadList 0 [] []))
  else match s.checkRanges (s.whoSeq p) (s.askSeq p) .read [(t.esc &&& ~~~0x7F#64, 4 * n)] with
    | (_, .bad c va) => .fault c 0 va
    | (s1, .miss va) => .wait s1 (.page va .read)
    | (s1, .ok ps) => s1.seqRead p ps.flatten (fun s2 bs =>
        .done (s2.modTile p d.toNat (fun _ => t.loadList n bs (s2.badBytes p ps.flatten))))

/-- `tld` (R176 to R179). -/
def tldEff (f : CTld) (p : Nat) (s : State) : SEff :=
  let q := s.plots.get p
  let t := q.tiles.get f.d.toNat
  let sc := f.c || f.k
  if !q.hasTile f.d then .fault codeField 0 0
  else if !t.shapeOk sc || (f.k && (t.w != 4 || t.c % 32 != 0)) || (t.escOn && t.w == 16) then .fault codeTileFmt f.d.toNat 0
  else if s.mmaReads p f.d.toNat then .wait s .array
  else match s.checkRanges (s.whoSeq p) (s.askSeq p) .read
      (tldRanges t f (s.kpair p f.a) (s.kreg p f.b).toInt ((s.kpair p f.b).hi).toInt) with
    | (_, .bad c va) => .fault c 0 va
    | (s1, .miss va) => .wait s1 (.page va .read)
    | (s1, .ok ps) => s1.seqRead p ps.flatten (fun s2 bs =>
        let rows := (ps.take t.h).flatten
        let scales := (ps.drop t.h).flatten
        let n := (rows.map (·.len)).sum
        let data := if f.k then kc2Bytes ((s.cores.get q.core).codebooks.get q.ctx) (t.h * t.c / 8) (bs.take n) else bs.take n
        tldList p f.d (t.loadData f.k data (bs.drop n) (s2.badBytes p rows) (s2.badBytes p scales)) s2)

/-- Meaning of `tld` (R176, R177). -/
def execTld (f : CTld) : State → Host.Outcome State Fault Refusal := issueSeq (tldEff f)

/-! ### Storing tiles and accumulators -/

/-- A group of source elements that is written or suppressed as a whole (R181): its bytes, how many elements it holds, and whether it
is suppressed. -/
structure Group where
  bytes : List Byte
  elems : Nat
  supp : Bool
  deriving DecidableEq, Repr, Inhabited

/-- Elements of a tile that share bytes (R181). -/
def groupLen (w : Nat) : Nat := if w = 4 then 2 else if w = 6 then 4 else 1

/-- Row `r` of a tile as groups (R180, R181). -/
def Tile.rowGroups (t : Tile) (r : Nat) : List Group :=
  let k := groupLen t.w
  let b := k * t.w / 8
  (List.range (t.c / k)).map (fun g =>
    let n := r * t.c + g * k
    ⟨Memory.read t.data (n * t.w / 8) b, k, (List.range k).any (fun i => t.poison.get (n + i))⟩)

/-- The targets of `tst` for accumulators (R180). -/
inductive AccFmt where
  | raw
  | bf16
  | f16
  | e4m3 (sat : Bool)
  | e5m2 (sat : Bool)
  deriving DecidableEq, Repr, Inhabited

/-- One accumulator element in a target format (R180, R181). -/
def accGroup (f : AccFmt) (v : Word) (poison : Bool) : Group :=
  let x := f32.decode v.toNat
  match f with
  | .raw => ⟨leBytes 4 v.toNat, 1, poison⟩
  | .bf16 => ⟨leBytes 2 (Machine.bf16.round .ne x).1, 1, poison⟩
  | .f16 => ⟨leBytes 2 (Machine.f16.round .ne x).1, 1, poison⟩
  | .e4m3 sat => ⟨leBytes 1 (Nf.convert .e4m3 sat .ne x).1, 1, poison || (Nf.convert .e4m3 sat .ne x).2.2⟩
  | .e5m2 sat => ⟨leBytes 1 (Nf.convert .e5m2 sat .ne x).1, 1, poison || (Nf.convert .e5m2 sat .ne x).2.2⟩

/-- Row `r` of an accumulator as groups. -/
def Accum.rowGroups (q : Accum) (f : AccFmt) (r : Nat) : List Group :=
  (List.range 128).map (fun n => accGroup f (q.v.get (128 * r + n)) (q.poison.get (128 * r + n)))

/-- The bytes of a row, none where suppressed. -/
def rowBytes (gs : List Group) : List (Option Byte) := gs.flatMap (fun g => g.bytes.map (fun b => if g.supp then none else some b))

/-- The runs of bytes to be written at address `a` on, cut at 4-byte words (R181, R275): their addresses and bytes. -/
def runs (a : Nat) : List (Option Byte) → List (Nat × List Byte)
  | [] => []
  | none :: r => runs (a + 1) r
  | some b :: r =>
    match runs (a + 1) r with
    | (j, bs) :: t => if j = a + 1 ∧ (a + 1) % 4 ≠ 0 then (a, b :: bs) :: t else (a, [b]) :: (j, bs) :: t
    | [] => [(a, [b])]

/-- Store one run of a row whose parts are `ps` at `base` (R181): the scratchpad is written at once, other homes later. -/
def State.seqStore (s : State) (p : Nat) (base : DWord) (ps : List Part) (r : Nat × List Byte) : State :=
  let off := r.1 - base.toNat
  match ps.find? (fun q => decide (q.off ≤ off) && decide (off < q.off + q.len)) with
  | none => s
  | some q =>
    let l := q.loc.add (off - q.off)
    match l with
    | .scr o => (s.scrWrite p o r.2).modSeq p (fun z => { z with tDone := max z.tDone s.time })
    | l => s.modSeq p (fun z => { z with
        stores := z.stores ++ [⟨z.seq, base + BitVec.ofNat 64 off, l, r.2.length, .store r.2, z.pc, false, none, 0, 0⟩]
        seq := z.seq + 1 })

/-- Store one row (R181). -/
def State.seqStoreRow (s : State) (p : Nat) (base : DWord) (ps : List Part) (bs : List (Option Byte)) : State :=
  (runs base.toNat bs).foldl (fun s r => s.seqStore p base ps r) s

/-- Row, column and number of the suppressed elements (R181). -/
def suppressed (rows : List (List Group)) : Option (Nat × Nat) × Nat :=
  let cells := (rows.zipIdx).flatMap (fun r => (r.1.zipIdx).map (fun g => (r.2, g.2 * g.1.elems, g.1)))
  let bad := cells.filter (fun c => c.2.2.supp)
  (bad.head?.map (fun c => (c.1, c.2.1)), bad.foldl (fun n c => n + c.2.2.elems) 0)

/-- `tst` of rows of groups to `base` at distance `stride` (R180, R181). -/
def tstRows (rows : List (List Group)) (base : DWord) (stride : Int) (p : Nat) (s : State) : SEff :=
  let bs := rows.map rowBytes
  let rs := (bs.zipIdx).map (fun r => (base + BitVec.ofInt 64 (r.2 * stride), r.1.length))
  match s.checkRanges (s.whoSeq p) (s.askSeq p) .write rs with
  | (_, .bad c va) => .fault c 0 va
  | (s1, .miss va) => .wait s1 (.page va .write)
  | (s1, .ok ps) =>
    let s2 := ((rs.zip bs).zip ps).foldl (fun s r => s.seqStoreRow p r.1.1.1 r.2 r.1.2) s1
    match suppressed rows with
    | (some (row, col), cnt) => .done (s2.cadPost p codePoison true (s.plots.get p).seq.pc 0 0 row col cnt)
    | (none, _) => .done s2

/-- `tst` of a tile (R180). -/
def tstTile (d a b : BitVec 5) (p : Nat) (s : State) : SEff :=
  let q := s.plots.get p
  let t := q.tiles.get d.toNat
  if !q.hasTile d then .fault codeField 0 0
  else if !t.shapeOk false then .fault codeTileFmt d.toNat 0
  else tstRows ((List.range t.h).map t.rowGroups) (s.kpair p a) (s.kreg p b).toInt p s

/-- `tst` of an accumulator (R180). -/
def tstAcc (f : AccFmt) (d a b : BitVec 5) (p : Nat) (s : State) : SEff :=
  let q := s.plots.get p
  if !q.hasAcc d then .fault codeField 0 0
  else if s.mmaAccs p d.toNat then .wait s .array
  else tstRows ((List.range 128).map ((q.accs.get d.toNat).rowGroups f)) (s.kpair p a) (s.kreg p b).toInt p s

/-- Meaning of `tst.raw` (R180, R181). -/
def execTstRaw (f : CTst) : State → Host.Outcome State Fault Refusal :=
  issueSeq (if f.t then tstAcc .raw f.d f.a f.b else tstTile f.d f.a f.b)

/-- Meaning of `tst.bf16` (R180, R181). -/
def execTstBf16 (f : CTst) : State → Host.Outcome State Fault Refusal := issueSeq (tstAcc .bf16 f.d f.a f.b)

/-- Meaning of `tst.f16` (R180, R181). -/
def execTstF16 (f : CTst) : State → Host.Outcome State Fault Refusal := issueSeq (tstAcc .f16 f.d f.a f.b)

/-- Meaning of `tst.e4m3` (R180, R181). -/
def execTstE4m3 (f : CTstS) : State → Host.Outcome State Fault Refusal := issueSeq (tstAcc (.e4m3 f.s) f.d f.a f.b)

/-- Meaning of `tst.e5m2` (R180, R181). -/
def execTstE5m2 (f : CTstS) : State → Host.Outcome State Fault Refusal := issueSeq (tstAcc (.e5m2 f.s) f.d f.a f.b)

/-! ### Matrix multiply -/

/-- `mma` (R182 to R188): the accumulator takes its new value as one event, and the array is occupied. -/
def mmaEff (f : MmaForm) (d a b : BitVec 5) (za : Bool) (p : Nat) (s : State) : SEff :=
  let q := s.plots.get p
  let ta := q.tiles.get a.toNat
  let tb := q.tiles.get b.toNat
  let c := s.cores.get q.core
  if !q.hasAcc d || !q.hasTile a || !q.hasTile b then .fault codeField 0 0
  else if !f.fits false ta then .fault codeTileFmt a.toNat 0
  else if !f.fits true tb then .fault codeTileFmt b.toNat 0
  else if c.mmaBusy.isSome then .wait s .array
  else
    let n := ta.escapes + tb.escapes
    let s1 := s.modAcc p d.toNat (mmaAcc ⟨ta, f, false⟩ ⟨tb, f, true⟩ za)
    .done (s1.modCore q.core (fun c => { c with
      mmaBusy := some ⟨p, d.toNat, a.toNat, b.toNat, s.after q.core (mmaCycles c.arrayWarm n)⟩ }))

/-- Meaning of `mma.bf16` (R182). -/
def execMmaBf16 (f : CMma) : State → Host.Outcome State Fault Refusal := issueSeq (mmaEff .bf16 f.d f.a f.b f.z)

/-- Meaning of `mma.f16` (R182). -/
def execMmaF16 (f : CMma) : State → Host.Outcome State Fault Refusal := issueSeq (mmaEff .f16 f.d f.a f.b f.z)

/-- Meaning of `mma.e4m3` (R182). -/
def execMmaE4m3 (f : CMma) : State → Host.Outcome State Fault Refusal := issueSeq (mmaEff .e4m3 f.d f.a f.b f.z)

/-- Meaning of `mma.e5m2` (R182). -/
def execMmaE5m2 (f : CMma) : State → Host.Outcome State Fault Refusal := issueSeq (mmaEff .e5m2 f.d f.a f.b f.z)

/-- Meaning of `mma.mxe4` (R182). -/
def execMmaMxe4 (f : CMma) : State → Host.Outcome State Fault Refusal := issueSeq (mmaEff .mxe4 f.d f.a f.b f.z)

/-- Meaning of `mma.mxe5` (R182). -/
def execMmaMxe5 (f : CMma) : State → Host.Outcome State Fault Refusal := issueSeq (mmaEff .mxe5 f.d f.a f.b f.z)

/-- Meaning of `mma.mxf6` (R182). -/
def execMmaMxf6 (f : CMxf6) : State → Host.Outcome State Fault Refusal := issueSeq (mmaEff (.mxf6 f.p f.q) f.d f.a f.b f.z)

/-- Meaning of `mma.mxf4` (R182). -/
def execMmaMxf4 (f : CMma) : State → Host.Outcome State Fault Refusal := issueSeq (mmaEff .mxf4 f.d f.a f.b f.z)

/-- Meaning of `mma.i8` (R182, R186). -/
def execMmaI8 (f : CMma) : State → Host.Outcome State Fault Refusal := issueSeq (mmaEff .i8 f.d f.a f.b f.z)

/-- Meaning of `mma.i4` (R182, R186). -/
def execMmaI4 (f : CMma) : State → Host.Outcome State Fault Refusal := issueSeq (mmaEff .i4 f.d f.a f.b f.z)

/-- Meaning of `mma.bf16.t` (R182). -/
def execMmaBf16T (f : CMma) : State → Host.Outcome State Fault Refusal := issueSeq (mmaEff .bf16t f.d f.a f.b f.z)

/-! ### k registers -/

/-- A kalu word (R189). -/
def kaluEff (op : Word → Word → Word) (d a b : BitVec 5) (p : Nat) (s : State) : SEff :=
  .done (s.setK p d (op (s.kreg p a) (s.kreg p b)))

/-- Meaning of `kadd` (R189). -/
def execKadd (d a b : BitVec 5) : State → Host.Outcome State Fault Refusal := issueSeq (kaluEff (· + ·) d a b)

/-- Meaning of `ksub` (R189). -/
def execKsub (d a b : BitVec 5) : State → Host.Outcome State Fault Refusal := issueSeq (kaluEff (· - ·) d a b)

/-- Meaning of `kmul` (R189). -/
def execKmul (d a b : BitVec 5) : State → Host.Outcome State Fault Refusal := issueSeq (kaluEff (· * ·) d a b)

/-- Meaning of `kand` (R189). -/
def execKand (d a b : BitVec 5) : State → Host.Outcome State Fault Refusal := issueSeq (kaluEff (· &&& ·) d a b)

/-- Meaning of `kor` (R189). -/
def execKor (d a b : BitVec 5) : State → Host.Outcome State Fault Refusal := issueSeq (kaluEff (· ||| ·) d a b)

/-- Meaning of `kshl` (R189). -/
def execKshl (d a b : BitVec 5) : State → Host.Outcome State Fault Refusal :=
  issueSeq (kaluEff (fun x y => if y.toNat < 32 then x <<< y.toNat else 0) d a b)

/-- Meaning of `kshr` (R189). -/
def execKshr (d a b : BitVec 5) : State → Host.Outcome State Fault Refusal :=
  issueSeq (kaluEff (fun x y => if y.toNat < 32 then x >>> y.toNat else 0) d a b)

/-- Meaning of `kmov` (R189). -/
def execKmov (d a : BitVec 5) : State → Host.Outcome State Fault Refusal := issueSeq (fun p s => .done (s.setK p d (s.kreg p a)))

/-- Meaning of `kaddi` (R190). -/
def execKaddi (d : BitVec 5) (i : BitVec 16) : State → Host.Outcome State Fault Refusal :=
  issueSeq (fun p s => .done (s.setK p d (s.kreg p d + i.signExtend 32)))

/-- Meaning of `kmovi` (R190). -/
def execKmovi (d : BitVec 5) (i : BitVec 16) : State → Host.Outcome State Fault Refusal :=
  issueSeq (fun p s => .done (s.setK p d (i.signExtend 32)))

/-! ### Stream control -/

/-- The target of a kbr word (R191). -/
def kTarget (pc : DWord) (o : BitVec 16) : DWord := pc + o.signExtend 64 * 4

/-- Meaning of `krep` (R191). -/
def execKrep (a : BitVec 5) (o : BitVec 16) : State → Host.Outcome State Fault Refusal :=
  issueSeq (fun p s =>
    let q := (s.plots.get p).seq
    let n := (s.kreg p a).toNat
    if o.toInt ≤ 0 ∨ 4 ≤ q.loops.length then .fault codeField 0 0
    else if n = 0 then .jump s (kTarget q.pc o + 4)
    else .done (s.modSeq p (fun q => { q with loops := (n, q.pc + 4) :: q.loops })))

/-- Meaning of `kbnz` (R191). -/
def execKbnz (a : BitVec 5) (o : BitVec 16) : State → Host.Outcome State Fault Refusal :=
  issueSeq (fun p s => if s.kreg p a = 0 then .done s else .jump s (kTarget (s.plots.get p).seq.pc o))

/-- Meaning of `kend` (R191). -/
def execKend : State → Host.Outcome State Fault Refusal :=
  issueSeq (fun p s =>
    match (s.plots.get p).seq.loops with
    | [] => .fault codeField 0 0
    | (n, va) :: r =>
      if n - 1 = 0 then .done (s.modSeq p (fun q => { q with loops := r }))
      else .jump (s.modSeq p (fun q => { q with loops := (n - 1, va) :: r })) va)

/-- Meaning of the sequencer's `nbar.arr` (R192). -/
def execCadNbarArr (a : BitVec 5) : State → Host.Outcome State Fault Refusal :=
  issueSeq (fun p s =>
    let q := s.plots.get p
    match q.nbIndex a.toNat with
    | none => .fault codeField 0 0
    | some n =>
      if !q.seq.stores.isEmpty then .wait s .stores
      else .done ((s.modSeq p (fun z => { z with nbLast := z.nbLast.set n ((q.nb.get n).phase + 1) })).nbArrive p n 0))

/-- Meaning of the sequencer's `nbar.wt` (R192). -/
def execCadNbarWt (a : BitVec 5) : State → Host.Outcome State Fault Refusal :=
  issueSeq (fun p s =>
    let q := s.plots.get p
    match q.nbIndex a.toNat with
    | none => .fault codeField 0 0
    | some n => if q.seq.nbLast.get n ≤ (q.nb.get n).phase then .done s else .wait s .nbar)

/-- Meaning of `cend` (R193): the running flag is cleared and the sequencer departs. -/
def execCend : State → Host.Outcome State Fault Refusal :=
  issueSeq (fun p s =>
    let q := s.plots.get p
    let busy := match (s.cores.get q.core).mmaBusy with
      | some m => m.plot == p
      | none => false
    if !q.seq.stores.isEmpty then .wait s .stores
    else if busy then .wait s .array
    else .done ((s.modSeq p (fun z => { z with running := false, ended := true })).nbDepart p))

/-- Meaning of CADENCE_ILLEGAL_OP (R169): the sequencer that fetched the word stops. -/
def execCadenceIllegalOp (s : State) : Host.Outcome State Fault Refusal :=
  let q := (s.plots.get s.curPlot).seq
  .next (if q.present && q.running && !q.faulted then s.seqFault s.curPlot codeOp 0 0 else s)

/-! ### The array's events and the sequencer's resumption -/

/-- Meaning of MMA_COMPLETE (R188): the array is free and warm. -/
def execMmaComplete (c : Nat) (s : State) : Host.Outcome State Fault Refusal :=
  .next (match (s.cores.get c).mmaBusy with
    | some m => if m.ends ≤ s.clk c then
        s.modCore c (fun q => { q with mmaBusy := none, arrayWarm := true, arrayLast := s.clk c }) else s
    | none => s)

/-- Meaning of ARRAY_IDLE (R188): after 1,024 cycles without an `mma` the quadrants go cold. -/
def execArrayIdle (c : Nat) (s : State) : Host.Outcome State Fault Refusal :=
  let q := s.cores.get c
  .next (if q.arrayWarm ∧ q.mmaBusy = none ∧ q.arrayLast + 1024000 ≤ s.clk c then
    s.modCore c (fun q => { q with arrayWarm := false }) else s)

/-- Meaning of SEQUENCER_RESUME (R170): the runtime chooses the program counter of a stopped sequencer. -/
def execSequencerResume (p : Nat) (pc : DWord) (s : State) : Host.Outcome State Fault Refusal :=
  let q := s.plots.get p
  .next (if q.live ∧ q.seq.present ∧ q.seq.faulted then
    s.modSeq p (fun z => { z with faulted := false, pc := pc, wait := .none }) else s)

/-! ### A sequencer's turn -/

/-- Whether the sequencer of plot `p` can run its next word (R168, R170, R415). -/
def State.canSeq (s : State) (p : Nat) : Bool :=
  let q := s.plots.get p
  q.live && q.resident && q.switching.isNone && q.seq.present && q.seq.running && !q.seq.faulted
    && !(s.ctxs.get q.ctx).paused && !(s.launches.get q.launch).paused && s.clockRuns q.core && !(s.grids.get q.core).kick.stop
    && (match q.seq.wait with
      | .page _ _ => false
      | _ => true)

end Sys2Proof.Machine
end

