-- ==== Sys2Proof/Machine/Lane.lean ====
section
/-! DEFINITION. The lane instructions: collectives over a lane block (02_integer_control.md R71 to R77, 04_number_instructions.md
R142, R154 to R158, R165 to R167). A thread waits at one; the event LANE_EVENT gives every member its result in one step. -/

namespace Sys2Proof.Machine

/-- A member of a collective: its thread number, home lane, state and instruction. -/
structure Member where
  u : Nat
  lane : Nat
  t : Thread
  op : LaneOp
  deriving DecidableEq, Repr, Inhabited

/-- The A operand of a member. -/
def Member.a (m : Member) : Word := m.t.src32 m.op.lit m.op.a

/-- The B operand of a member. -/
def Member.b (m : Member) : Word := m.t.src32 m.op.lit m.op.b

/-- The member at a lane. -/
def atLane (ms : List Member) (x : Nat) : Option Member := ms.find? (fun m => m.lane == x)

/-- A value with the flags of the operations it took. -/
abbrev Flagged := Word × Word

/-- One FP32 addition of flagged values, rounded to nearest-even (R77). -/
def faddNe (p q : Flagged) : Flagged :=
  let r := f32.add .ne p.1.toNat q.1.toNat
  (BitVec.ofNat 32 r.1, p.2 ||| q.2 ||| r.2)

/-- `combine` of R77. -/
def combine (p q : Option Flagged) : Option Flagged :=
  match p, q with
  | some x, some y => some (faddNe x y)
  | some x, none => some x
  | none, q => q

/-- One level of the tree of R77 over lane positions. -/
def treeLevel : List (Option Flagged) → List (Option Flagged)
  | p :: q :: r => combine p q :: treeLevel r
  | r => r

/-- The tree of R77 over 32 lane positions. -/
def tree32 (v : List (Option Flagged)) : Option Flagged :=
  (treeLevel (treeLevel (treeLevel (treeLevel (treeLevel v))))).headD none

/-- An operand as the result of no addition: quieted (R77). -/
def quieted (a : Word) : Flagged :=
  let x := f32.decode a.toNat
  if x.isNan then (BitVec.ofNat 32 f32.qnan, flagIf x.isSnan fNV) else (a, 0)

/-- The tree sum of the values of members, by lane; one value is only quieted, none is +0 (R77, R166). -/
def treeSum (vs : List (Nat × Flagged)) : Flagged :=
  match vs with
  | [] => (0, 0)
  | [v] => let q := quieted v.2.1; (q.1, q.2 ||| v.2.2)
  | _ => (tree32 ((List.range 32).map (fun x => (vs.find? (fun v => v.1 == x)).map (·.2)))).getD (0, 0)

/-- Members in ascending lane order. -/
def byLane (ms : List Member) : List Member := (List.range 32).filterMap (atLane ms)

/-- The running sum of `scan.fadd` over values in ascending lane order (R77). -/
def scanSum : List Word → Flagged
  | [] => (0, 0)
  | a :: as => as.foldl (fun acc x => faddNe acc (x, 0)) (if as.isEmpty then quieted a else (a, 0))

/-- Source lane of a shuffle (R75). -/
def shflSource (k : LaneKind) (lane b : Nat) : Option Nat :=
  match k with
  | .shflIdx => some b
  | .shflUp => if b ≤ lane then some (lane - b) else none
  | .shflDn => if lane + b < 32 then some (lane + b) else none
  | _ => some (Nat.xor lane b)

/-- A shuffle's result (R75). -/
def shflResult (ms : List Member) (m : Member) : Word :=
  match shflSource m.op.kind m.lane (m.b.toNat % 32) with
  | none => m.a
  | some x => match atLane ms x with
    | some q => q.a
    | none => m.a

/-- The mask of the lanes whose members satisfy `p`. -/
def laneMask (ms : List Member) (p : Member → Bool) : Word :=
  BitVec.ofNat 32 ((ms.filter p).foldl (fun n m => n + 2 ^ m.lane) 0)

/-- Fold the A operands of the members. -/
def foldA (ms : List Member) (g : Word → Word → Word) : Word :=
  match ms with
  | [] => 0
  | m :: r => r.foldl (fun x q => g x q.a) m.a

/-! ### Rows (R165 to R167) -/

/-- The row: the lanes and elements that are not MASK (R165). -/
def row (ms : List Member) : List (Nat × Word) := (ms.filter (fun m => m.a != maskCode)).map (fun m => (m.lane, m.a))

/-- Some element of the row is a NaN, and a signalling one. -/
def rowNan (r : List (Nat × Word)) : Bool := r.any (fun e => (f32.decode e.2.toNat).isNan)
def rowSnan (r : List (Nat × Word)) : Bool := r.any (fun e => (f32.decode e.2.toNat).isSnan)

/-- The canonical FP32 NaN. -/
def qnan32 : Word := 0x7FC00000

/-- `rs.max` (R166). -/
def rowMax (r : List (Nat × Word)) : Flagged :=
  if rowNan r then (qnan32, flagIf (rowSnan r) fNV)
  else match r with
    | [] => (maskCode, 0)
    | e :: es => (es.foldl (fun x q => BitVec.ofNat 32 (f32.minmax true x.toNat q.2.toNat).1) e.2, 0)

/-- `exp.f32` of a word (R162). -/
def exp32 (t : Thread) (a : Word) : Flagged :=
  let r := Sfn.exp.apply t 0 a
  (BitVec.ofNat 32 r.1, r.2)

/-- exp(round_ne(a − m)) (R166). -/
def expDiff (t : Thread) (a m : Word) : Flagged :=
  let d := f32.sub .ne a.toNat m.toNat
  let e := exp32 t (BitVec.ofNat 32 d.1)
  (e.1, e.2 ||| d.2)

/-- +∞ and 1 in FP32. -/
def posInf : Word := 0x7F800000
def one32 : Word := 0x3F800000

/-- `rs.sexp` for a member's m (R166). -/
def rowSexp (t : Thread) (r : List (Nat × Word)) (m : Word) : Flagged :=
  treeSum (r.map (fun e => (e.1, if m = posInf then (if e.2 = posInf then one32 else 0, 0) else expDiff t e.2 m)))

/-- A value divided by a positive integer, rounded to nearest-even (R166). -/
def divByNat (x : Fp) (n : Nat) : Nat × Word :=
  match x with
  | .fin s m e => f32.round .ne (if m = 0 then .fin s 0 0 else divFp s m e n)
  | y => f32.round .ne y

/-- `rs.mean` (R166). -/
def rowMean (r : List (Nat × Word)) : Flagged :=
  match r with
  | [] => (maskCode, 0)
  | e :: es =>
    let s := Fp.sum false (f32.decode e.2.toNat) (es.map (fun q => f32.decode q.2.toNat))
    let v := divByNat s.1 r.length
    (BitVec.ofNat 32 v.1, v.2 ||| flagIf (s.2 || rowSnan r) fNV)

/-- `rs.dev` for a member's μ (R166). -/
def rowDev (r : List (Nat × Word)) (mu : Word) : Flagged :=
  if r.isEmpty || mu == maskCode then (0, 0)
  else
    let ds := r.map (fun e => Fp.add false (f32.decode e.2.toNat) (f32.decode mu.toNat).neg)
    let s := Fp.sum false (.fin false 0 0) (ds.map (fun d => (Fp.mul d.1 d.1).1))
    let v := f32.round .ne s.1
    (BitVec.ofNat 32 v.1, v.2 ||| flagIf (s.2 || ds.any (·.2)) fNV)

/-- FP32 division with its flags (R140, R166). -/
def fdiv (a b : Word) : Flagged :=
  let x := f32.decode a.toNat
  let y := f32.decode b.toNat
  let s := xor x.sgn y.sgn
  let r : Nat × Word := match x, y with
    | .nan p, .nan q => (f32.qnan, flagIf (p || q) fNV)
    | .nan p, _ | _, .nan p => (f32.qnan, flagIf p fNV)
    | .inf _, .inf _ => (f32.qnan, fNV)
    | .inf _, .fin _ _ _ => f32.round .ne (.inf s)
    | .fin _ _ _, .inf _ => f32.round .ne (.fin s 0 0)
    | .fin _ m e, .fin _ k g =>
      if k = 0 then (if m = 0 then (f32.qnan, fNV) else ((f32.round .ne (.inf s)).1, fDZ))
      else f32.round .ne (if m = 0 then .fin s 0 0 else divFp s m (e - g) k)
  (BitVec.ofNat 32 r.1, r.2)

/-- `rs.fin` (R166): n is the count of the row. -/
def rowFin (t : Thread) (n : Nat) (a b : Word) : Flagged :=
  if n = 0 then (qnan32, fNV)
  else
    let x := f32.decode a.toNat
    let q := divByNat x n
    let p := f32.add .ne q.1 b.toNat
    let r := Sfn.rsqrt.apply t 0 (BitVec.ofNat 32 p.1)
    (BitVec.ofNat 32 r.1, q.2 ||| p.2 ||| r.2)

/-- Whether a word is an FP32 NaN other than MASK. -/
def realNan (x : Word) : Bool := (f32.decode x.toNat).isNan && x != maskCode

/-- `smx.fin` of a member (R166, R167). -/
def smxOf (t : Thread) (a m s : Word) : Flagged :=
  if m = maskCode ∧ s = 0 then (0, fALLMASK)
  else if a = maskCode then (0, 0)
  else if realNan m || realNan s then
    (qnan32, flagIf ((f32.decode m.toNat).isSnan || (f32.decode s.toNat).isSnan) fNV)
  else if m = posInf then (if a = posInf then fdiv one32 s else (0, 0))
  else
    let e := expDiff t a m
    let d := fdiv e.1 s
    (d.1, e.2 ||| d.2)

/-! ### Blocks of four lanes (R142, R154 to R158) -/

/-- The member at the first lane of a member's block. -/
def blockHead (ms : List Member) (lane : Nat) : Option Member := atLane ms (lane / 4 * 4)

/-- `vmx` scales of a member's block (R154); none where the block has none. -/
def vmxScales (ms : List Member) (m : Member) : Option (Nat × Nat) :=
  if m.op.e = 62 then some (127, 127)
  else match blockHead ms m.lane with
    | none => none
    | some h =>
      let x := (h.t.src32 h.op.lit h.op.e).toNat
      let k := m.op.k.toNat
      let sa := bits x (if k % 2 = 0 then 0 else 16) 8
      let sb := if 2 ≤ k then 127 else bits x (if k = 0 then 8 else 24) 8
      if sa = 255 ∨ sb = 255 then none else some (sa, sb)

/-- Element codes of a `vmx` operand: 8 nibbles of a register, or 8 bytes of a pair (R154). -/
def vmxCodes (m : Member) (f : BitVec 6) : List Nat :=
  if m.op.kind = .vmxF4 then (List.range 8).map (laneField (m.t.src32 m.op.lit f) 4)
  else (List.range 8).map (fun i => bits (m.t.src64 m.op.lit f).toNat (8 * i) 8)

/-- `vmx` of a member (R154). -/
def vmxResult (ms : List Member) (m : Member) : Thread × DWord :=
  let r := m.t.draw
  match vmxScales ms m with
  | none => resF r.2 false m.op.d (f32.qnan, fNV)
  | some (sa, sb) =>
    let fm := if m.op.kind = .vmxF4 then e2m1 else if m.op.kind = .vmxE4 then e4m3 else e5m2
    let ps := List.zipWith (fun x y => Fp.mul (fm.decode x) (fm.decode y)) (vmxCodes m m.op.a) (vmxCodes m m.op.b)
    let p := Fp.sum r.1.down (ps.headD (.fin false 0 0, false)).1 (ps.tail.map (·.1))
    let q := p.1.scale ((sa : Int) - 127 + ((sb : Int) - 127))
    let z := Fp.add r.1.down q (f32.decode (m.t.old32 m.op.d).toNat)
    resF r.2 false m.op.d (f32.finish r.1 (z.1, ps.any (·.2) || p.2 || z.2))

/-- The eight elements of a member of a quantiser (R155). -/
def elements (m : Member) : List Word := m.t.getGs m.op.a.toNat 8

/-- The magnitude of an FP32 word, as an order-preserving number. -/
def mag32 (x : Word) : Nat := x.toNat % 2 ^ 31

/-- The candidates of a block: (lane, element, word) of its active members, NaNs left out, in ascending element order (R156). -/
def candidates (ms : List Member) (j : Nat) : List (Nat × Nat × Word) :=
  ((byLane ms).filter (fun m => m.lane / 4 == j)).flatMap (fun m =>
    ((elements m).zipIdx.filter (fun e => !(f32.decode e.1.toNat).isNan)).map (fun e => (m.lane, e.2, e.1)))

/-- The candidate of largest magnitude, the lowest element on a tie (R156). -/
def largest : List (Nat × Nat × Word) → Option (Nat × Nat × Word)
  | [] => none
  | c :: cs => match largest cs with
    | none => some c
    | some d => if mag32 c.2.2 < mag32 d.2.2 then some d else some c

/-- |c| > 2 × m for two FP32 magnitudes (R156). -/
def twice (c m : Word) : Bool :=
  ((f32.decode (mag32 m)).scale 1).lt (f32.decode (mag32 c))

/-- The election of R156: at most `n` outliers of `rest`. -/
def elect : Nat → List (Nat × Nat × Word) → List (Nat × Nat × Word)
  | 0, _ => []
  | n + 1, rest =>
    match largest rest with
    | none => []
    | some c =>
      let r := rest.filter (fun d => !(d.1 == c.1 && d.2.1 == c.2.1))
      let m := match largest r with
        | some d => d.2.2
        | none => 0
      if twice c.2.2 m then c :: elect n r else []

/-- Election count of a control value: 5 to 7 act as 4 (R156). -/
def electCount (x : Nat) : Nat := min (x % 8) 4

/-- The outliers elected in block `j` of an outlier form or of `amax.l` (R156, R158). -/
def elected (ms : List Member) (j : Nat) : List (Nat × Nat × Word) :=
  match atLane ms (4 * j) with
  | none => []
  | some h =>
    let n := match h.op.kind with
      | .amaxL => if h.op.b = 62 then 0 else electCount h.b.toNat
      | _ => electCount (h.b.toNat / 256)
    elect n (candidates ms j)

/-- Scale byte of a member's block (R155, R156): 255 where lane 4j holds no active member. -/
def blockScale (ms : List Member) (m : Member) : Nat :=
  if m.op.b = 62 then 127
  else match blockHead ms m.lane with
    | none => 255
    | some h => h.b.toNat % 256

/-- The target of a quantiser. -/
def qntTarget (k : LaneKind) : Nf :=
  match k with
  | .qntF4 | .qntF4o => .e2m1
  | .qntE5 => .e5m2
  | _ => .e4m3

/-- Codes written to D: one register of eight nibbles, or a pair of bytes (R155). -/
def writeCodes (t : Thread) (nw : Bool) (d : BitVec 6) (n : Nf) (cs : List Nat) : Thread × DWord :=
  let v := packFields n.width cs
  if n.width = 4 then res32 t nw d (BitVec.ofNat 32 v) else res64 t nw d (BitVec.ofNat 64 v)

/-- `qnt` of a member (R155). -/
def qntResult (ms : List Member) (m : Member) : Thread × DWord :=
  let s := blockScale ms m
  let n := qntTarget m.op.kind
  let r := convertAll n (s == 255) m.t ((elements m).map (fun x => (f32.decode x.toNat).scale (127 - (s : Int))))
  writeCodes r.2 m.op.nw m.op.d n r.1

/-- `amax.l` of a member (R158); a signalling NaN among its block's elements raises `nv` in each of the block's members (R140). -/
def amaxResult (ms : List Member) (m : Member) : Flagged :=
  let j := m.lane / 4
  let out := elected ms j
  let cs := (candidates ms j).filter (fun c => !out.any (fun d => d.1 == c.1 && d.2.1 == c.2.1))
  let xs := ((ms.filter (fun q => q.lane / 4 == j)).flatMap elements).map (fun x => f32.decode x.toNat)
  if xs.any Fp.isNan then (qnan32, flagIf (xs.any Fp.isSnan) fNV)
  else match largest cs with
    | none => (0, 0)
    | some c => (BitVec.ofNat 32 (mag32 c.2.2), 0)

/-- Convert the elements of a member of an outlier form in order (R157): the codes, the list entries, and the thread with its flags and
draws. -/
def outlierCodes (n : Nf) (s : Nat) (isOut : Nat → Bool) (t : Thread) : List (Word × Nat) → List Nat × List Word × Thread
  | [] => ([], [], t)
  | (x, i) :: xs =>
    let r := t.draw
    let v := f32.decode x.toNat
    let entry := if v.isNan || s == 255 then qnan32 else x
    let c := if s = 255 then (n.invalid, fNV, true) else n.convert t.nsat r.1 (v.scale (127 - (s : Int)))
    let esc := isOut i || c.1 == n.invalid
    let t' := if isOut i then r.2 else r.2.raise (c.2.1 ||| flagIf c.2.2 fPSN)
    let q := outlierCodes n s isOut t' xs
    ((if esc then n.escape else c.1) :: q.1, if esc then entry :: q.2.1 else q.2.1, q.2.2)

/-- The codes and entries of a member of an outlier form (R156, R157). -/
def outlierOf (ms : List Member) (m : Member) : List Nat × List Word × Thread :=
  let out := elected ms (m.lane / 4)
  let s := match blockHead ms m.lane with
    | none => 255
    | some h => h.b.toNat % 256
  outlierCodes (qntTarget m.op.kind) s (fun i => out.any (fun d => d.1 == m.lane && d.2.1 == i)) m.t (elements m).zipIdx

/-- The list pointer of an outlier collective: the pair B + 2 of its lowest member (R156). -/
def listPointer (m : Member) : DWord := m.t.pair (m.op.b.toNat + 2)

/-- All entries of an outlier collective, in the order they are stored (R157). -/
def outlierEntries (ms : List Member) : List Word := (byLane ms).flatMap (fun m => (outlierOf ms m).2.1)

/-! ### Results -/

/-- A flagged word written to a member's D. -/
def laneWrite (m : Member) (v : Flagged) : Thread × DWord := res32 (m.t.raise v.2) m.op.nw m.op.d v.1

/-- What a lane event gives an active member: its thread after the write, and its latch value (R75, R76, R154 to R158, R166). `ms` are
the active members of its collective. -/
def laneResult (ms : List Member) (m : Member) : Thread × DWord :=
  let w (v : Word) : Thread × DWord := laneWrite m (v, 0)
  let r := row ms
  match m.op.kind with
  | .shflIdx | .shflUp | .shflDn | .shflXor => w (shflResult ms m)
  | .ballot => w (laneMask ms (fun q => q.a != 0))
  | .matchV => w (laneMask ms (fun q => q.a == m.a))
  | .anyV => w (if ms.any (fun q => q.a != 0) then 1 else 0)
  | .allV => w (if ms.all (fun q => q.a != 0) then 1 else 0)
  | .redAdd => w (foldA ms (· + ·))
  | .redMin => w (foldA ms (fun x y => if x.slt y then x else y))
  | .redMax => w (foldA ms (fun x y => if x.slt y then y else x))
  | .redAnd => w (foldA ms (· &&& ·))
  | .redOr => w (foldA ms (· ||| ·))
  | .redFadd => laneWrite m (treeSum (ms.map (fun q => (q.lane, q.a, 0))))
  | .scanAdd => w (foldA (ms.filter (fun q => decide (q.lane ≤ m.lane))) (· + ·))
  | .scanFadd => laneWrite m (scanSum ((byLane (ms.filter (fun q => decide (q.lane ≤ m.lane)))).map (·.a)))
  | .vmxF4 | .vmxE4 | .vmxE5 => vmxResult ms m
  | .qntF4 | .qntE4 | .qntE5 => qntResult ms m
  | .amaxL => laneWrite m (amaxResult ms m)
  | .qntF4o | .qntE4o =>
    let o := outlierOf ms m
    let c := writeCodes o.2.2 m.op.nw m.op.d (qntTarget m.op.kind) o.1
    let p := match byLane ms with
      | l :: _ => listPointer l + BitVec.ofNat 64 (4 * (outlierEntries ms).length)
      | [] => 0
    ((c.1.setG (m.op.b.toNat + 2) p.lo).setG (m.op.b.toNat + 3) p.hi, 0)
  | .rsMax => laneWrite m (rowMax r)
  | .rsSexp => laneWrite m (rowSexp m.t r m.b)
  | .rsMean => laneWrite m (rowMean r)
  | .rsDev => laneWrite m (rowDev r m.b)
  | .rsFin => laneWrite m (rowFin m.t r.length m.a m.b)
  | .smxFin =>
    let b := m.t.src64 m.op.lit m.op.b
    laneWrite m (smxOf m.t m.a b.lo b.hi)

/-! ### Waiting at a lane instruction -/

/-- A lane instruction: steps 1 to 7 of R35, and then the thread waits for the lane event, its guard true or not (R72). -/
def issueLane (op : LaneOp) (s : State) : Host.Outcome State Fault Refusal :=
  let u := s.cur
  let t := s.thr u
  if !t.live then .fault .noThread
  else if t.hazard op.sh then .next s
  else
    let c := t.nextChain op.sh
    if t.badLatch op.sh || (match c with | some x => decide (4 < x.len) | none => false) then
      .next (s.faultAt u (c.map (·.snap)) codeField 0 0)
    else .next (s.setThr u (t.waitFor s.time (.lane { op with active := t.guard op.sh.g }) (c.map (·.snap))))

/-- A lane instruction in A format with B. -/
def laneA (k : LaneKind) (f : FA) (sh : Shape) : LaneOp := ⟨k, f.d, f.a, f.b, 62, 0, f.nw, f.lit, sh, true⟩

/-- A unary lane instruction. -/
def laneU (k : LaneKind) (f : FU) : LaneOp := ⟨k, f.d, f.a, 62, 62, 0, f.nw, f.lit, shLU f, true⟩

/-- A lane instruction in V format (R154). -/
def laneV (k : LaneKind) (f : FV) (n : Nat) : LaneOp := ⟨k, f.d, f.a, f.b, f.s, f.k, false, f.lit, shV f n, true⟩

/-! ### Instructions -/

/-- Meaning of `shflIdx` (R75): the thread waits for its lane event. -/
def execShflIdx (f : FA) : State → Host.Outcome State Fault Refusal := issueLane (laneA .shflIdx f (shLA f 1))

/-- Meaning of `shflUp` (R75): the thread waits for its lane event. -/
def execShflUp (f : FA) : State → Host.Outcome State Fault Refusal := issueLane (laneA .shflUp f (shLA f 1))

/-- Meaning of `shflDn` (R75): the thread waits for its lane event. -/
def execShflDn (f : FA) : State → Host.Outcome State Fault Refusal := issueLane (laneA .shflDn f (shLA f 1))

/-- Meaning of `shflXor` (R75): the thread waits for its lane event. -/
def execShflXor (f : FA) : State → Host.Outcome State Fault Refusal := issueLane (laneA .shflXor f (shLA f 1))

/-- Meaning of `ballot` (R75): the thread waits for its lane event. -/
def execBallot (f : FU) : State → Host.Outcome State Fault Refusal := issueLane (laneU .ballot f)

/-- Meaning of `laneMatch` (R75): the thread waits for its lane event. -/
def execLaneMatch (f : FU) : State → Host.Outcome State Fault Refusal := issueLane (laneU .matchV f)

/-- Meaning of `laneAny` (R75): the thread waits for its lane event. -/
def execLaneAny (f : FU) : State → Host.Outcome State Fault Refusal := issueLane (laneU .anyV f)

/-- Meaning of `laneAll` (R75): the thread waits for its lane event. -/
def execLaneAll (f : FU) : State → Host.Outcome State Fault Refusal := issueLane (laneU .allV f)

/-- Meaning of `redAdd` (R76, R77): the thread waits for its lane event. -/
def execRedAdd (f : FU) : State → Host.Outcome State Fault Refusal := issueLane (laneU .redAdd f)

/-- Meaning of `redMin` (R76, R77): the thread waits for its lane event. -/
def execRedMin (f : FU) : State → Host.Outcome State Fault Refusal := issueLane (laneU .redMin f)

/-- Meaning of `redMax` (R76, R77): the thread waits for its lane event. -/
def execRedMax (f : FU) : State → Host.Outcome State Fault Refusal := issueLane (laneU .redMax f)

/-- Meaning of `redAnd` (R76, R77): the thread waits for its lane event. -/
def execRedAnd (f : FU) : State → Host.Outcome State Fault Refusal := issueLane (laneU .redAnd f)

/-- Meaning of `redOr` (R76, R77): the thread waits for its lane event. -/
def execRedOr (f : FU) : State → Host.Outcome State Fault Refusal := issueLane (laneU .redOr f)

/-- Meaning of `redFadd` (R76, R77): the thread waits for its lane event. -/
def execRedFadd (f : FU) : State → Host.Outcome State Fault Refusal := issueLane (laneU .redFadd f)

/-- Meaning of `scanAdd` (R76, R77): the thread waits for its lane event. -/
def execScanAdd (f : FU) : State → Host.Outcome State Fault Refusal := issueLane (laneU .scanAdd f)

/-- Meaning of `scanFadd` (R76, R77): the thread waits for its lane event. -/
def execScanFadd (f : FU) : State → Host.Outcome State Fault Refusal := issueLane (laneU .scanFadd f)

/-- Meaning of `vmxF4` (R154): the thread waits for its lane event. -/
def execVmxF4 (f : FV) : State → Host.Outcome State Fault Refusal := issueLane (laneV .vmxF4 f 1)

/-- Meaning of `vmxE4` (R154): the thread waits for its lane event. -/
def execVmxE4 (f : FV) : State → Host.Outcome State Fault Refusal := issueLane (laneV .vmxE4 f 2)

/-- Meaning of `vmxE5` (R154): the thread waits for its lane event. -/
def execVmxE5 (f : FV) : State → Host.Outcome State Fault Refusal := issueLane (laneV .vmxE5 f 2)

/-- Meaning of `qntF4` (R155): the thread waits for its lane event. -/
def execQntF4 (f : FA) : State → Host.Outcome State Fault Refusal := issueLane (laneA .qntF4 f (shQ f 1))

/-- Meaning of `qntE4` (R155): the thread waits for its lane event. -/
def execQntE4 (f : FA) : State → Host.Outcome State Fault Refusal := issueLane (laneA .qntE4 f (shQ f 2))

/-- Meaning of `qntE5` (R155): the thread waits for its lane event. -/
def execQntE5 (f : FA) : State → Host.Outcome State Fault Refusal := issueLane (laneA .qntE5 f (shQ f 2))

/-- Meaning of `qntF4o` (R156, R157): the thread waits for its lane event. -/
def execQntF4o (f : FA) : State → Host.Outcome State Fault Refusal := issueLane (laneA .qntF4o f (shQO f 1))

/-- Meaning of `qntE4o` (R156, R157): the thread waits for its lane event. -/
def execQntE4o (f : FA) : State → Host.Outcome State Fault Refusal := issueLane (laneA .qntE4o f (shQO f 2))

/-- Meaning of `amaxL` (R158): the thread waits for its lane event. -/
def execAmaxL (f : FA) : State → Host.Outcome State Fault Refusal := issueLane (laneA .amaxL f (shQ f 1))

/-- Meaning of `rsMax` (R166): the thread waits for its lane event. -/
def execRsMax (f : FA) : State → Host.Outcome State Fault Refusal := issueLane (laneA .rsMax f (shLA f 1))

/-- Meaning of `rsSexp` (R166): the thread waits for its lane event. -/
def execRsSexp (f : FA) : State → Host.Outcome State Fault Refusal := issueLane (laneA .rsSexp f (shLA f 1))

/-- Meaning of `rsMean` (R166): the thread waits for its lane event. -/
def execRsMean (f : FA) : State → Host.Outcome State Fault Refusal := issueLane (laneA .rsMean f (shLA f 1))

/-- Meaning of `rsDev` (R166): the thread waits for its lane event. -/
def execRsDev (f : FA) : State → Host.Outcome State Fault Refusal := issueLane (laneA .rsDev f (shLA f 1))

/-- Meaning of `rsFin` (R166): the thread waits for its lane event. -/
def execRsFin (f : FA) : State → Host.Outcome State Fault Refusal := issueLane (laneA .rsFin f (shLA f 1))

/-- Meaning of `smxFin` (R166, R167): the thread waits for its lane event. -/
def execSmxFin (f : FA) : State → Host.Outcome State Fault Refusal := issueLane (laneA .smxFin f (shLA f 2))

/-! ### The lane event -/

/-- The live threads of a lane block: threads of plot `p` whose slot lies in block `blk` (R71). -/
def State.blockThreads (s : State) (p blk : Nat) : List Nat :=
  (s.threads.filter (fun e => e.2.live && e.2.plot == p && e.2.slot / 32 == blk)).map (·.1)

/-- The members waiting at lane instructions among threads. -/
def State.laneMembers (s : State) (us : List Nat) : List Member :=
  us.filterMap (fun u => match (s.thr u).wait with
    | .lane op => some ⟨u, (s.thr u).slot % 32, s.thr u, op⟩
    | _ => none)

/-- Complete one member's instruction (R72 step 4, R37). -/
def State.laneFinish (s : State) (ms : List Member) (m : Member) : State :=
  let q := m.t.snap
  let c := m.t.nextChain m.op.sh
  let next := m.t.pc + BitVec.ofNat 64 m.op.sh.len
  if m.op.active then
    let r := laneResult (ms.filter (fun x => x.op.active && x.t.pc == m.t.pc)) m
    s.setThr m.u { (if m.op.sh.producer then r.1.produce q c r.2 else r.1.breakLatches).goTo next with age := s.time }
  else s.setThr m.u { (if m.op.sh.producer then m.t.pass c else m.t.breakLatches).goTo next with age := s.time }

/-- Store the entries of an outlier collective from `va` on, as plain 4-byte stores of thread `u` (R157). -/
def State.storeEntries (s : State) (u : Nat) (va : DWord) : List Word → State
  | [] => s
  | e :: es =>
    let s' := match s.startStore u va (leBytes 4 e.toNat) false with
      | .done s' => s'
      | _ => s
    State.storeEntries s' u (va + 4) es

/-- What the store range of a member's outlier collective answers: fine, a wait of its active members, or a fault (R157). -/
inductive OutlierChk where
  | fine
  | miss (va : DWord)
  | stall
  | bad (code : Nat) (va : DWord)

/-- The check of P to P + 4N − 1 for the collective of active members `ms` (R157). -/
def State.outlierCheck (s : State) (ms : List Member) : OutlierChk :=
  let n := 4 * (outlierEntries ms).length
  match byLane ms with
  | [] => .fine
  | l :: _ =>
    if (l.op.kind ≠ .qntF4o ∧ l.op.kind ≠ .qntE4o) ∨ n = 0 then .fine
    else match s.check (s.who l.t) .write (listPointer l) n with
      | .bad c => .bad c (listPointer l)
      | .miss va => .miss va
      | .ok _ => if s.scoreHit l.t true (listPointer l).toNat n then .stall else .fine

/-- The collectives of an event: members by the address they wait at (R72 step 1). -/
def collectives : List Member → List (List Member)
  | [] => []
  | m :: ms =>
    let rest := collectives ms
    if rest.any (fun c => c.any (fun x => x.t.pc == m.t.pc)) then
      rest.map (fun c => if c.any (fun x => x.t.pc == m.t.pc) then m :: c else c)
    else [m] :: rest

/-- A member with the stores and completion times its thread has now: the entries just stored belong to it. -/
def Member.refresh (m : Member) (q : Thread) : Member :=
  { m with t := { m.t with stores := q.stores, seq := q.seq, tCore := q.tCore, tDie := q.tDie, tPkg := q.tPkg, tSys := q.tSys } }

/-- One collective of a lane event (R72 step 3): a fault in every active member, a wait, or every member's result. -/
def State.runCollective (s : State) (ms : List Member) : State :=
  let act := ms.filter (·.op.active)
  match s.outlierCheck act with
  | .bad code va => act.foldl (fun s m => s.faultAt m.u (m.t.pend) code 0 va) s
  | .miss va => act.foldl (fun s m => s.modThr m.u (fun t => t.waitFor s.time (.walk va .write) t.pend)) s
  | .stall => s
  | .fine =>
    let s1 := match byLane act with
      | l :: _ => if l.op.kind = .qntF4o ∨ l.op.kind = .qntE4o then s.storeEntries l.u (listPointer l) (outlierEntries act) else s
      | [] => s
    ms.foldl (fun s' m => s'.laneFinish ms (m.refresh (s'.thr m.u))) s1

/-- Meaning of LANE_EVENT (R72): when every live thread of the lane block waits at a lane instruction, every collective takes its
effect and every member passes. -/
def execLaneEvent (p blk : Nat) (s : State) : Host.Outcome State Fault Refusal :=
  let us := s.blockThreads p blk
  let ms := s.laneMembers us
  if us.isEmpty || ms.length != us.length || !(s.plots.get p).resident then .next s
  else .next ((collectives ms).foldl (fun s c => s.runCollective c) s)

end Sys2Proof.Machine
end

