-- ==== Sys2Proof/Machine/Micro.lean ====
section
/-! DEFINITION. Micro-sequences (05_cadence_microcode.md R202 to R212, 10_outliers_microseq.md R382 to R396): the verifier, the control
store's updates, and the run of a macro in the front end and in the grid. -/

namespace Sys2Proof.Machine

/-! ### Words -/

/-- The fields of a micro-operation word (R203). -/
def uOp (w : Word) : Nat := bits w.toNat 26 6
def uMd (w : Word) : Nat := bits w.toNat 23 3
def uS1 (w : Word) : Nat := bits w.toNat 18 5
def uS2 (w : Word) : Nat := bits w.toNat 13 5
def uImm (w : Word) : Nat := bits w.toNat 0 13

/-- Whether a word is a commit (R207). -/
def uCommit (w : Word) : Bool := uOp w == 0x22 || uOp w == 0x23

/-- Whether a word is a branch (R205). -/
def uBranch (w : Word) : Bool := uOp w == 0x28 || uOp w == 0x29

/-- The micro-operations of R205 with sources S1 and S2 and no field in IMM13. -/
def uPlain (o : Nat) : Bool := decide (o ≤ 0x0A) || (decide (0x0B ≤ o) && decide (o ≤ 0x0E)) || (decide (0x10 ≤ o) && decide (o ≤ 0x14))

/-- Whether an opcode stands in R205. -/
def uKnown (o : Nat) : Bool := uPlain o || [0x18, 0x19, 0x1A, 0x1B, 0x1C, 0x20, 0x21, 0x22, 0x23, 0x28, 0x29, 0x2F].contains o

/-- A pair code (R204). -/
def pairCode (s : Nat) : Bool := s % 2 == 0 && decide (s ≤ 14)

/-- The field checks of a word (R203 to R207). -/
def uFields (w : Word) : Bool :=
  let o := uOp w
  let md := uMd w
  let a := uS1 w
  let b := uS2 w
  let i := uImm w
  if uPlain o then decide (a ≤ 15) && decide (b ≤ 15) && (a == 15 || b == 15 || i == 0)
  else if o = 0x18 ∨ o = 0x19 then decide (a ≤ 14) && decide (b ≤ 14) && decide (i < 8)
  else if o = 0x1A then decide (a ≤ 14) && b == 0 && decide (i < 2048)
  else if o = 0x1B then decide (a ≤ 14) && b == 0 && decide (i < 1024)
  else if o = 0x1C then true
  else if o = 0x20 then pairCode a && decide (b < 4) && (b != 3 || md % 2 == 0)
  else if o = 0x21 then pairCode a && decide (b < 4) && decide (md < 2)
  else if o = 0x22 ∨ o = 0x23 then decide (a ≤ 14) && b == 0 && i == 0 && decide (md < 2)
  else if o = 0x28 ∨ o = 0x29 then decide (a ≤ 14) && b == 0 && md == 0
  else w.toNat % 2 ^ 26 == 0

/-- Whether the branch at `i` of `n` words has a target that R208 allows. -/
def uTarget (w : Word) (i n : Nat) : Bool := decide (1 ≤ sgn 13 (uImm w)) && decide (i + uImm w ≤ n - 1)

/-- The cost of a word (R205). -/
def uCost (w : Word) : Nat := if uOp w = 0x09 ∨ uOp w = 0x0A ∨ uOp w = 0x12 then 2 else 1

/-! ### The verifier -/

/-- The first failure that a word meets on its own (R209 step 2): whether it is WCS.PRIV, and the reason. -/
def uWordBad (w : Word) (i n : Nat) : Option (Bool × Nat) :=
  if 0x38 ≤ uOp w then some (true, 0)
  else if !uKnown (uOp w) then some (false, 2)
  else if !uFields w then some (false, 3)
  else if uBranch w && !uTarget w i n then some (false, 4)
  else none

/-- The indices that follow word `i` on some path (R208). -/
def uNext (w : Word) (i : Nat) : List Nat := if uOp w = 0x2F then [] else if uBranch w then [i + 1, i + uImm w] else [i + 1]

/-- The word at an index; `end` beyond the last. -/
def uAt (ws : List Word) (i : Nat) : Word := ws.getD i 0xBC000000

/-- Carry facts forward along every path: `m` holds the facts that reach each word, `step` gives those that leave it. -/
def uFlow {α : Type} [DecidableEq α] (ws : List Word) (step : Nat → α → α) (start : α) : FMap (List α) :=
  (List.range ws.length).foldl (fun m i =>
    let out := ((m.get i).map (step i)).dedup
    (uNext (uAt ws i) i).foldl (fun m j => m.modify j (fun l => (l ++ out).dedup)) m) (FMap.set [] 0 [start])

/-- STEPS (R208): the first word at which some path's cost passes 64. -/
def badSteps (ws : List Word) : Option Nat :=
  let m := uFlow ws (fun i c => c + uCost (uAt ws i)) 0
  (List.range ws.length).find? (fun i => (m.get i).any (fun c => decide (64 < c + uCost (uAt ws i))))

/-- The `k`-th word (from 0) with an opcode. -/
def nthOp (ws : List Word) (o k : Nat) : Option Nat := ((List.range ws.length).filter (fun i => uOp (uAt ws i) == o))[k]?

/-- COMMITS (R208): the fifth commit, or a word after a reached commit that is neither a commit nor `end`. -/
def badCommits (ws : List Word) : Option Nat :=
  let m := uFlow ws (fun i after => after || uCommit (uAt ws i)) false
  let commits := (List.range ws.length).filter (fun i => uCommit (uAt ws i))
  (List.range ws.length).find? (fun i =>
    commits[4]? == some i || ((m.get i).contains true && !uCommit (uAt ws i) && uOp (uAt ws i) != 0x2F))

/-- The probe slots after a word: one more than each slot's size, 0 for none (R206). -/
def probeStep (w : Word) (q : Nat × Nat) : Nat × Nat :=
  if uOp w = 0x21 then (if uMd w % 2 = 0 then (uS2 w % 4 + 1, q.2) else (q.1, uS2 w % 4 + 1)) else q

/-- The slots that may reach each word. -/
def probeFlow (ws : List Word) : FMap (List (Nat × Nat)) := uFlow ws (fun i q => probeStep (uAt ws i) q) (0, 0)

/-- UNPROBED (R208): a `cmt.st` whose slot may be unprobed, or is double with no pair code. -/
def badProbes (ws : List Word) : Option Nat :=
  let m := probeFlow ws
  (List.range ws.length).find? (fun i =>
    let w := uAt ws i
    uOp w == 0x23 && (m.get i).any (fun q =>
      let z := if uMd w % 2 = 0 then q.1 else q.2
      z == 0 || (z == 4 && !pairCode (uS1 w))))

/-- A failure as WCS.REJECT's reason and index. -/
def reject (reason : Nat) (i : Option Nat) : Option (Bool × Nat × Nat) := i.map (fun i => (false, reason, i))

/-- The verifier (R208, R209) on a header, B of `wcsld`, the words and the bank's free words: WCS.PRIV or WCS.REJECT, reason, index. -/
def wcsVerify (header b : Word) (ws : List Word) (free : Nat) : Option (Bool × Nat × Nat) :=
  let n := bits header.toNat 0 8
  if n = 0 ∨ 48 < n ∨ header.toNat / 256 ≠ 0 ∨ bits b.toNat 2 6 ≠ 0 ∨ bits b.toNat 14 18 ≠ 0 then some (false, 1, 0)
  else
    match (List.range n).findSome? (fun i => (uWordBad (uAt ws i) i n).map (fun r => (r.1, r.2, i))) with
    | some r => some r
    | none =>
      (reject 5 (if uOp (uAt ws (n - 1)) = 0x2F then none else some (n - 1))).or <|
      (reject 6 (badSteps ws)).or <| (reject 7 (nthOp ws 0x20 2)).or <| (reject 8 (nthOp ws 0x21 2)).or <|
      (reject 9 (badCommits ws)).or <| (reject 10 (badProbes ws)).or <|
      reject 11 (if free < n then some 0 else none)

/-! ### The control store -/

/-- Words that a bank has free for a selector's replacement (R208). -/
def Bank.free (b : Bank) (sel : Nat) : Nat :=
  1024 - (b.seqs.foldl (fun n e => if e.1 = sel then n else n + e.2.length) 0)

/-- The bank bound to a context on a core (R137, R384). -/
def Core.bankOf (c : Core) (x : Nat) : Option Nat := (List.range 4).find? (fun b => (c.banks.get b).bound == some x)

/-- Apply an update of the control store (R136, R137, R382 to R384). -/
def Core.update (c : Core) (u : BankUpdate) : Core :=
  match u with
  | .load b sel ws => { c with banks := c.banks.modify b (fun q => { q with seqs := q.seqs.set sel ws }) }
  | .unbind x =>
    match c.bankOf x with
    | some b => { c with banks := c.banks.modify b (fun q => { q with bound := none }) }
    | none => c
  | .bind b x =>
    let c1 := match c.bankOf x with
      | some b' => { c with banks := c.banks.modify b' (fun q => { q with bound := none }) }
      | none => c
    { c1 with banks := c1.banks.modify b (fun q =>
        { q with bound := some x, owner := some x, seqs := if q.owner = some x then q.seqs else [] }) }

/-- The banks whose macros an update abandons (R383). -/
def Core.updateBanks (c : Core) (u : BankUpdate) : List Nat :=
  match u with
  | .load b _ _ => [b]
  | .unbind x => (c.bankOf x).toList
  | .bind b x => b :: (c.bankOf x).toList

/-- Whether a macro of one of the banks is in its compute phase, or waits to commit, on core `c`. -/
def State.macroIn (s : State) (c : Nat) (bs : List Nat) : Bool :=
  s.threads.any (fun e => s.coreOf e.2 == c && (match e.2.mrun with
    | some r => bs.contains r.bank
    | none => false))

/-- Abandon the macros of the banks on core `c` (R383): they start again when their threads next issue. -/
def State.abandon (s : State) (c : Nat) (bs : List Nat) : State :=
  (s.threads.keys).foldl (fun s u =>
    let t := s.thr u
    match t.mrun with
    | some r => if s.coreOf t = c ∧ bs.contains r.bank then s.setThr u { t with mrun := none, bulk := none, wait := .none, loads := t.loads.filter (fun l => !l.dst.isBulk) } else s
    | none => s) s

/-- Take an update's effect on core `c` (R383). -/
def State.applyUpdate (s : State) (c : Nat) (u : BankUpdate) : State :=
  (s.abandon c ((s.cores.get c).updateBanks u)).modCore c (fun q => q.update u)

/-- The effect of a `wcsld` or `wcsbind` that its checks have passed: at once where no macro of the bank runs, else when WCS_UPDATE_APPLY
takes it (R383). -/
def updateEff (u : BankUpdate) (k : State → Eff) (s : State) : Eff :=
  let t := s.thr s.cur
  let c := s.coreOf t
  if s.macroIn c ((s.cores.get c).updateBanks u) then
    .wait (s.modCore c (fun q => { q with updates := q.updates ++ [(s.cur, u)] })) .bankWait
  else k (s.applyUpdate c u)

/-- A `wcsld` or `wcsbind` that waits for its update goes on when it has taken effect; before that, it makes its checks. -/
def bankEff (k checks : State → Eff) (s : State) : Eff :=
  let t := s.thr s.cur
  if t.wait = .bankWait then
    (if (s.cores.get (s.coreOf t)).updates.any (fun e => e.1 == s.cur) then .wait s .bankWait else k s)
  else checks s

/-- Read `n` bytes at `va` for the instruction, whatever it has read before. -/
def State.readMore (s : State) (u : Nat) (va : DWord) (n : Nat) (k : List Byte → Eff) : Eff :=
  match s.startLoad u va n (.bulk 0) .dflt false false with
  | .now bs => k bs
  | .later s' => .wait s' .bulk
  | .blocked w => .wait s w
  | .bad c => .fault c 0 va

/-- A `wcsld` that has taken effect (R136). -/
def wcsldDone (f : FA) (s : State) : Eff := .done (s.modThr s.cur (fun t => t.wr32 f.nw f.d 0)) 0

/-- The end of a `wcsld` with its image read (R136, R209). -/
def wcsldImage (f : FA) (b : Word) (bs : List Byte) (s : State) : Eff :=
  let t := s.thr s.cur
  let bank := (s.cores.get (s.coreOf t)).banks.get (bits b.toNat 0 2)
  let sel := bits b.toNat 8 6
  let ws := loadWords (bs.drop 4) ((bs.length - 4) / 4)
  match wcsVerify (BitVec.ofNat 32 (leNat (bs.take 4))) b ws (bank.free sel) with
  | some (priv, reason, i) => .fault (if priv then codeWcsPriv else codeWcsReject) (64 * reason + i) 0
  | none => updateEff (.load (bits b.toNat 0 2) sel ws) (wcsldDone f) s

/-- Meaning of `wcsld` (R134, R136): the header is read first, then the whole image. -/
def execWcsld (f : FA) : State → Host.Outcome State Fault Refusal :=
  issue (shD f 2 1 1) (fun s =>
    let t := s.thr s.cur
    let va := t.src64 f.lit f.a
    let b := t.src32 f.lit f.b
    bankEff (wcsldDone f) (fun s =>
      if va.toNat % 4 ≠ 0 ∨ va.toNat / 2 ^ 60 ≠ 0 then .fault codeAddr 0 va
      else s.withBytes s.cur va 4 (fun bs =>
        let n := leNat (bs.take 1)
        if 4 < bs.length ∨ n = 0 ∨ 48 < n then wcsldImage f b bs s
        else s.readMore s.cur va (4 + 4 * n) (fun bs => wcsldImage f b bs s))) s)

/-- Meaning of `wcsbind` (R134, R137, R384). -/
def execWcsbind (f : FAB) : State → Host.Outcome State Fault Refusal :=
  issue (shAB f 1 1 1) (fun s =>
    let t := s.thr s.cur
    let x := (t.src32 f.lit f.a).toNat
    let b := (t.src32 f.lit f.b).toNat
    if 4095 < x ∨ (3 < b ∧ b ≠ 0xFFFFFFFF) then .fault codeField 0 0
    else bankEff (fun s => .done s 0) (updateEff (if b = 0xFFFFFFFF then .unbind x else .bind b x) (fun s => .done s 0)) s)

/-- Whether an update still fits (R208): a sequence needs its words free when it takes effect. -/
def Core.updateFits (c : Core) (u : BankUpdate) : Bool :=
  match u with
  | .load b sel ws => decide (ws.length ≤ (c.banks.get b).free sel)
  | _ => true

/-- Meaning of WCS_UPDATE_APPLY (R383): the oldest waiting update of the core takes effect. A `wcsld` whose words an earlier update has left
no room for makes its checks again (R208, R209). -/
def execWcsUpdateApply (c : Nat) (s : State) : Host.Outcome State Fault Refusal :=
  .next (match (s.cores.get c).updates with
    | [] => s
    | (u, q) :: r =>
      let s1 := s.modCore c (fun k => { k with updates := r })
      if (s.thr u).live && (s.thr u).wait == .bankWait then
        (if (s.cores.get c).updateFits q then s1.applyUpdate c q else s1.modThr u (fun t => { t with wait := .none, bulk := none, age := s.time }))
      else s1)

/-! ### Operands of a sequence -/

/-- The 32-bit source codes that a word reads (R205). -/
def uReads (w : Word) : List Nat :=
  let o := uOp w
  if uPlain o ∨ o = 0x18 ∨ o = 0x19 then [uS1 w, uS2 w]
  else if o = 0x1A ∨ o = 0x1B ∨ o = 0x22 ∨ o = 0x23 ∨ o = 0x28 ∨ o = 0x29 then [uS1 w]
  else []

/-- Whether a sequence uses the operand whose pair code is `p` as a pair, or reads its high word (R202). -/
def usesPair (ws : List Word) (p : Nat) : Bool :=
  let m := probeFlow ws
  (List.range ws.length).any (fun i =>
    let w := uAt ws i
    (uReads w).contains (p + 1)
    || ((uOp w == 0x20 || uOp w == 0x21) && uS1 w == p)
    || (uOp w == 0x23 && uS1 w == p && (m.get i).any (fun q => (if uMd w % 2 = 0 then q.1 else q.2) == 4)))

/-- Whether a sequence commits to `d` (`h` = 0) or `d.hi` (`h` = 1). -/
def commitsTo (ws : List Word) (h : Nat) : Bool := ws.any (fun w => uOp w == 0x22 && uMd w % 2 == h)

/-- Whether a register field is odd. -/
def oddReg (v : BitVec 6) : Bool := decide (v.toNat < 60) && v.toNat % 2 == 1

/-- The dynamic field checks of a macro (R202). -/
def macroFieldBad (ws : List Word) (f : FX) : Bool :=
  (usesPair ws 8 && oddReg f.a) || (usesPair ws 10 && oddReg f.b) || (usesPair ws 12 && oddReg f.d)
  || (commitsTo ws 0 && [60, 61, 63].contains f.d.toNat)
  || (commitsTo ws 1 && (oddReg f.d || [60, 61, 63].contains f.d.toNat))

/-- The shape of a macro with the registers that its sequence uses (R202). -/
def shMacro (ws : List Word) (f : FX) : Shape :=
  let n (b : Bool) : Nat := if b then 2 else 1
  { shX f with
    fields := [(.src (n (usesPair ws 12 || commitsTo ws 1)), f.d), (.src (n (usesPair ws 8)), f.a), (.src (n (usesPair ws 10)), f.b)]
    priv := if macroFieldBad ws f then 3 else 0 }

/-! ### The compute phase -/

/-- The 32-bit value of a source code (R204). -/
def MacroRun.src (r : MacroRun) (code imm : Nat) : Word :=
  if code < 8 then r.m.get code
  else if code = 8 then r.da.lo
  else if code = 9 then r.da.hi
  else if code = 10 then r.db.lo
  else if code = 11 then r.db.hi
  else if code = 12 then r.dd.lo
  else if code = 13 then r.dd.hi
  else if code = 14 then 0
  else (BitVec.ofNat 13 imm).signExtend 32

/-- The pair value of a source code (R204). -/
def MacroRun.pairSrc (r : MacroRun) (code : Nat) : DWord :=
  if code < 8 then DWord.mk (r.m.get (code + 1)) (r.m.get code)
  else if code = 8 then r.da
  else if code = 10 then r.db
  else if code = 12 then r.dd
  else 0

/-- The condition of `cmp` (R69, R205). -/
def uCond (c : Nat) (a b : Word) : Bool :=
  if c = 0 then a == b
  else if c = 1 then a != b
  else if c = 2 then a.slt b
  else if c = 3 then a.sle b
  else if c = 4 then a.ult b
  else if c = 5 then a.ule b
  else if c = 6 then a &&& b != 0
  else a &&& b == 0

/-- A result with flags. -/
def fpRes (v : Nat × Word) : Word × Word := (BitVec.ofNat 32 v.1, v.2)

/-- The value that a word computes, with its flags (R205). -/
def uCompute (r : MacroRun) (w : Word) : Word × Word :=
  let o := uOp w
  let i := uImm w
  let a := r.src (uS1 w) i
  let b := r.src (uS2 w) i
  let d := r.m.get (uMd w)
  let x := a.toNat
  let y := b.toNat
  let field : Word := BitVec.ofNat 32 (i % 32 + 256 * bits i 5 5)
  if o = 0x00 then (a + b, 0)
  else if o = 0x01 then (a - b, 0)
  else if o = 0x02 then (a &&& b, 0)
  else if o = 0x03 then (a ||| b, 0)
  else if o = 0x04 then (a ^^^ b, 0)
  else if o = 0x05 then (a &&& ~~~b, 0)
  else if o = 0x06 then (shlW a b, 0)
  else if o = 0x07 then (shrW a b, 0)
  else if o = 0x08 then (sraW a b, 0)
  else if o = 0x09 then (a * b, 0)
  else if o = 0x0A then (BitVec.ofNat 32 (x * y / 2 ^ 32), 0)
  else if o = 0x0B then (if b.slt a then b else a, 0)
  else if o = 0x0C then (if a.slt b then b else a, 0)
  else if o = 0x0D then (if b.ult a then b else a, 0)
  else if o = 0x0E then (if a.ult b then b else a, 0)
  else if o = 0x10 then fpRes (f32.add .ne x y)
  else if o = 0x11 then fpRes (f32.mul .ne x y)
  else if o = 0x12 then fpRes (f32.fma .ne false false x y d.toNat)
  else if o = 0x13 then fpRes (f32.minmax false x y)
  else if o = 0x14 then fpRes (f32.minmax true x y)
  else if o = 0x18 then (if r.m.get (i % 8) ≠ 0 then a else b, 0)
  else if o = 0x19 then (BitVec.ofNat 32 (b2n (uCond (i % 8) a b)), 0)
  else if o = 0x1A then (if bit i 10 then bfxSW a field else bfxUW a field, 0)
  else if o = 0x1B then (bfiW d a field, 0)
  else ((BitVec.ofNat 23 w.toNat).signExtend 32, 0)

/-- The run after a word that computes a value or branches (R205). -/
def MacroRun.alu (r : MacroRun) (w : Word) : MacroRun :=
  if uBranch w then
    let z := r.src (uS1 w) 0 == 0
    { r with i := if z == (uOp w == 0x28) then r.i + uImm w else r.i + 1 }
  else
    let v := uCompute r w
    { r with m := r.m.set (uMd w) v.1, flags := r.flags ||| v.2, i := r.i + 1 }

/-- The temporaries after an `ld.s` of size code `z` (R206). -/
def MacroRun.loaded (r : MacroRun) (w : Word) (bs : List Byte) : MacroRun :=
  let v := leNat bs
  let m1 := r.m.set (uMd w) (BitVec.ofNat 32 v)
  { r with m := if uS2 w % 4 = 3 then m1.set (uMd w + 1) (BitVec.ofNat 32 (v / 2 ^ 32)) else m1, i := r.i + 1 }

/-- Record a probe, with the homes that its translations give (R206, R211). -/
def MacroRun.probed (r : MacroRun) (w : Word) (va : DWord) (ps : List Part) : MacroRun :=
  let q : Probe := ⟨va, 2 ^ (uS2 w % 4), ps⟩
  if uMd w % 2 = 0 then { r with q0 := some q, i := r.i + 1 } else { r with q1 := some q, i := r.i + 1 }

/-- The address of an `ld.s` or `probe` (R206). -/
def MacroRun.addr (r : MacroRun) (w : Word) : DWord := r.pairSrc (uS1 w) + (BitVec.ofNat 13 (uImm w)).signExtend 64

/-! ### The commits -/

/-- The probe slot that a `cmt.st` names (R207). -/
def MacroRun.slot (r : MacroRun) (w : Word) : Option Probe := if uMd w % 2 = 0 then r.q0 else r.q1

/-- One commit (R207, R211): a store goes to the homes that its probe found. -/
def State.commitOne (s : State) (u : Nat) (r : MacroRun) (w : Word) : State :=
  if uOp w = 0x22 then s.modThr u (fun t => if r.d < 60 then t.setG (r.d + uMd w % 2) (r.src (uS1 w) 0) else t)
  else match r.slot w with
    | none => s
    | some q =>
      let v := if q.size = 8 then (r.pairSrc (uS1 w)).toNat else (r.src (uS1 w) 0).toNat
      (s.putParts u q.addr (leBytes q.size v) q.parts).modThr u (fun t => { t with seq := t.seq + 1 })

/-- The commits of a sequence from word `i` on (R208, R210). -/
def commitWords (ws : List Word) (i : Nat) : List Word := (ws.drop i).takeWhile uCommit

/-- Perform every commit and add the flags (R210). -/
def State.commitAll (s : State) (u : Nat) (ws : List Word) (r : MacroRun) : State :=
  ((commitWords ws r.i).foldl (fun s w => s.commitOne u r w) s).modThr u (fun t => { t with fpsr := t.fpsr ||| r.flags })

/-- Whether the scoreboard conflicts with a probed address (R103, R210). -/
def State.macroHit (s : State) (t : Thread) (r : MacroRun) : Bool :=
  [r.q0, r.q1].any (fun q => match q with
    | some p => s.scoreHit t true p.addr.toNat p.size
    | none => false)

/-! ### A macro -/

/-- Keep a macro's progress with its thread. -/
def State.keepRun (s : State) (r : MacroRun) : State := s.modThr s.cur (fun t => { t with mrun := some r })

/-- Run a macro from where it stands (R210). A sequence that the verifier has passed takes at most `fuel` words. -/
def macroSteps (ws : List Word) : Nat → MacroRun → State → Eff
  | 0, _, s => .done s 0
  | fuel + 1, r, s =>
    let w := uAt ws r.i
    let t := s.thr s.cur
    if uCommit w || uOp w == 0x2F then
      (if s.macroHit t r then .wait (s.keepRun r) .scoreboard else .done (s.commitAll s.cur ws r) 0)
    else if uOp w = 0x20 then
      let va := r.addr w
      match t.bulk with
      | some bs => macroSteps ws fuel (r.loaded w bs) (s.setThr s.cur { t with bulk := none })
      | none =>
        match s.startLoad s.cur va (2 ^ (uS2 w % 4)) (.bulk 0) .dflt false false with
        | .now bs => macroSteps ws fuel (r.loaded w bs) s
        | .later s' => .wait (s'.keepRun r) .bulk
        | .blocked q => .wait (s.keepRun r) q
        | .bad c => .fault c 0 va
    else if uOp w = 0x21 then
      let va := r.addr w
      match s.check (s.who t) .write va (2 ^ (uS2 w % 4)) with
      | .ok ps => macroSteps ws fuel (r.probed w va ps) s
      | .miss a => .wait (s.keepRun r) (.walk a .write)
      | .bad c => .fault c 0 va
    else macroSteps ws fuel (r.alu w) s

/-- The sequence at a selector for thread `t`: its bank and words; none where R44 gives it none. -/
def State.macroSeq (s : State) (t : Thread) (sel : Nat) : Option (Nat × List Word) :=
  let c := s.cores.get (s.coreOf t)
  if isService (s.coreOf t) then none
  else match c.bankOf t.ctx with
    | none => none
    | some b => match (c.banks.get b).seqs.get sel with
      | [] => none
      | ws => some (b, ws)

/-- The selector of a macro word (R44). -/
def macroSel (f : FX) : Nat := f.x.toNat * 16 + f.s.toNat

/-- The start of a macro: its operands are read (R204, R210). -/
def macroStart (f : FX) (b : Nat) (len : Nat) (t : Thread) : MacroRun :=
  { (default : MacroRun) with
    bank := b, sel := macroSel f, d := f.d.toNat, next := t.pc + BitVec.ofNat 64 len,
    da := t.src64 f.lit f.a, db := t.src64 f.lit f.b, dd := t.src64 f.lit f.d }

/-- Meaning of a user macro (R35, R44, R202, R210). A selector without a sequence raises ILLEGAL.OP whatever the guard, before its latches
are tested. -/
def execUserMacro (f : FX) (s : State) : Host.Outcome State Fault Refusal :=
  match s.macroSeq (s.thr s.cur) (macroSel f) with
  | none => if !(s.thr s.cur).live then .fault .noThread
    else .next (s.faultAt s.cur ((s.thr s.cur).chainOf (some (shX f))) codeOp 0 0)
  | some (b, ws) =>
    issue (shMacro ws f) (fun s =>
      let t := s.thr s.cur
      macroSteps ws 65 (t.mrun.getD (macroStart f b (shMacro ws f).len t)) s) s

/-- Meaning of MACRO_COMMIT (R210): a macro whose scoreboard wait has ended performs its commits as one event. -/
def execMacroCommit (u : Nat) (s : State) : Host.Outcome State Fault Refusal :=
  let t := s.thr u
  .next (match t.mrun with
    | none => s
    | some r =>
      let ws := ((s.cores.get (s.coreOf t)).banks.get r.bank).seqs.get r.sel
      let w := uAt ws r.i
      if t.live && t.wait == .scoreboard && (uCommit w || uOp w == 0x2F) && !s.macroHit t r then
        (s.commitAll u ws r).modThr u (fun t => { t.breakLatches.goTo r.next with age := s.time })
      else s)

/-! ### Pure sequences -/

/-- Whether a sequence is pure and fits a slot (R212). -/
def pureSeq (ws : List Word) : Bool :=
  !ws.isEmpty && ws.all (fun w => uOp w != 0x20 && uOp w != 0x21) && !usesPair ws 8 && !usesPair ws 10 && !usesPair ws 12
    && !commitsTo ws 1

/-- Run a pure sequence on one lane to its commits (R212, R395). -/
def pureSteps (ws : List Word) : Nat → MacroRun → MacroRun
  | 0, r => r
  | fuel + 1, r =>
    let w := uAt ws r.i
    if uCommit w || uOp w == 0x2F then r else pureSteps ws fuel (r.alu w)

/-- The value that a pure sequence commits to `d` for one lane, none where it commits nothing, and its flags (R212, R395). -/
def pureLane (ws : List Word) (a b d : Word) : Option Word × Word :=
  let r := pureSteps ws 65 { (default : MacroRun) with da := a.setWidth 64, db := b.setWidth 64, dd := d.setWidth 64 }
  (((commitWords ws r.i).getLast?).map (fun w => r.src (uS1 w) 0), r.flags)

end Sys2Proof.Machine
end

