-- ==== Sys2Proof/Machine/GridOps.lean ====
section
/-! DEFINITION. What an instruction does as the operation of a Trellis slot or in a captured body (01_words.md R48, R49,
08_trellis.md R297, R305, R306, R324, R326): the same functions of a thread that its front-end meaning uses. -/

namespace Sys2Proof.Machine

/-- The function of one lane of an instruction that changes only the thread; `c` is the core and `x` the context. -/
def gridAlu (c : Core) (x : Nat) (i : Instr) : Option (Thread → Thread × DWord) :=
  match i with
  | .add f => some (opAdd f)
  | .sub f => some (opSub f)
  | .and f => some (opAnd f)
  | .or f => some (opOr f)
  | .xor f => some (opXor f)
  | .andn f => some (opAndn f)
  | .orn f => some (opOrn f)
  | .xnor f => some (opXnor f)
  | .shl f => some (opShl f)
  | .shr f => some (opShr f)
  | .sra f => some (opSra f)
  | .rol f => some (opRol f)
  | .ror f => some (opRor f)
  | .minS f => some (opMinS f)
  | .maxS f => some (opMaxS f)
  | .minU f => some (opMinU f)
  | .maxU f => some (opMaxU f)
  | .mul f => some (opMul f)
  | .mulhiS f => some (opMulhiS f)
  | .mulhiU f => some (opMulhiU f)
  | .divS f => some (opDivS f)
  | .divU f => some (opDivU f)
  | .remS f => some (opRemS f)
  | .remU f => some (opRemU f)
  | .bfxU f => some (opBfxU f)
  | .bfxS f => some (opBfxS f)
  | .clz f => some (opClz f)
  | .popc f => some (opPopc f)
  | .brev f => some (opBrev f)
  | .abs f => some (opAbs f)
  | .neg f => some (opNeg f)
  | .sextB f => some (opSextB f)
  | .sextH f => some (opSextH f)
  | .mov f => some (opMov f)
  | .mad f => some (opMad f)
  | .bfi f => some (opBfi f)
  | .addD f => some (opAddD f)
  | .subD f => some (opSubD f)
  | .madD f => some (opMadD f)
  | .mulwS f => some (opMulwS f)
  | .mulwU f => some (opMulwU f)
  | .shlD f => some (opShlD f)
  | .shrD f => some (opShrD f)
  | .sraD f => some (opSraD f)
  | .lea2 f => some (opLea2 f)
  | .lea4 f => some (opLea4 f)
  | .lea8 f => some (opLea8 f)
  | .lea16 f => some (opLea16 f)
  | .cmpEq f => some (opCmpEq f)
  | .cmpNe f => some (opCmpNe f)
  | .cmpLtS f => some (opCmpLtS f)
  | .cmpLeS f => some (opCmpLeS f)
  | .cmpLtU f => some (opCmpLtU f)
  | .cmpLeU f => some (opCmpLeU f)
  | .cmpTst f => some (opCmpTst f)
  | .cmpTstn f => some (opCmpTstn f)
  | .sel f => some (opSel f)
  | .addi f => some (opAddi f)
  | .andi f => some (opAndi f)
  | .ori f => some (opOri f)
  | .xori f => some (opXori f)
  | .shli f => some (opShli f)
  | .shri f => some (opShri f)
  | .srai f => some (opSrai f)
  | .roli f => some (opRoli f)
  | .cmpiEq f => some (opCmpiEq f)
  | .cmpiNe f => some (opCmpiNe f)
  | .cmpiLtS f => some (opCmpiLtS f)
  | .cmpiLeS f => some (opCmpiLeS f)
  | .cmpiLtU f => some (opCmpiLtU f)
  | .cmpiLeU f => some (opCmpiLeU f)
  | .cmpiGtS f => some (opCmpiGtS f)
  | .cmpiGtU f => some (opCmpiGtU f)
  | .movi f => some (opMovi f)
  | .movhi f => some (opMovhi f)
  | .fadd f => some (opFadd f)
  | .fsub f => some (opFsub f)
  | .fmul f => some (opFmul f)
  | .fmin f => some (opFmin f)
  | .fmax f => some (opFmax f)
  | .fabs f => some (opFabs f)
  | .fneg f => some (opFneg f)
  | .fcpsgn f => some (opFcpsgn f)
  | .fma f => some (opFma f)
  | .fms f => some (opFms f)
  | .fnma f => some (opFnma f)
  | .fnms f => some (opFnms f)
  | .fmulH2 f => some (opFmulH2 f)
  | .faddH2 f => some (opFaddH2 f)
  | .fmaH2 f => some (opFmaH2 f)
  | .fmaB2 f => some (opFmaB2 f)
  | .fcmpEq f => some (opFcmpEq f)
  | .fcmpNe f => some (opFcmpNe f)
  | .fcmpLt f => some (opFcmpLt f)
  | .fcmpLe f => some (opFcmpLe f)
  | .fcmpGe f => some (opFcmpGe f)
  | .fcmpGt f => some (opFcmpGt f)
  | .fcmpUn f => some (opFcmpUn f)
  | .fcmpOrd f => some (opFcmpOrd f)
  | .cvtF32S f => some (opCvtF32S f)
  | .cvtSF32 f => some (opCvtSF32 f)
  | .cvtF32U f => some (opCvtF32U f)
  | .cvtUF32 f => some (opCvtUF32 f)
  | .cvtF32F16 f => some (opCvtF32F16 f)
  | .cvtF16F32 f => some (opCvtF16F32 f)
  | .cvtF32Bf16 f => some (opCvtF32Bf16 f)
  | .cvtBf16F32 f => some (opCvtBf16F32 f)
  | .frndNe f => some (opFrndNe f)
  | .frndZ f => some (opFrndZ f)
  | .frndDn f => some (opFrndDn f)
  | .frndUp f => some (opFrndUp f)
  | .fcls f => some (opFcls f)
  | .fldexp f => some (opFldexp f)
  | .fgetexp f => some (opFgetexp f)
  | .fgetman f => some (opFgetman f)
  | .addB2 f => some (opAddB2 f)
  | .subB2 f => some (opSubB2 f)
  | .mulB2 f => some (opMulB2 f)
  | .subH2 f => some (opSubH2 f)
  | .minB2 f => some (opMinB2 f)
  | .maxB2 f => some (opMaxB2 f)
  | .minH2 f => some (opMinH2 f)
  | .maxH2 f => some (opMaxH2 f)
  | .npkE4m3 f => some (opNpkE4m3 f)
  | .npkE5m2 f => some (opNpkE5m2 f)
  | .npkE3m2 f => some (opNpkE3m2 f)
  | .npkE2m3 f => some (opNpkE2m3 f)
  | .npkE2m1 f => some (opNpkE2m1 f)
  | .npkI8 f => some (opNpkI8 f)
  | .npkI4 f => some (opNpkI4 f)
  | .nupE4m3 f => some (opNupE4m3 f)
  | .nupE5m2 f => some (opNupE5m2 f)
  | .nupE3m2 f => some (opNupE3m2 f)
  | .nupE2m3 f => some (opNupE2m3 f)
  | .nupE2m1 f => some (opNupE2m1 f)
  | .nupI8 f => some (opNupI8 f)
  | .nupI4 f => some (opNupI4 f)
  | .dot4E4 f => some (opDot4E4 f)
  | .dot4E5 f => some (opDot4E5 f)
  | .dot8F4 f => some (opDot8F4 f)
  | .dot4I8 f => some (opDot4I8 f)
  | .dot8I4 f => some (opDot8I4 f)
  | .dot2B2 f => some (opDot2B2 f)
  | .dot2H2 f => some (opDot2H2 f)
  | .dot2B2f f => some (opDot2B2f f)
  | .scl f => some (opScl f)
  | .mask f => some (opMask f)
  | .exp f => some (opExp f)
  | .exp2 f => some (opExp2 f)
  | .ln f => some (opLn f)
  | .log2 f => some (opLog2 f)
  | .rcp f => some (opRcp f)
  | .rsqrt f => some (opRsqrt f)
  | .sqrt f => some (opSqrt f)
  | .erf f => some (opErf f)
  | .tanh f => some (opTanh f)
  | .sigm f => some (opSigm f)
  | .gelu f => some (opGelu f)
  | .silu f => some (opSilu f)
  | .sin f => some (opSin f)
  | .cos f => some (opCos f)
  | .kc2DecLo f => some (opKc2 (c.codebooks.get x) 0 f)
  | .kc2DecHi f => some (opKc2 (c.codebooks.get x) 1 f)
  | .tbl f => some (opTbl c.tblAct f)
  | .tblRd f => some (fun t =>
      res32 t f.nw f.d (BitVec.ofNat 32 (bankWord (if t.src32 f.lit f.b = 0 then c.tblAct else c.tblShd) (t.src32 f.lit f.a).toNat)))
  | _ => none

/-- Whether an instruction raises ILLEGAL.FIELD for the values of its operands (R164). -/
def gridFieldBad (t : Thread) (i : Instr) : Bool :=
  match i with
  | .tblRd f => decide (2060 < (t.src32 f.lit f.a).toNat) || (t.src32 f.lit f.a).toNat % 4 != 0
      || (t.src32 f.lit f.b != 0 && t.src32 f.lit f.b != 1)
  | _ => false

/-- A lane instruction or collective (R306). -/
def gridLane (i : Instr) : Option LaneOp :=
  match i with
  | .shflIdx f => some (laneA .shflIdx f (shLA f 1))
  | .shflUp f => some (laneA .shflUp f (shLA f 1))
  | .shflDn f => some (laneA .shflDn f (shLA f 1))
  | .shflXor f => some (laneA .shflXor f (shLA f 1))
  | .ballot f => some (laneU .ballot f)
  | .laneMatch f => some (laneU .matchV f)
  | .laneAny f => some (laneU .anyV f)
  | .laneAll f => some (laneU .allV f)
  | .redAdd f => some (laneU .redAdd f)
  | .redMin f => some (laneU .redMin f)
  | .redMax f => some (laneU .redMax f)
  | .redAnd f => some (laneU .redAnd f)
  | .redOr f => some (laneU .redOr f)
  | .redFadd f => some (laneU .redFadd f)
  | .scanAdd f => some (laneU .scanAdd f)
  | .scanFadd f => some (laneU .scanFadd f)
  | .vmxF4 f => some (laneV .vmxF4 f 1)
  | .vmxE4 f => some (laneV .vmxE4 f 2)
  | .vmxE5 f => some (laneV .vmxE5 f 2)
  | .qntF4 f => some (laneA .qntF4 f (shQ f 1))
  | .qntE4 f => some (laneA .qntE4 f (shQ f 2))
  | .qntE5 f => some (laneA .qntE5 f (shQ f 2))
  | .qntF4o f => some (laneA .qntF4o f (shQO f 1))
  | .qntE4o f => some (laneA .qntE4o f (shQO f 2))
  | .amaxL f => some (laneA .amaxL f (shQ f 1))
  | .rsMax f => some (laneA .rsMax f (shLA f 1))
  | .rsSexp f => some (laneA .rsSexp f (shLA f 1))
  | .rsMean f => some (laneA .rsMean f (shLA f 1))
  | .rsDev f => some (laneA .rsDev f (shLA f 1))
  | .rsFin f => some (laneA .rsFin f (shLA f 1))
  | .smxFin f => some (laneA .smxFin f (shLA f 2))
  | _ => none

/-- What a memory operation does at its address. -/
inductive MemAct where
  | load (dst : LoadDst) (n : Nat) (direct acq : Bool)
  | fetch
  | store (bs : List Byte) (rel : Option Nat)
  | amo (op : AOp) (n : Nat) (x y : DWord) (d : Nat)
  deriving DecidableEq, Repr, Inhabited

/-- A memory operation of one lane. -/
structure MemOp where
  va : DWord
  act : MemAct
  deriving DecidableEq, Repr, Inhabited

/-- The bytes that an access touches. -/
def MemAct.size : MemAct → Nat
  | .load _ n _ _ => n
  | .fetch => 1
  | .store bs _ => bs.length
  | .amo _ n _ _ _ => n

/-- The kind of the access. -/
def MemAct.acc : MemAct → Acc
  | .load _ _ _ _ | .fetch => .read
  | .store _ _ => .write
  | .amo _ _ _ _ _ => .atomic

/-- The bytes that `st` and `stl` store (R98). -/
def storeBytes (t : Thread) (f : FM) : List Byte :=
  leBytes (sizeBytes f.z) (if f.z = 3 then (t.src64 f.lit f.d).toNat else (t.src32 f.lit f.d).toNat)

/-- An atomic whose operand is B (R105). -/
def memAmo (t : Thread) (op : AOp) (w : Bool) (d a b : BitVec 6) (lit : Word) : MemOp :=
  ⟨t.src64 lit a, .amo op (if w then 8 else 4) (if w then t.src64 lit b else (t.src32 lit b).setWidth 64) 0 d.toNat⟩

/-- The memory operation that an instruction of majors 0x24 to 0x29, 0x2C or 0x2D makes for one lane (R297). -/
def gridMem (t : Thread) (i : Instr) : Option MemOp :=
  match i with
  | .ld f => some ⟨t.mAddr f.lit f.a f.o (sizeBytes f.z), .load (loadDst f.d (sizeRegs f.z) false) (sizeBytes f.z) false false⟩
  | .lds f => some ⟨t.mAddr f.lit f.a f.o (sizeBytes f.z), .load (loadDst f.d 1 true) (sizeBytes f.z) false false⟩
  | .lda f => some ⟨t.mAddr f.lit f.a f.o (sizeBytes f.z), .load (loadDst f.d (sizeRegs f.z) false) (sizeBytes f.z) true true⟩
  | .ldNc f => some ⟨t.mAddr f.lit f.a f.o (sizeBytes f.z), .load (loadDst f.d (sizeRegs f.z) false) (sizeBytes f.z) true false⟩
  | .ldq f => some ⟨t.mAddr f.lit f.a f.o 16, .load (loadDst f.d 4 false) 16 false false⟩
  | .pf f => some ⟨t.mAddr f.lit f.a f.o 128, .fetch⟩
  | .st f => some ⟨t.mAddr f.lit f.a f.o (sizeBytes f.z), .store (storeBytes t f) none⟩
  | .stl f => some ⟨t.mAddr f.lit f.a f.o (sizeBytes f.z), .store (storeBytes t f) (some f.c.toNat)⟩
  | .stq f => some ⟨t.mAddr f.lit f.a f.o 16, .store (quadBytes t f.d) none⟩
  | .amoAdd f => some (memAmo t .add f.w f.d f.a f.b f.lit)
  | .amoMinS f => some (memAmo t .minS f.w f.d f.a f.b f.lit)
  | .amoMaxS f => some (memAmo t .maxS f.w f.d f.a f.b f.lit)
  | .amoMinU f => some (memAmo t .minU f.w f.d f.a f.b f.lit)
  | .amoMaxU f => some (memAmo t .maxU f.w f.d f.a f.b f.lit)
  | .amoAnd f => some (memAmo t .and f.w f.d f.a f.b f.lit)
  | .amoOr f => some (memAmo t .or f.w f.d f.a f.b f.lit)
  | .amoXor f => some (memAmo t .xor f.w f.d f.a f.b f.lit)
  | .amoXchg f => some (memAmo t .xchg f.w f.d f.a f.b f.lit)
  | .amoFadd f => some (memAmo t .fadd false f.d f.a f.b f.lit)
  | .amoFaddB2 f => some (memAmo t .faddB2 false f.d f.a f.b f.lit)
  | .amoFmax f => some (memAmo t .fmax false f.d f.a f.b f.lit)
  | .amoIncW f => some (memAmo t .incW false f.d f.a f.b f.lit)
  | .amoDecW f => some (memAmo t .decW false f.d f.a f.b f.lit)
  | .amoCas f =>
    let q := t.src64 f.lit f.b
    some (if f.w then ⟨t.src64 f.lit f.a, .amo .cas 8 (t.pair (f.b.toNat + 2)) q f.d.toNat⟩
      else ⟨t.src64 f.lit f.a, .amo .cas 4 (q.hi.setWidth 64) (q.lo.setWidth 64) f.d.toNat⟩)
  | _ => none

/-- Whether an instruction is a memory operation (R297). -/
def isMem (i : Instr) : Bool := (gridMem default i).isSome

/-! ### The registers of an instruction -/

/-- Whether a role is a destination. -/
def Role.isDst : Role → Bool
  | .dst _ | .acc _ | .dstQuad | .nupGrp _ => true
  | _ => false

/-- Whether a role is read. -/
def Role.reads : Role → Bool
  | .dst _ | .dstQuad | .nupGrp _ => false
  | _ => true

/-- The registers of a field: 0 to 59 general, 72 and 73 the latches (R364). -/
def fieldRegs (e : Role × BitVec 6) : List Nat :=
  let v := e.2.toNat
  if v < 60 then (List.range e.1.span).map (v + ·) else if e.1.isSrc && v == 60 then [72] else if e.1.isSrc && v == 61 then [73] else []

/-- The predicate that a compare writes. -/
def predDst (i : Instr) : List Nat :=
  match i with
  | .cmpEq f | .cmpNe f | .cmpLtS f | .cmpLeS f | .cmpLtU f | .cmpLeU f | .cmpTst f | .cmpTstn f
  | .fcmpEq f | .fcmpNe f | .fcmpLt f | .fcmpLe f | .fcmpGe f | .fcmpGt f | .fcmpUn f | .fcmpOrd f =>
    if f.nw || f.p == 7 then [] else [64 + f.p.toNat]
  | .cmpiEq f | .cmpiNe f | .cmpiLtS f | .cmpiLeS f | .cmpiLtU f | .cmpiLeU f | .cmpiGtS f | .cmpiGtU f =>
    if f.p == 7 then [] else [64 + f.p.toNat]
  | _ => []

/-- The registers and predicates that an instruction writes (R303): a pair counts as both of its registers. -/
def dstRegs (i : Instr) : List Nat :=
  match i with
  | .userMacro f => if f.d.toNat < 60 then [f.d.toNat] else []
  | _ => ((shape i).fields.filter (fun e => e.1.isDst)).flatMap fieldRegs ++ predDst i

/-- The registers, predicates and latches that an instruction reads. -/
def srcRegs (i : Instr) : List Nat :=
  ((shape i).fields.filter (fun e => e.1.reads)).flatMap fieldRegs ++ match i with
    | .sel f => if f.p == 7 then [] else [64 + f.p.toNat]
    | _ => []

/-- The predicate of a guard. -/
def guardReg (g : BitVec 4) : List Nat := if g.toNat % 8 = 7 then [] else [64 + g.toNat % 8]

/-- The instruction of a body's entry. -/
def codeInstr (e : Nat × Word × Word) : Option Instr :=
  match decodeLoop e.2.1 e.2.2 with
  | .ok i => some i
  | .error _ => none

end Sys2Proof.Machine
end

