-- ==== Sys2Proof/Machine/Fetch.lean ====
section
/-! DEFINITION. Fetching an instruction's bytes (01_words.md R27), whose turn a thread can take (06_threads.md R216), the passing
of device time (00_scope.md R16), and what places an instruction where the next step fetches it. -/

namespace Sys2Proof.Machine

/-- What a fetch of one word answers. -/
inductive Fetched where
  | word (w : Word)
  | miss (va : DWord)
  | bad (code : Nat)

/-- The 4 bytes at `pc` as an instruction word (R27): window 0 only, read at their home, under a key slot that is loaded (R291). -/
def State.fetch (s : State) (w : Who) (pc : DWord) : Fetched :=
  match s.check w .fetch pc 4 with
  | .miss va => .miss va
  | .bad c => .bad c
  | .ok ps => if !s.keysOk ps then .bad codeAddr else .word (BitVec.ofNat 32 (leNat (ps.flatMap (fun p => s.homeBytes w.plot p.loc p.len))))

/-- Whether the threads of a plot may issue: it is resident, no switch of it is under way (R251), neither its context nor its launch is
paused (R415), its core is not stopped (R348) and its clock runs. -/
def State.plotRuns (s : State) (p : Nat) : Bool :=
  let q := s.plots.get p
  q.live && q.resident && q.switching.isNone && !(s.ctxs.get q.ctx).paused && !(s.launches.get q.launch).paused && !(s.grids.get q.core).kick.stop
    && s.clockRuns q.core

/-- Whether thread `u` can take a turn: live, its plot running, and in no wait that another event ends (R216). -/
def State.canTurn (s : State) (u : Nat) : Bool :=
  let t := s.thr u
  t.live && t.wait.retries && s.plotRuns t.plot

/-- The correction of device time while `ns` pass: toward the source's time, at most 1 ns for every
10,000 that pass, 100 ppm (R412). -/
def State.slew (s : State) (ns : Nat) : Int :=
  let most : Int := ((s.slewRest + ns) / 10000 : Nat)
  max (-most) (min most s.skew)

/-- `ns` pass: device time goes on, slewed (R16, R412), and each die's running clock counts its cycles (R264, R418). -/
def State.advance (s : State) (ns : Nat) : State :=
  { s with
    time := ((s.time + ns : Nat) + s.slew ns).toNat
    skew := s.skew - s.slew ns
    slewRest := (s.slewRest + ns) % 10000
    dies := (List.range 8).foldl (fun m d => m.modify d (fun q =>
      if q.opNext.isSome then q else { q with mcycles := q.mcycles + ns * opMHz q.op })) s.dies }

/-- The bytes of an instruction word and of the word that follows it, in the hardware's byte order (R27). -/
def wordBytes (w : Nat) : List Byte := leBytes 8 w

/-- A page that maps virtual page 1 of context 0 readable, writable and executable onto the same physical page, as the
translation of a placed program (R285). -/
def placedPage : TlbE := ⟨0, 0x10000, 0x10000, 0x1001F⟩

/-- The thread for which words are placed: `cur` where it can take a turn, else a fresh thread of a fresh one-thread plot on core 0
at address 0x1_0000 (DESIGN CHOICE, notes/assumptions/10.md). -/
def State.withThread (s : State) : State :=
  if s.canTurn s.cur then s
  else
    let u := s.nextThread
    let p := s.nextPlot
    { s with
      cur := u
      nextThread := u + 1
      nextPlot := p + 1
      plots := s.plots.set p { (default : Plot) with live := true, resident := true, threads0 := 1, blocks := [0], areas := 1 }
      threads := s.threads.set u { (default : Thread) with live := true, plot := p, pc := 0x10000, lfsr := 1 }
      dies := s.dies.modify 0 (fun d => { d with tlb := placedPage :: d.tlb }) }

/-- Store the words where the thread `cur` fetches next. -/
def State.storeAtPc (s : State) (bs : List Byte) : State :=
  let t := s.thr s.cur
  match s.check (s.who t) .fetch t.pc bs.length with
  | .ok ps => ps.foldl (fun s p => match p.loc with
      | .dev pa key => s.devWrite pa key ((bs.drop p.off).take p.len)
      | _ => s) s
  | _ => s

end Sys2Proof.Machine
end

