-- ==== Sys2Proof/Machine/GridState.lean ====
section
/-! DEFINITION. Accessors of a core's Trellis and of captured pelotons, and what frees their resources (08_trellis.md R313, R332). -/

namespace Sys2Proof.Machine

/-- Change the Trellis of core `c`. -/
def State.modGrid (s : State) (c : Nat) (f : Grid → Grid) : State := { s with grids := s.grids.modify c f }

/-- Captured peloton `n`. -/
def State.pel (s : State) (n : Nat) : Pel := s.pels.get n

/-- Change captured peloton `n`. -/
def State.modPel (s : State) (n : Nat) (f : Pel → Pel) : State := { s with pels := s.pels.modify n f }

/-- Free a colour and its lanes (R332). -/
def Grid.freeColour (g : Grid) (col : Nat) : Grid := { g with colours := g.colours.set col default }

/-- Discard the tokens and operands that satisfy a test. -/
def Grid.discard (g : Grid) (f : Tok → Bool) : Grid :=
  { g with toks := g.toks.filter (fun t => !f t), arb := g.arb.filter (fun a => !f a.tok) }

/-- Change the resident configurations that satisfy a test. -/
def Grid.modCfgs (g : Grid) (f : Cfg → Bool) (h : Cfg → Cfg) : Grid :=
  { g with cfgs := g.cfgs.map (fun q => if f q then h q else q) }

/-- Remove everything of context `x` from a Trellis (R255). -/
def Grid.dropCtx (g : Grid) (x : Nat) : Grid :=
  let g1 := { g with cfgs := g.cfgs.filter (fun q => q.ctx != x) }.discard (fun t => t.ctx == x)
  { g1 with colours := g1.colours.filter (fun e => e.2.ctx != x) }

/-- Remove everything of context `x` from every Trellis. -/
def State.dropCtxGrids (s : State) (x : Nat) : State :=
  { s with
    grids := s.grids.map (fun e => (e.1, e.2.dropCtx x))
    pels := s.pels.filter (fun e => e.2.ctx != x)
    bodies := s.bodies.filter (fun b => b.ctx != x) }

/-! ### Slots, switch sets and pure sequences -/

/-- Slots of element `e` that a configuration holds (R302): of a capture those its instructions stand in, else those its image uses. -/
def Cfg.slotsAt (q : Cfg) (e : Nat) : Nat :=
  if q.captured then (q.sites.filter (fun x => x.1 == e)).length else (q.image.elems.get e).slots.length

/-- Slots of element `e` that are held; captures and images share its 16 (R302). -/
def Grid.usedAt (g : Grid) (e : Nat) : Nat := g.cfgs.foldl (fun n q => n + q.slotsAt e) 0

/-- The first `n` free slots, element by element (DESIGN CHOICE, notes/assumptions/27.md). -/
def Grid.freeSites (g : Grid) (n : Nat) : List (Nat × Nat) :=
  ((List.range 64).flatMap (fun e => (List.range (16 - g.usedAt e)).map (fun k => (e, k)))).take n

/-- A configuration as it stands in the free slots and a free switch set; none where it does not fit (R302, R312). -/
def Grid.place (g : Grid) (q : Cfg) : Option Cfg :=
  if 4 ≤ g.cfgs.length then none
  else if q.captured then
    let xs := g.freeSites q.code.length
    if xs.length = q.code.length then some { q with sites := xs } else none
  else if (List.range 64).all (fun e => decide (g.usedAt e + q.slotsAt e ≤ 16)) then some q
  else none

/-- The selector of a macro word (R44). -/
def wordSel (w : Word) : Option Nat := if 0x3C ≤ w.toNat / 2 ^ 26 then some (w.toNat / 2 ^ 26 % 4 * 16 + w.toNat % 16) else none

/-- The pure sequences of the macro words of a list, from the bank bound to context `x` (R212, R387); none where one is missing or does
not fit a slot. -/
def Core.seqsFor (c : Core) (x : Nat) (ws : List Word) : Option (FMap (List Word)) :=
  ws.foldl (fun m w =>
    match m, wordSel w with
    | none, _ => none
    | some m, none => some m
    | some m, some k =>
      match c.bankOf x with
      | none => none
      | some b =>
        let q := (c.banks.get b).seqs.get k
        if pureSeq q then some (m.set k q) else none) (some [])

/-- A saved capture with its sequences taken anew from core `c` (R387). -/
def Cfg.reseq (q : Cfg) (c : Core) : Option Cfg :=
  (c.seqsFor q.ctx (q.code.map (fun e => e.2.1))).map (fun m => { q with useqs := m })

/-- The Trellis with the saved captures that still fit (R313, R387). -/
def Grid.restoreCfgs (g : Grid) (c : Core) (qs : List Cfg) : Grid :=
  qs.foldl (fun g q =>
    match q.reseq c with
    | none => g
    | some q =>
      if g.cfgs.any (fun r => r.captured && r.ctx == q.ctx && r.head == q.head) then g
      else match g.place q with
        | some q => { g with cfgs := g.cfgs ++ [q] }
        | none => g) g

/-- Lanes of the width pool that no colour holds (R332). -/
def Grid.freeLanes (g : Grid) : Nat := 128 - g.colours.foldl (fun n e => n + e.2.grant) 0

/-! ### Captured pelotons -/

/-- A cause of R328 in the iteration that runs: a drain begins, or the one that is under way names the lower tag (R329, R331). -/
def Pel.withCause (p : Pel) (clk : Nat) : Pel :=
  { p with drain := match p.drain with
    | none => some ⟨p.tag, clk, none⟩
    | some d => match d.b with
      | none => some { d with f := min d.f p.tag }
      | some b => some (if p.tag < b then { d with f := p.tag, b := some p.tag } else d) }

/-- A cause of R328 reaches captured peloton `n`. -/
def State.pelCause (s : State) (n : Nat) : State := s.modPel n (fun p => p.withCause (s.clk p.core))

/-- The tokens of some registers of captured peloton `n` have been produced now (R321). -/
def State.pelProduced (s : State) (n : Nat) (rs : List Nat) : State :=
  s.modPel n (fun p => { p with produced := rs.foldl (fun m r => m.set r (s.clk p.core + 1)) p.produced })

/-! ### Tokens and trace -/

/-- The header of a token (R314). -/
def Tok.header (t : Tok) : Nat :=
  t.colour % 16 + 2 ^ 4 * (t.tag % 2 ^ 16) + 2 ^ 20 * (t.slot % 16) + 2 ^ 24 * (t.elem % 64) + 2 ^ 30 * (t.core % 160)
    + 2 ^ 38 * (t.port % 4) + 2 ^ 40 * ((t.width - 1) % 32) + 2 ^ 45 * b2n t.poison + 2 ^ 46 * b2n t.null
    + 2 ^ 47 * (t.stop % 4) + 2 ^ 49 * (t.fmt % 16)

/-- A hardware record goes to a physical address of device memory, in the clear, once no lease holds it back (R266; DESIGN CHOICE,
notes/assumptions/40.md). -/
def State.putPhys (s : State) (pa : Nat) (bs : List Byte) : State :=
  if inDevice pa && inDevice (pa + (bs.length - 1)) then { s with phys := s.phys ++ [(pa, bs)] } else s

/-- Where the next record of `n` bytes goes in a ring of `size` bytes whose next record is `head`, and the head after it: a record that
no longer fits before the end starts the ring again. -/
def ringNext (size head n : Nat) : Nat × Nat :=
  let h := if size < head + n then 0 else head
  (h, if size < h + n + n then 0 else h + n)

/-- Append a record to a core's trace ring (R350). -/
def State.traceForce (s : State) (c : Nat) (hdr x kind node lane0 : Nat) (pc : DWord) : State :=
  let k := (s.grids.get c).kick
  if k.trsize < 32 then s
  else
    let r := ringNext k.trsize k.trhead 32
    (s.putPhys (k.trbase + r.1) (leBytes 8 s.time ++ leBytes 8 hdr ++ leBytes 2 x ++ leBytes 1 kind ++ leBytes 1 node
      ++ leBytes 4 lane0 ++ leBytes 8 pc.toNat)).modGrid c (fun g => { g with kick := { g.kick with trhead := r.2 } })

/-- Append a trace record where TRACE is set (R350). -/
def State.trace (s : State) (c : Nat) (hdr x kind node lane0 : Nat) (pc : DWord) : State :=
  if (s.grids.get c).kick.trace then s.traceForce c hdr x kind node lane0 pc else s

/-- The trace record of a drain (R350). -/
def State.traceDrain (s : State) (n : Nat) : State :=
  let p := s.pel n
  s.trace p.core ({ (default : Tok) with colour := p.colour, tag := p.tag, core := p.core, width := p.lanes.length } : Tok).header p.ctx 2 0 0 p.head

/-- Ask the captured pelotons that pass a test, and are not draining yet, to drain at their lowest open iteration (R328, R331, R343). -/
def State.askDrain (s : State) (f : Nat → Pel → Bool) : State :=
  ((s.pels.filter (fun e => e.2.live && e.2.drain.isNone && f e.1 e.2)).map (·.1)).foldl (fun s n =>
    (s.modPel n (fun p => { p with drain := some ⟨p.open_, s.clk p.core, some p.open_⟩ })).traceDrain n) s

end Sys2Proof.Machine
end

