-- ==== Sys2Proof/Machine/Kickstand.lean ====
section
/-! DEFINITION. Kickstand: stopping a core, the Arbour dump, breakpoints, trace and histogram rings, and clearing a region
(08_trellis.md R314, R322, R343, R344, R347 to R350). Its rings and its dump lie at physical addresses (DESIGN CHOICE, notes/assumptions/40.md). -/

namespace Sys2Proof.Machine

/-! ### Names and records -/

/-- How events name a resident configuration that `cfgld` loaded: context × 2^20 + handle (DESIGN CHOICE, notes/assumptions/41.md). -/
def Cfg.name (q : Cfg) : Nat := q.ctx * 2 ^ 20 + q.handle

/-- The configuration that an event names. -/
def Grid.cfgNamed (g : Grid) (h : Nat) : Option Cfg := g.cfgs.find? (fun q => !q.captured && q.name == h)

/-- Change the configuration that an event names. -/
def State.modNamed (s : State) (c h : Nat) (f : Cfg → Cfg) : State :=
  s.modGrid c (fun g => g.modCfgs (fun q => !q.captured && q.name == h) f)

/-- How an event names the `k`-th configuration of a core where it is a capture (DESIGN CHOICE, notes/assumptions/41.md). -/
def captureName (k : Nat) : Nat := 2 ^ 32 + k

/-- The place of the configuration, captured or loaded, that an event names (R344). -/
def Grid.placeNamed (g : Grid) (h : Nat) : Option Nat :=
  (List.range g.cfgs.length).find? (fun k =>
    let q := g.cfgs.getD k default
    if q.captured then h == captureName k else h == q.name)

/-- Whether a token belongs to a configuration. -/
def Cfg.owns (q : Cfg) (t : Tok) : Bool := t.ctx == q.ctx && t.handle == q.handle

/-- Whether the occupancy tree reports tokens of a configuration (R343). -/
def Grid.occupied (g : Grid) (q : Cfg) : Bool := g.toks.any q.owns || g.arb.any (fun a => q.owns a.tok)

/-- The bucket of a wait of `n` cycles (R322). -/
def waitBucket (n : Nat) : Nat :=
  if n = 0 then 0 else if n < 4 then 1 else if n < 16 then 2 else if n < 64 then 3 else if n < 256 then 4
  else if n < 1024 then 5 else if n < 4096 then 6 else 7

/-- Count one firing's wait of `k` thousandths of a cycle of the core's clock; a full counter appends its record and starts again (R322). `h` is the handle, or
0x8000_0000 for a capture. -/
def State.countWait (s : State) (c x h e sl k : Nat) : State :=
  let b := waitBucket (k / 1000)
  let i := e * 128 + sl * 8 + b
  let n := (s.grids.get c).hist.get i + 1
  if n < 65535 then s.modGrid c (fun g => { g with hist := g.hist.set i n })
  else
    let s1 := s.modGrid c (fun g => { g with hist := g.hist.set i 0 })
    let k := (s.grids.get c).kick
    if k.hrsize < 16 then s1
    else
      let r := ringNext k.hrsize k.hrhead 16
      (s1.putPhys (k.hrbase + r.1) (leBytes 6 s.time ++ leBytes 2 x ++ leBytes 1 e ++ leBytes 1 (sl + 16 * b) ++ leBytes 2 c
        ++ leBytes 4 h)).modGrid c (fun g => { g with kick := { g.kick with hrhead := r.2 } })

/-! ### Fault records -/

/-- The virtual die of a context that is bound to a die, for fault records (R346). -/
def State.vdieOf (s : State) (d x : Nat) : Nat :=
  ((List.range 16).find? (fun v => match s.boundDie (s.desc d x).vd v with
    | some e => e.1 == d
    | none => false)).getD 0

/-- Bytes 40 to 47 of a Trellis fault record (R346). The core is numbered within its die (R314). -/
def gridBytes (node sl tag core vdie col : Nat) : Nat :=
  node + 2 ^ 8 * sl + 2 ^ 16 * (tag % 2 ^ 16) + 2 ^ 32 * (core % 160) + 2 ^ 48 * vdie + 2 ^ 56 * (col % 256)

/-- Write a fault record of a configuration without threads (R343, R346). -/
def State.cfgRecord (s : State) (c : Nat) (q : Cfg) (code node sl tag col : Nat) (addr : DWord) : State :=
  s.post (dieOf c) ⟨.fault, faultRecord code false 0 0xFFFFFFFF 0 addr s.time
    (gridBytes node sl tag c (s.vdieOf (dieOf c) q.ctx) col), [q.ctx, code]⟩

/-! ### The operands of captured pelotons -/

/-- The lanes of a captured peloton that run on at its tag. -/
def Pel.running (p : Pel) : List Nat := p.lanes.filter (fun u => !p.left.any (fun e => e.1 == u))

/-- The capture that a peloton runs, and the place in its body of the instruction at which its hindmost lane stands: the one that it fires
next. -/
def State.pelNext (s : State) (n : Nat) : Option (Cfg × Nat) :=
  let p := s.pel n
  match (s.grids.get p.core).captureOf p.ctx p.head with
  | none => none
  | some q =>
    let offs := p.running.map (fun u => ((s.thr u).pc - q.head).toNat)
    ((List.range q.code.length).find? (fun k => offs.contains (q.code.getD k default).1)).map (fun k => (q, k))

/-- The value of a register, predicate or latch of a thread, as the payload of a token. -/
def Thread.tokenWord (t : Thread) (r : Nat) : Word :=
  if r < 60 then t.g.get r
  else if 64 ≤ r ∧ r ≤ 70 then BitVec.ofNat 32 (b2n (t.p.getLsbD (r - 64)))
  else match (if r = 72 then t.b0 else t.b1) with
    | some l => l.val.lo
    | none => 0

/-- The count of the core's clock at which the operand in a register has reached a slot of a captured peloton (R321): when it was produced, or when the
peloton entered. -/
def Pel.arrived (p : Pel) (r : Nat) : Nat := if p.produced.get r = 0 then p.entered else p.produced.get r - 1

/-- The tokens that wait at the slot which a captured peloton fires next, by operand (R348): one for each register that it reads, the
guard's last. -/
def State.pelOpds (s : State) (n : Nat) : List Opd :=
  let p := s.pel n
  match s.pelNext n with
  | none => []
  | some (q, k) =>
    match codeInstr (q.code.getD k default) with
    | none => []
    | some i =>
      let x := q.sites.getD k (0, 0)
      ((srcRegs i ++ guardReg (shape i).g).eraseDups.zipIdx).map (fun r =>
        ⟨{ (default : Tok) with
            ctx := p.ctx, colour := p.colour, tag := p.tag % 2 ^ 16, elem := x.1, slot := x.2, port := min 3 r.2, core := p.core
            width := p.lanes.length, poison := p.poison.contains r.1, lanes := p.lanes.map (fun u => (s.thr u).tokenWord r.1) },
          false, p.arrived r.1⟩)

/-- The captured pelotons of core `c`. -/
def State.pelsOf (s : State) (c : Nat) : List Nat := (s.pels.filter (fun e => e.2.live && e.2.core == c)).map (·.1)

/-! ### Stop and resume -/

/-- The 144-byte dump record of an Arbour entry (R348). -/
def dumpRecord (a : Opd) : List Byte :=
  leBytes 8 a.tok.header ++ leBytes 1 a.tok.elem ++ leBytes 1 a.tok.slot ++ leBytes 1 (b2n a.spilled) ++ leBytes 5 0
    ++ (List.range 32).flatMap (fun i => leBytes 4 (a.tok.lanes.getD i 0).toNat)

/-- A Kickstand stop of core `c` with the dump of its Arbours, the operands of its captured loops among them (R348). -/
def State.kickStop (s : State) (c : Nat) : State :=
  let g := s.grids.get c
  if g.kick.stop then s
  else
    let os := g.arb ++ (s.pelsOf c).flatMap s.pelOpds
    (s.putPhys g.kick.kdump (os.flatMap dumpRecord)).modGrid c (fun g =>
      { g with kick := { g.kick with stop := true, stopAt := s.time, stopClk := s.clk c, kdcnt := os.length } })

/-- A wait whose limit lies `d` ns and `k` thousandths of a cycle later (R348). -/
def Wait.shift (w : Wait) (d k : Nat) : Wait :=
  match w with
  | .queue e q => .queue (e + k) q
  | .sleep e => .sleep (e + k)
  | .space e m => .space (e + d) m
  | w => w

/-- A plot whose timers run later (R348). -/
def Plot.shift (p : Plot) (d k : Nat) : Plot :=
  { p with
    seq := { p.seq with since := p.seq.since + d }
    bins := p.bins.map (fun b => { b with ends := b.ends + k })
    rbins := p.rbins.map (fun b => { b with ends := b.ends + k }) }

/-- A captured peloton whose timers run later (R348). -/
def Pel.shift (p : Pel) (k : Nat) : Pel :=
  { p with
    entered := p.entered + k
    produced := p.produced.map (fun e => (e.1, e.2 + k))
    drain := p.drain.map (fun q => { q with since := q.since + k }) }

/-- A Trellis whose timers run later (R348). -/
def Grid.shift (g : Grid) (k : Nat) : Grid :=
  { g with
    arb := g.arb.map (fun a => { a with at_ := a.at_ + k })
    circuits := g.circuits.map (fun q => { q with since := q.since + k })
    cfgs := g.cfgs.map (fun q => { q with lastFire := q.lastFire + k, phaseSince := q.phaseSince.map (fun e => (e.1, e.2 + k)) }) }

/-- The timers of core `c` moved by the `d` ns and `k` thousandths of a cycle for which it was stopped (R348). -/
def State.shiftCore (s : State) (c d k : Nat) : State :=
  { s with
    threads := s.threads.map (fun e =>
      if s.coreOf e.2 = c then (e.1, { e.2 with since := e.2.since + d, sinceC := e.2.sinceC + k, wait := e.2.wait.shift d k }) else e)
    plots := s.plots.map (fun e => if e.2.core = c then (e.1, e.2.shift d k) else e)
    grids := s.grids.modify c (fun g => g.shift k)
    bodies := s.bodies.map (fun b => if b.core = c then { b with since := b.since + k } else b)
    pels := s.pels.map (fun e => if e.2.core = c then (e.1, e.2.shift k) else e) }

/-- RESUME: every stopped state goes on exactly (R348). -/
def State.kickResume (s : State) (c : Nat) : State :=
  let k := (s.grids.get c).kick
  if k.stop then (s.shiftCore c (s.time - k.stopAt) (s.clk c - k.stopClk)).modGrid c (fun g =>
    { g with kick := { g.kick with stop := false, stopAt := 0, stopClk := 0 } })
  else s

/-- Set or clear TRACE (R350). -/
def State.kickTrace (s : State) (c : Nat) (on : Bool) : State :=
  s.modGrid c (fun g => { g with kick := { g.kick with trace := on } })

/-- A write to HVAL0 or HVAL1 clears the counters of HSEL's slot that it shows (R347). -/
def State.hvalClear (s : State) (c : Nat) (second : Bool) : State :=
  s.modGrid c (fun g =>
    let i := bits g.kick.hsel 0 6 * 128 + bits g.kick.hsel 6 4 * 8 + 4 * b2n second
    { g with hist := g.hist.setMany i [0, 0, 0, 0] })

/-! ### Clearing a region -/

/-- Whether a configuration of `qs` is cleared with those that satisfy `f`: it does itself, or it is the successor of one that is
cleared (R345). At most four are resident. -/
def clearedWith (qs : List Cfg) (f : Cfg → Bool) : Nat → Cfg → Bool
  | 0, q => f q
  | n + 1, q => f q || qs.any (fun p =>
      !p.captured && p.ctx == q.ctx && p.handle == q.image.spred && q.image.spred != 0 && clearedWith qs f n p)

/-- Load a drain configuration over the configurations that satisfy a test, and over their successors (R343, R345): what their nodes hold
is consumed, and nothing is emitted any more. -/
def State.clearCfgs (s : State) (c : Nat) (f : Cfg → Bool) : State :=
  let g := s.grids.get c
  let hit (q : Cfg) : Bool := !q.captured && clearedWith g.cfgs f 4 q
  s.modGrid c (fun g => { g with
    cfgs := g.cfgs.map (fun q => if hit q then { q with stage := .clearing, agens := [], tapBuf := [], tapEnd := [] } else q)
    arb := g.arb.filter (fun a => !g.cfgs.any (fun q => hit q && q.owns a.tok)) })

/-- A configuration without threads meets a fault other than PAGE (R343): it is recorded, and a drain configuration is loaded over its
region. During a shrink both wait until the shrink completes (R331). -/
def State.cfgFault (s : State) (c : Nat) (q : Cfg) (e : GridFault) : State :=
  if q.stage = .halted true then s.modNamed c q.name (fun q => { q with faults := q.faults ++ [e] })
  else (s.cfgRecord c q e.code e.node e.slot e.tag e.colour e.addr).clearCfgs c (fun r => r.name == q.name)

/-- The faults that a shrink held back take effect (R331). -/
def State.lateFaults (s : State) (c h : Nat) : State :=
  match (s.grids.get c).cfgNamed h with
  | none => s
  | some q => q.faults.foldl (fun s e => s.cfgFault c q e) (s.modNamed c h (fun q => { q with faults := [] }))

/-- A write to KCLR (R347): a handle, or 0x10_0000 + colour. -/
def State.kclr (s : State) (c : Nat) (v : DWord) : State :=
  let n := v.toNat
  if n < 2 ^ 20 then s.clearCfgs c (fun q => q.handle == n && n != 0)
  else if n < 2 ^ 20 + 16 then
    let q := (s.grids.get c).colours.get (n - 2 ^ 20)
    if !q.taken then s
    else if q.pel ≠ 0 then s.askDrain (fun i _ => i == q.pel)
    else s.clearCfgs c (fun p => p.ctx == q.ctx && p.handle == q.handle)
  else s

/-- Free everything a configuration holds (R313); its successors have all their elements then (R345). -/
def State.freeCfg (s : State) (c h : Nat) : State :=
  s.modGrid c (fun g =>
    { g with
      cfgs := (g.cfgs.filter (fun q => q.captured || q.name != h)).map (fun q =>
        if !q.captured && q.image.spred != 0 && q.ctx * 2 ^ 20 + q.image.spred == h then { q with shared := [] } else q)
      colours := g.colours.filter (fun e => e.2.pel != 0 || e.2.ctx * 2 ^ 20 + e.2.handle != h) })

/-- A store to a Trellis debug register of core `c` at offset `o` of its block (R347). -/
def State.kickWrite (s : State) (c o : Nat) (v : DWord) : State :=
  let n := v.toNat
  let setK (f : Kick → Kick) : State := s.modGrid c (fun g => { g with kick := f g.kick })
  if o = 0x00 then
    let s1 := (if bit n 1 then s.kickResume c else s).kickTrace c (bit n 2)
    if bit n 0 then s1.kickStop c else s1
  else if o = 0x08 then setK (fun k => { k with kdump := n / 128 * 128 })
  else if 0x18 ≤ o ∧ o ≤ 0x30 then setK (fun k => { k with brk := k.brk.set ((o - 0x18) / 8) (BitVec.ofNat 64 (bits n 0 36)) })
  else if o = 0x38 then setK (fun k => { k with trbase := n })
  else if o = 0x40 then setK (fun k => { k with trsize := n })
  else if o = 0x48 then setK (fun k => { k with trhead := n })
  else if o = 0x50 then setK (fun k => { k with hrbase := n })
  else if o = 0x58 then setK (fun k => { k with hrsize := n })
  else if o = 0x60 then setK (fun k => { k with hrhead := n })
  else if o = 0x68 then setK (fun k => { k with hsel := n % 1024 })
  else if o = 0x70 then s.hvalClear c false
  else if o = 0x78 then s.hvalClear c true
  else if o = 0x88 then s.kclr c v
  else s

/-! ### Breakpoints -/

/-- Whether an enabled breakpoint names a node, context and tag (R349). -/
def Kick.breaks (k : Kick) (node x tag : Nat) : Bool :=
  (List.range 4).any (fun i =>
    let v := (k.brk.get i).toNat
    bit v 35 && bits v 0 12 == x && bits v 12 16 == tag % 65536 && bits v 28 7 == node)

/-- What every firing does besides its results: the trace record, and a matching breakpoint (R349, R350). -/
def State.fired (s : State) (c node : Nat) (t : Tok) (pc : DWord) : State :=
  let lane0 := (t.lanes.headD 0).toNat
  let s1 := s.trace c t.header t.ctx 0 node lane0 pc
  if (s.grids.get c).kick.breaks node t.ctx t.tag then (s1.trace c t.header t.ctx 3 node lane0 pc).kickStop c else s1

/-! ### Events -/

/-- Whether core `c` is one that has a Trellis whose die is awake (R1, R5). -/
def State.gridCore (s : State) (c : Nat) : Bool :=
  decide (c < serviceBase) && match (s.dies.get (dieOf c)).stage with
    | .gated => false
    | _ => true

/-- Whether the Trellis of core `c` runs: not stopped, and its clock is running (R348, R418). -/
def State.gridRuns (s : State) (c : Nat) : Bool := s.gridCore c && !(s.grids.get c).kick.stop && s.clockRuns c

/-- Meaning of KCTL_STOP (R348). -/
def execKctlStop (c : Nat) (s : State) : Host.Outcome State Fault Refusal := .next (if s.gridCore c then s.kickStop c else s)

/-- Meaning of KCTL_RESUME (R348). -/
def execKctlResume (c : Nat) (s : State) : Host.Outcome State Fault Refusal := .next (if s.gridCore c then s.kickResume c else s)

/-- Meaning of KCTL_TRACE (R350). -/
def execKctlTrace (c : Nat) (on : Bool) (s : State) : Host.Outcome State Fault Refusal :=
  .next (if s.gridCore c then s.kickTrace c on else s)

/-- Meaning of HVAL_CLEAR (R347). -/
def execHvalClear (c : Nat) (second : Bool) (s : State) : Host.Outcome State Fault Refusal :=
  .next (if s.gridCore c then s.hvalClear c second else s)

/-- Meaning of KCLR_WRITE (R347). -/
def execKclrWrite (c : Nat) (v : DWord) (s : State) : Host.Outcome State Fault Refusal := .next (if s.gridCore c then s.kclr c v else s)

/-- Meaning of REGION_CLEAR (R343). -/
def execRegionClear (c h : Nat) (s : State) : Host.Outcome State Fault Refusal :=
  .next (if s.gridCore c then s.clearCfgs c (fun q => q.name == h) else s)

/-- Meaning of REGION_RELEASE (R343): a cleared region without tokens is released. -/
def execRegionRelease (c h : Nat) (s : State) : Host.Outcome State Fault Refusal :=
  .next (match (s.grids.get c).cfgNamed h with
    | some q => if q.stage == .clearing && !(s.grids.get c).occupied q && s.gridRuns c then s.freeCfg c h else s
    | none => s)

/-- Meaning of CFG_DROP_DONE (R313): the tokens of a dropped configuration have drained. A hung one is cleared only under R343
(R344). -/
def execCfgDropDone (c h : Nat) (s : State) : Host.Outcome State Fault Refusal :=
  .next (match (s.grids.get c).cfgNamed h with
    | some q => if q.stage == .dropping && !q.hung && !(s.grids.get c).occupied q && s.gridRuns c then s.freeCfg c h else s
    | none => s)

/-- Cycles without a firing after which a region with tokens has hung (R344). -/
def hangCycles : Nat := 2 ^ 24

/-- A token of a configuration (R344): one that lies at an element or on its way, or of a capture one that a slot of its loop waits with;
none where its region holds none. -/
def State.tokenOf (s : State) (c : Nat) (q : Cfg) : Option Tok :=
  let g := s.grids.get c
  if q.captured then
    match (s.pelsOf c).filter (fun n => (s.pel n).ctx == q.ctx && (s.pel n).head == q.head) with
    | [] => none
    | n :: ns =>
      let p := s.pel n
      some ((((n :: ns).flatMap s.pelOpds).map (·.tok)).headD
        { (default : Tok) with ctx := p.ctx, colour := p.colour, tag := p.tag, core := c, width := p.lanes.length })
  else (g.arb.map (·.tok) ++ g.toks).find? q.owns

/-- Node of a token for a trace record (R350): its element, or 64 + its edge node. -/
def Tok.node (t : Tok) : Nat := if t.edge then 64 + t.elem else t.elem

/-- Meaning of HANG_DETECT (R344): no slot of a region that holds tokens has fired for 2^24 cycles. -/
def execHangDetect (c h : Nat) (s : State) : Host.Outcome State Fault Refusal :=
  .next (match (s.grids.get c).placeNamed h with
    | none => s
    | some k =>
      let q := (s.grids.get c).cfgs.getD k default
      match s.tokenOf c q with
      | none => s
      | some t =>
        if !q.hung && s.gridRuns c && decide (q.lastFire + 1000 * hangCycles ≤ s.clk c) then
          ((s.traceForce c t.header q.ctx 4 t.node (t.lanes.headD 0).toNat q.head).modGrid c (fun g =>
            { g with cfgs := g.cfgs.modify k (fun q => { q with hung := true }) })).post (dieOf c) ⟨.other, [], [c, q.ctx, q.handle]⟩
        else s)

end Sys2Proof.Machine
end

