-- ==== Sys2Proof/Machine/Fences.lean ====
section
/-! DEFINITION. Fences, completion times and `lease.drop` (03_memory_system_instructions.md R110 to R114). -/

namespace Sys2Proof.Machine

/-- The effect of a fence of the scope given (R111). -/
def fenceEff (scope : Nat) (s : State) : Eff :=
  if s.fenceOk (s.thr s.cur) scope then .done s 0 else .wait s .fence

/-- Meaning of `fence.core` (R111). -/
def execFenceCore (f : FG) : State → Host.Outcome State Fault Refusal := issue (shG f 0) (fenceEff 0)

/-- Meaning of `fence.die` (R111). -/
def execFenceDie (f : FG) : State → Host.Outcome State Fault Refusal := issue (shG f 0) (fenceEff 1)

/-- Meaning of `fence.pkg` (R111). -/
def execFencePkg (f : FG) : State → Host.Outcome State Fault Refusal := issue (shG f 0) (fenceEff 2)

/-- Meaning of `fence.sys` (R111). -/
def execFenceSys (f : FG) : State → Host.Outcome State Fault Refusal := issue (shG f 0) (fenceEff 3)

/-- Whether a copy reads or writes another package (R93, R408). -/
def CopyDesc.remote (d : CopyDesc) : Bool := d.src.toNat / 2 ^ 60 == 3 || d.dst.toNat / 2 ^ 60 == 3

/-- Whether every access made on a path on behalf of thread `u` is performed and device time is past its completion (R112):
bit 0 F, 1 T, 2 C, 3 M, 4 G, 5 X. Trellis stores of closed iterations are held with the thread's own stores; the copies, gathers and
scatters that it has started and that reach another package are fabric transfers as well. -/
def State.pathOk (s : State) (u : Nat) (path : Nat) : Bool :=
  let t := s.thr u
  let p := s.plotOf t
  match path with
  | 0 | 1 => s.fenceOk t 3
  | 2 => (s.cores.get p.core).copies.all (fun c => c.thread != u) && decide (p.cpyDone < s.time)
  | 3 => decide (p.seq.tDone < s.time)
  | 4 => p.gss.all (fun g => g.thread != u) && decide (p.gsDone < s.time)
  | _ => s.remReqs.all (fun r => r.thread != u)
    && (s.cores.get p.core).copies.all (fun c => c.thread != u || !c.desc.remote) && p.gss.all (fun g => g.thread != u || g.table.toNat / 2 ^ 60 != 3)
    && decide (max p.cpyDone p.gsDone < s.time)

/-- Meaning of `xfence` (R112). Once the released accesses are performed, every later access on any path observes them. -/
def execXfence (f : FAB) : State → Host.Outcome State Fault Refusal :=
  issue (shXfence f) (fun s =>
    if (List.range 6).all (fun i => !f.a.getLsbD i || s.pathOk s.cur i) then .done s 0 else .wait s .xfence)

/-- Meaning of `gwct` (R113). -/
def execGwct (f : FDa) : State → Host.Outcome State Fault Refusal :=
  issue (shGwct f) (fun s =>
    let t := s.thr s.cur
    .done (s.setThr s.cur (t.wr64 false f.d (BitVec.ofNat 64 (t.scopeTime f.a.toNat)))) 0)

/-- Meaning of `lease.drop` (R114): only copies granted later are hit. -/
def execLeaseDrop (f : FG) : State → Host.Outcome State Fault Refusal :=
  issue (shG f 0) (fun s => .done (s.modThr s.cur (fun t => { t with leaseDrop := s.time + 1 })) 0)

end Sys2Proof.Machine
end

