-- ==== Sys2Proof/Machine/ThreadEvents.lean ====
section
/-! DEFINITION. The packer, the ends of threads' waits, and the spawn and regroup bins (02_integer_control.md R81 and R88 to R90,
03_memory_system_instructions.md R111, R118, R128, R131 and R134, 06_threads.md R214 to R217 and R224 to R229). -/

namespace Sys2Proof.Machine

/-! ### The packer -/

/-- The words at `pc` for thread `u`, the second zero where the first calls for no literal; none where they cannot be fetched (R27). -/
def State.wordsAt (s : State) (u : Nat) (pc : DWord) : Option (Word × Word) :=
  let t := s.thr u
  match s.fetch (s.who t) pc with
  | .word w =>
    match (if hasLiteral w then s.fetch (s.who t) (pc + 4) else .word 0) with
    | .word l => some (w, l)
    | _ => none
  | _ => none

/-- The words at the program counter of thread `u`. -/
def State.nextWords (s : State) (u : Nat) : Option (Word × Word) := s.wordsAt u (s.thr u).pc

/-- The operand shape of the instruction at `pc` for thread `u`, where its words can be fetched and its fields hold permitted values (R27,
R35). -/
def State.shapeAt (s : State) (u : Nat) (pc : DWord) : Option Shape :=
  match s.wordsAt u pc with
  | some (w, l) => (threadShape w l).filter (fun sh => sh.ok)
  | none => none

/-- The operand shape of the instruction that thread `u` issues next. -/
def State.nextShape (s : State) (u : Nat) : Option Shape := s.shapeAt u (s.thr u).pc

/-- Whether one of the next `n` instructions from `pc` on reads the value that stands in `b0` (`v0`) or `b1` (`v1`) now (R37, R38). What
the guard of an instruction further on will be is not known: both are followed (DEDUCED, notes/assumptions/97.md). -/
def State.readsAhead (s : State) (u : Nat) : Nat → DWord → Bool → Bool → Bool
  | 0, _, _, _ => false
  | n + 1, pc, v0, v1 =>
    match s.shapeAt u pc with
    | none => false
    | some sh =>
      if (sh.reads 60 && v0) || (sh.reads 61 && v1) then true
      else if sh.reads 60 || sh.reads 61 || !sh.producer then false
      else State.readsAhead s u n (pc + BitVec.ofNat 64 sh.len) false v0
        || (sh.g != 7#4 && State.readsAhead s u n (pc + BitVec.ofNat 64 sh.len) v0 v1)

/-- Whether the next instruction of thread `u` is a member of a latch chain that has begun (R38, R39): it, or one that it stands between,
reads a latch that is valid now. -/
def State.chainNext (s : State) (u : Nat) : Bool :=
  (s.thr u).b0.isSome && s.readsAhead u 3 (s.thr u).pc (s.thr u).b0.isSome (s.thr u).b1.isSome

/-- The start of the chain that the next instruction of thread `u` is a member of (R38, R39). -/
def State.chainStart (s : State) (u : Nat) : Option Snap :=
  let t := s.thr u
  match s.nextShape u with
  | none => none
  | some sh =>
    if sh.reads 60 || sh.reads 61 then (t.nextChain sh).map (·.snap)
    else (longerChain (if s.readsAhead u 3 t.pc t.b0.isSome false then latchChain t.b0 else none)
      (if s.readsAhead u 3 t.pc false t.b1.isSome then latchChain t.b1 else none)).map (·.snap)

/-- The threads that issue the next chain member with thread `u` (R39): those that issued the chain's first instruction with it and stand
at the same member. -/
def State.chainMates (s : State) (u : Nat) : List Nat :=
  let t := s.thr u
  if t.packed.contains u then
    t.packed.filter (fun v => v == u || ((s.thr v).live && (s.thr v).packed == t.packed && (s.thr v).pc == t.pc && s.chainNext v))
  else [u]

/-- The threads of an issue that no chain holds together have issued together (R39, R217). -/
def State.packThreads (s : State) (us : List Nat) : State :=
  us.foldl (fun s u => if s.chainNext u then s else s.modThr u (fun t => { t with packed := us })) s

/-- Whether thread `u` is ready (R216): it can issue, is in no wait, and the operands of its next instruction are available. -/
def State.ready (s : State) (u : Nat) : Bool :=
  s.canTurn u && (s.thr u).wait == .none && (match s.nextShape u with
    | some sh => !(s.thr u).hazard sh
    | none => true)

/-- Whether thread `u` is older than thread `v` (R216). -/
def State.older (s : State) (u v : Nat) : Bool :=
  let a := s.thr u
  let b := s.thr v
  decide (a.age < b.age) || (a.age == b.age && (decide (a.slot < b.slot) || (a.slot == b.slot && decide (u < v))))

/-- The oldest of some threads. -/
def State.oldest (s : State) : List Nat → Option Nat
  | [] => none
  | u :: us =>
    match State.oldest s us with
    | none => some u
    | some v => if s.older v u then some v else some u

/-- The peloton of thread `t` (R217): with it, for each other home lane, the oldest of the ready threads of its context at its address. -/
def State.peloton (s : State) (ready : List Nat) (t : Nat) : List Nat :=
  let q := s.thr t
  let same := ready.filter (fun u => (s.thr u).ctx == q.ctx && (s.thr u).pc == q.pc)
  (List.range 32).filterMap (fun l =>
    if q.slot % 32 = l then some t else s.oldest (same.filter (fun u => (s.thr u).slot % 32 == l)))

/-- The pelotons that the packer forms in one cycle, at most `n` of them (R217): the chains whose next member is ready come first, each
issued to its own threads. -/
def State.pack (s : State) : Nat → List Nat → List Nat → List (List Nat)
  | 0, _, _ => []
  | n + 1, chained, ready =>
    match s.oldest chained with
    | some t =>
      let p := s.chainMates t
      p :: State.pack s n (chained.filter (fun u => !p.contains u)) ready
    | none =>
      match s.oldest ready with
      | some t =>
        let p := s.peloton ready t
        p :: State.pack s n [] (ready.filter (fun u => !p.contains u))
      | none => []

/-- Meaning of PACKER_CYCLE (R217): the pelotons of the cycle issue next. -/
def execPackerCycle (c : Nat) (s : State) : Host.Outcome State Fault Refusal :=
  let us := s.threads.keys.filter (fun u => s.coreOf (s.thr u) == c && s.ready u)
  let ps := s.pack 2 (us.filter (fun u => s.chainNext u && (s.chainMates u).all us.contains)) (us.filter (fun u => !s.chainNext u))
  .next { s with agenda := ps.map .peloton ++ s.agenda }

/-- The turn of thread `u` in a round: a member of a latch chain issues to the chain's threads when all of them are ready (R39, R217). -/
def State.turnOf (s : State) (u : Nat) : Turn :=
  if (s.thr u).wait == .none && s.chainNext u then .peloton (if (s.chainMates u).all s.ready then s.chainMates u else [])
  else .thread u

/-- Meaning of ILLEGAL_OP (R35): the thread that issues the word takes the fault. -/
def execIllegalOp (s : State) : Host.Outcome State Fault Refusal :=
  .next (if (s.thr s.cur).live then s.faultAt s.cur none codeOp 0 0 else s)

/-! ### Waits that end -/

/-- Thread `u` is ready again now. -/
def State.wake (s : State) (u : Nat) : State := s.modThr u (fun t => { t with wait := .none, age := s.time })

/-- The waits for a time that the context spends resident: 100 ms (R118). -/
def barrierLimit : Nat := 100000000

/-- Whether time counts toward a barrier wait of a plot: it is resident, neither its context nor its launch is paused, and its core is
not stopped (R118, R348, R415). -/
def State.countsTime (s : State) (p : Nat) : Bool :=
  let q := s.plots.get p
  q.live && q.resident && q.switching.isNone && !(s.ctxs.get q.ctx).paused && !(s.launches.get q.launch).paused
    && !(s.grids.get q.core).kick.stop

/-- The counts of a plot's barrier waits start again (R118, R253). -/
def State.restartCounts (s : State) (p : Nat) : State :=
  { s with
    threads := s.threads.map (fun e => if e.2.plot = p then (e.1, { e.2 with since := s.time }) else e)
    plots := s.plots.modify p (fun q => { q with seq := { q.seq with since := if q.seq.wait = .none then q.seq.since else s.time } }) }

/-- Whether a wait is one at a lane instruction. -/
def Wait.isLane : Wait → Bool
  | .lane _ => true
  | _ => false

/-- Meaning of BARRIER_TIMEOUT (R118) for thread `k`, and with it for every thread of its block that waits at a lane instruction (R73),
or for the sequencer of plot `k` (R170, R192). -/
def execBarrierTimeout (seq : Bool) (k : Nat) (s : State) : Host.Outcome State Fault Refusal :=
  .next (
    if seq then
      let p := s.plots.get k
      if s.countsTime k && p.seq.running && !p.seq.faulted && p.seq.wait == .nbar && decide (p.seq.since + barrierLimit ≤ s.time)
      then s.seqFault k codeBarrier 0 0 else s
    else
      let t := s.thr k
      if t.live && s.countsTime t.plot && t.wait.isBarrier && decide (t.since + barrierLimit ≤ s.time) then
        match t.wait with
        | .lane _ => ((s.blockThreads t.plot (t.slot / 32)).filter (fun u => (s.thr u).wait.isLane)).foldl
            (fun s u => s.faultAt u (s.thr u).pend codeBarrier 0 0) s
        | _ => s.faultAt k t.pend codeBarrier 0 0
      else s)

/-- Meaning of SLEEP_END (R81). -/
def execSleepEnd (u : Nat) (s : State) : Host.Outcome State Fault Refusal :=
  .next (match (s.thr u).wait with
    | .sleep end_ => if (s.thr u).live && s.coreGoes (s.coreOf (s.thr u)) && decide (end_ ≤ s.clk (s.coreOf (s.thr u))) then s.wake u else s
    | _ => s)

/-- Meaning of WFI_WAKE (R134): an event was posted after the wait began. -/
def execWfiWake (u : Nat) (s : State) : Host.Outcome State Fault Refusal :=
  let t := s.thr u
  .next (match t.wait with
    | .wfi n => if t.live && decide (n < (s.dies.get (dieOf (s.coreOf t))).posted) then s.wake u else s
    | _ => s)

/-- Meaning of THREAD_RESUME (R131). -/
def execThreadResume (u : Nat) (s : State) : Host.Outcome State Fault Refusal :=
  let t := s.thr u
  .next (if t.live && t.wait == .stopped then (s.wake u).modThr u (fun t => { t with stop := none }) else s)

/-- The scope whose fence the word `w` waits for: that of fence.s, and that of a barrier arrival, a spawn or a launch (R88, R101, R111,
R119, R121). -/
def fenceScope (w : Word) : Option Nat :=
  let fn := (w.extractLsb' 0 3).toNat
  match major w with
  | 0x2e => if fn < 4 then some fn else none
  | 0x2f => if fn = 3 then some 1 else if fn = 0 ∨ fn = 2 then some 2 else none
  | 0x34 => if fn = 0 ∨ fn = 1 ∨ fn = 6 then some 2 else none
  | _ => none

/-- Whether the wait of the fence, release store, barrier arrival or spawn with the words `w` and `l`, at which thread `u` stands, is
over (R88, R101, R111, R112, R119, R121). -/
def State.fenceOver (s : State) (u : Nat) (w l : Word) : Bool :=
  let t := s.thr u
  match fenceScope w with
  | some k => s.fenceOk t k
  | none =>
    if major w = 0x2e ∧ (w.extractLsb' 0 3).toNat = 4 then
      let f : FAB := .dec w l
      (List.range 6).all (fun k => !f.a.getLsbD k || s.pathOk u k)
    else if major w = 0x29 then
      let f : FM := .dec w l
      match s.check (s.who t) .write (t.mAddr f.lit f.a f.o (sizeBytes f.z)) (sizeBytes f.z) with
      | .ok ps => s.fenceOk t (if outside ps then 3 else f.c.toNat)
      | _ => true
    else true

/-- Meaning of FENCE_WAIT_END (R111, R112): the thread's instruction goes on in its next turn, which comes at once. -/
def execFenceWaitEnd (u : Nat) (s : State) : Host.Outcome State Fault Refusal :=
  let t := s.thr u
  .next (match s.nextWords u with
    | some (w, l) => if s.canTurn u && (t.wait == .fence || t.wait == .xfence) && s.fenceOver u w l
        then { s with agenda := .thread u :: s.agenda } else s
    | none => s)

/-- Meaning of SEND_SPACE_AVAILABLE (R128). -/
def execSendSpaceAvailable (u : Nat) (s : State) : Host.Outcome State Fault Refusal :=
  let t := s.thr u
  .next (match t.wait with
    | .space end_ m =>
      if t.live && (s.plotOf t).resident && decide (s.time ≤ end_) then
        match s.deliver m with
        | some s1 => s1.modThr u (fun t => { t.breakLatches.goTo m.nextPc with age := s.time })
        | none => s
      else s
    | _ => s)

/-- Meaning of SEND_TIMEOUT (R128): 1 ms without space raises RING.TIMEOUT. -/
def execSendTimeout (u : Nat) (s : State) : Host.Outcome State Fault Refusal :=
  let t := s.thr u
  .next (match t.wait with
    | .space end_ _ => if t.live && (s.plotOf t).resident && s.coreGoes (s.coreOf t) && decide (end_ ≤ s.time) then s.faultAt u t.pend codeRing 0 0 else s
    | _ => s)

/-- End the wait of a `spawn.w` with predicate value `v` (R88). -/
def State.spawnEnds (s : State) (u : Nat) (q : SpawnReq) (v : Bool) : State :=
  s.modThr u (fun t => { (t.wrp q.nw q.p v).breakLatches.goTo q.nextPc with age := s.time })

/-- Meaning of SPAWN_QUEUE_ROOM (R88, R89). -/
def execSpawnQueueRoom (u : Nat) (s : State) : Host.Outcome State Fault Refusal :=
  let t := s.thr u
  .next (match t.wait with
    | .queue _ q =>
      if !t.live || !(s.plotOf t).resident || decide (1024 ≤ s.pending (s.coreOf t)) then s
      else if (s.launches.get (s.plotOf t).launch).idsOut then s.spawnEnds u q false
      else (s.spawnChild u q.entry q.arg).spawnEnds u q true
    | _ => s)

/-- Meaning of SPAWN_WAIT_LIMIT (R88). -/
def execSpawnWaitLimit (u : Nat) (s : State) : Host.Outcome State Fault Refusal :=
  let t := s.thr u
  .next (match t.wait with
    | .queue end_ q =>
      if t.live && (s.plotOf t).resident && s.coreGoes (s.coreOf t) && decide (end_ ≤ s.clk (s.coreOf t)) && decide (1024 ≤ s.pending (s.coreOf t)) then s.spawnEnds u q false else s
    | _ => s)

/-! ### Slots, lane blocks and stack areas -/

/-- Base of stack area `j` of a plot (R214). -/
def State.stackBase (s : State) (p j : Nat) : DWord :=
  let q := s.plots.get p
  let stack := leNat (((s.launches.get q.launch).record.drop 96).take 8)
  if stack = 0 then 0 else BitVec.ofNat 64 (stack + 0x10100 * (q.num * q.areas + j) + 0x100)

/-- The live threads of a plot. -/
def State.plotThreads (s : State) (p : Nat) : List Nat :=
  (s.threads.filter (fun e => e.2.live && e.2.plot == p)).map (·.1)

/-- The free slots of a plot, ascending (R215). -/
def State.freeSlots (s : State) (p : Nat) : List Nat :=
  let used := (s.plotThreads p).map (fun u => (s.thr u).slot)
  ((s.plots.get p).blocks.flatMap (fun b => (List.range 32).map (32 * b + ·))).filter (fun x => !used.contains x)

/-- The lowest stack area of a plot that no live thread holds (R214). -/
def State.freeArea (s : State) (p : Nat) : Option Nat :=
  let used := (s.plotThreads p).map (fun u => (s.thr u).area)
  (List.range (s.plots.get p).areas).find? (fun j => !used.contains j)

/-- The free lane blocks of a core, ascending (R215). -/
def State.freeBlocks (s : State) (c : Nat) : List Nat :=
  let used := s.plots.flatMap (fun e => if e.2.live && e.2.resident && e.2.core == c then e.2.blocks else [])
  (List.range (if isService c then 1 else 64)).filter (fun b => !used.contains b)

/-- The slot number of a thread that was restored in a regroup bin, and holds no slot (R254). -/
def noSlot : Nat := 4096

/-- The first slot whose lane is not in a list. -/
def slotFor (lanes free : List Nat) : Option Nat := free.find? (fun x => !lanes.contains (x % 32))

/-! ### Spawn bins -/

/-- Create a thread of plot `p` (R23, R214). -/
def State.newThread (s : State) (p : Nat) (tid arg : Word) (slot area : Nat) (pc : DWord) (grps : List Nat) (arr0 : Nat) : State :=
  { s with
    nextThread := s.nextThread + 1
    threads := s.threads.set s.nextThread { (default : Thread) with
      live := true, plot := p, ctx := (s.plots.get p).ctx, tid := tid, spawnArg := arg, slot := slot, pc := pc,
      lfsr := tid + 1, sbase := s.stackBase p area, area := area, grps := grps, arr := FMap.set [] 0 arr0, age := s.time } }

/-- Release children in filing order (R226): each to the lowest free slot of an unused lane and the lowest free stack area. What stays
is the second component. -/
def State.releaseKids (s : State) (p : Nat) (entry : DWord) (lanes : List Nat) : List Child → State × List Child
  | [] => (s, [])
  | k :: ks =>
    match slotFor lanes (s.freeSlots p), s.freeArea p with
    | some x, some j => State.releaseKids (s.newThread p k.tid k.arg x j entry [] k.arr0) p entry (x % 32 :: lanes) ks
    | _, _ =>
      let r := State.releaseKids s p entry lanes ks
      (r.1, k :: r.2)

/-- Release the spawn bin of `entry` (R226). -/
def State.releaseBin (s : State) (p : Nat) (entry : DWord) : State :=
  match (s.plots.get p).bins.find? (fun b => b.entry == entry) with
  | none => s
  | some b =>
    let r := s.releaseKids p entry [] (b.kids.take 32)
    let stay := r.2 ++ b.kids.drop 32
    r.1.modPlot p (fun q => { q with
      bins := if stay.isEmpty then q.bins.filter (fun b => b.entry != entry)
        else q.bins.map (fun b => if b.entry == entry then ⟨entry, s.after q.core q.bintmr, stay⟩ else b) })

/-- Whether a plot has a free slot in each of 32 distinct lanes (R225). -/
def State.allLanesFree (s : State) (p : Nat) : Bool :=
  let free := s.freeSlots p
  (List.range 32).all (fun l => free.any (fun x => x % 32 == l))

/-- Meaning of SPAWN_BIN_RELEASE (R225, R226). -/
def execSpawnBinRelease (p : Nat) (entry : DWord) (s : State) : Host.Outcome State Fault Refusal :=
  let q := s.plots.get p
  .next (match q.bins.find? (fun b => b.entry == entry) with
    | none => s
    | some b =>
      if q.live && q.resident && s.coreGoes q.core && ((decide (32 ≤ b.kids.length) && s.allLanesFree p)
          || (decide (b.ends ≤ s.clk q.core) && !(s.freeSlots p).isEmpty))
      then s.releaseBin p entry else s)

/-- Meaning of SPAWN_BIN_TIMER (R225): a plot without a free slot gains the lowest free lane block of its core, if there is one. -/
def execSpawnBinTimer (p : Nat) (entry : DWord) (s : State) : Host.Outcome State Fault Refusal :=
  let q := s.plots.get p
  .next (match q.bins.find? (fun b => b.entry == entry) with
    | none => s
    | some b =>
      if !(q.live && q.resident && s.coreGoes q.core && decide (b.ends ≤ s.clk q.core)) then s
      else if !(s.freeSlots p).isEmpty then s.releaseBin p entry
      else match s.freeBlocks q.core with
        | [] => s
        | n :: _ => (s.modPlot p (fun q => { q with blocks := q.blocks.filter (· < n) ++ n :: q.blocks.filter (n < ·) })).releaseBin p entry)

/-! ### Regroup bins -/

/-- Release threads from a regroup bin in filing order (R229): a thread that has a slot (R254) keeps its slot where its lane is unused, else it moves, in 8
cycles, to the lowest free slot of an unused lane. What stays is the second component. -/
def State.releaseGroup (s : State) (p : Nat) (lanes : List Nat) : List Nat → State × List Nat
  | [] => (s, [])
  | u :: us =>
    let l := (s.thr u).slot % 32
    if (s.thr u).slot ≠ noSlot ∧ !lanes.contains l then State.releaseGroup (s.wake u) p (l :: lanes) us
    else match slotFor lanes (s.freeSlots p) with
      | some x =>
        let e := s.after (s.plots.get p).core 8
        State.releaseGroup (s.modThr u (fun t => { t with slot := x, wait := .sleep e })) p (x % 32 :: lanes) us
      | none =>
        let r := State.releaseGroup s p lanes us
        (r.1, u :: r.2)

/-- Release the regroup bin of (pc, v) (R229). -/
def State.releaseRBin (s : State) (p : Nat) (pc : DWord) (v : Word) : State :=
  match (s.plots.get p).rbins.find? (fun b => b.pc == pc && b.val == v) with
  | none => s
  | some b =>
    let r := s.releaseGroup p [] (b.members.take 32)
    let stay := r.2 ++ b.members.drop 32
    r.1.modPlot p (fun q => { q with
      rbins := if stay.isEmpty then q.rbins.filter (fun b => !(b.pc == pc && b.val == v))
        else q.rbins.map (fun b => if b.pc == pc && b.val == v then ⟨pc, v, s.after q.core q.bintmr, stay⟩ else b) })

/-- Meaning of REGROUP_BIN_RELEASE (R228, R229): the bin holds 32 threads, or every thread of the plot waits in a bin. -/
def execRegroupBinRelease (p : Nat) (pc : DWord) (v : Word) (s : State) : Host.Outcome State Fault Refusal :=
  let q := s.plots.get p
  .next (match q.rbins.find? (fun b => b.pc == pc && b.val == v) with
    | none => s
    | some b =>
      if q.live && q.resident && s.coreGoes q.core && (decide (32 ≤ b.members.length) || (s.plotThreads p).all (fun u => (s.thr u).wait == .bin))
      then s.releaseRBin p pc v else s)

/-- Meaning of REGROUP_BIN_TIMER (R228, R229). -/
def execRegroupBinTimer (p : Nat) (pc : DWord) (v : Word) (s : State) : Host.Outcome State Fault Refusal :=
  let q := s.plots.get p
  .next (match q.rbins.find? (fun b => b.pc == pc && b.val == v) with
    | none => s
    | some b => if q.live && q.resident && s.coreGoes q.core && decide (b.ends ≤ s.clk q.core) then s.releaseRBin p pc v else s)

end Sys2Proof.Machine
end

