-- ==== Sys2Proof/Machine/Sched.lean ====
section
/-! DEFINITION. The scheduler: launch records and their checks, group tables, promotion, placement, retirement, and the outcomes of
launches (06_threads.md R214 to R223, R235 to R249, 10_outliers_microseq.md R386, 11_package.md R397 and R398). -/

namespace Sys2Proof.Machine

/-! ### The launch record -/

/-- The `n` bytes of a launch record from byte `o` on. -/
def Launch.field (l : Launch) (o n : Nat) : Nat := leNat ((l.record.drop o).take n)

/-- The fields of R235. -/
def Launch.entry (l : Launch) : Nat := l.field 0 8
def Launch.shape (l : Launch) : Nat := l.field 12 4
def Launch.tiles (l : Launch) : Nat := bits l.shape 16 5
def Launch.accs (l : Launch) : Nat := bits l.shape 21 3
def Launch.scratch (l : Launch) : Nat := l.field 16 4
def Launch.flags (l : Launch) : Nat := l.field 20 4
def Launch.afterFull (l : Launch) : Bool := bit l.flags 3
def Launch.vdies (l : Launch) : Nat := l.field 24 4 % 65536
def Launch.pred (l : Launch) : Nat := l.field 28 4
def Launch.cadence (l : Launch) : Nat := l.field 32 8
def Launch.groupTable (l : Launch) : Nat := l.field 40 8
def Launch.argp (l : Launch) : Nat := l.field 48 8
def Launch.nbar (l : Launch) (i : Nat) : Nat := l.field (64 + 2 * i) 2
def Launch.stack (l : Launch) : Nat := l.field 96 8
def Launch.spareas (l : Launch) : Nat := l.field 104 4

/-- Stack areas per plot (R214, R235). -/
def Launch.areas (l : Launch) : Nat := if l.spareas = 0 then l.perPlot else l.spareas

/-- Threads of plot `p` of a launch (R236). -/
def Launch.plotThreads (l : Launch) (p : Nat) : Nat := min l.perPlot (l.threads - p * l.perPlot)

/-- The virtual dies of the mask, ascending (R242). -/
def Launch.maskDies (l : Launch) : List Nat := (List.range 16).filter (fun v => bit l.vdies v)

/-- The virtual die that plot `p` targets (R242). -/
def Launch.targetDie (l : Launch) (p : Nat) : Nat := l.maskDies.getD (p % l.maskDies.length) 0

/-- Whether a launch is live (R244). -/
def Launch.live (l : Launch) : Bool :=
  match l.stage with
  | .queued | .reading | .waiting | .placed => true
  | _ => false

/-! ### Outcomes -/

/-- The recorded outcome of launch `id` of a context (R244). -/
def Ctx.outcome (c : Ctx) (id : Nat) : Option LStage := (c.outcomes.find? (fun e => e.1 == id)).map (·.2)

/-- A launch stops being live with the outcome given (R244). -/
def State.endLaunch (s : State) (k : Nat) (o : LStage) : State :=
  let l := s.launches.get k
  (s.modLaunch k (fun l => { l with stage := o, groups := [] })).modCtx l.ctx
    (fun c => { c with outcomes := ((l.id, o) :: c.outcomes).take 4096 })

/-- The fault code of a drop reason (R237). -/
def dropCode (reason : Nat) : Nat := if reason ≤ 6 then codeField else codeGroups

/-- The 64-byte drop record (R238). -/
def dropRecord (l : Launch) (reason tid time : Nat) : List Byte :=
  leBytes 2 (dropCode reason) ++ leBytes 2 0 ++ leBytes 4 l.id ++ leBytes 4 0xFFFFFFFE ++ leBytes 4 reason
    ++ leBytes 8 l.entry ++ leBytes 8 l.recAddr.toNat ++ leBytes 8 time ++ leBytes 4 tid ++ leBytes 20 0

/-- Drop one launch (R238); for a Pavilion's launch port, LSTAT alone reports it (R398). -/
def State.dropOne (s : State) (k reason tid : Nat) : State :=
  let l := s.launches.get k
  let s1 := s.endLaunch k .dropped
  match l.pav with
  | some v => s1.modPav v (fun p => { p with drop := true, reason := reason, busy := false })
  | none => s1.post l.home ⟨.drop, dropRecord l reason tid s.time, [l.ctx, l.id, reason]⟩

/-- The taken launches that name launch `k` as their predecessor. -/
def State.successors (s : State) (k : Nat) : List Nat :=
  let l := s.launches.get k
  (s.launches.filter (fun e => (e.2.stage == .reading || e.2.stage == .waiting) && e.2.ctx == l.ctx && e.2.pred == l.id)).map (·.1)

/-- Drop a launch, and every taken launch that names a launch dropped in this way with reason 6 (R238, R246). A queued one is dropped
when it is taken. `fuel` bounds the length of a line of successors. -/
def State.dropLaunch : Nat → Nat → Nat → Nat → State → State
  | 0, k, reason, tid, s => s.dropOne k reason tid
  | fuel + 1, k, reason, tid, s => (s.successors k).foldl (fun s j => State.dropLaunch fuel j 6 0 s) (s.dropOne k reason tid)

/-- Drop a launch with all that follows. -/
def State.drop (s : State) (k reason tid : Nat) : State := State.dropLaunch s.launches.length k reason tid s

/-! ### Checks of the record -/

/-- Whether an address has a window other than 0 or bits [1:0] set. -/
def badCode (a : Nat) : Bool := a / 2 ^ 60 != 0 || a % 4 != 0

/-- The first failure of a record's fields, as its reason (R237, R397). -/
def State.recordBad (s : State) (l : Launch) : Option Nat :=
  let svc := l.pav.isSome
  let vd := (s.desc l.home l.ctx).vd
  if bits l.shape 12 4 ≠ 0 ∨ bits l.shape 24 8 ≠ 0 ∨ l.flags / 16 ≠ 0 ∨ l.field 24 4 / 65536 ≠ 0 ∨ l.field 108 20 ≠ 0 then some 1
  else if l.threads = 0 ∨ 0x7FFFFFFF < l.threads ∨ l.perPlot = 0 ∨ 2048 < l.perPlot ∨ 16 < l.tiles ∨ 4 < l.accs ∨ 524288 < l.scratch
      ∨ (l.spareas ≠ 0 ∧ (l.spareas < l.perPlot ∨ 65536 < l.spareas))
      ∨ (l.stack ≠ 0 ∧ (l.stack % 256 ≠ 0 ∨ l.stack / 2 ^ 60 ≠ 0))
      ∨ (svc ∧ (l.cadence ≠ 0 ∨ l.tiles ≠ 0 ∨ l.groupTable ≠ 0 ∨ 65536 < l.scratch ∨ 32 < l.perPlot ∨ l.perPlot < l.threads)) then some 2
  else if badCode l.entry || (l.cadence != 0 && badCode l.cadence) then some 3
  else if l.vdies = 0 ∨ l.maskDies.any (fun v => (s.boundDie vd v).isNone) then some 4
  else if (List.range 16).any (fun i => decide (2049 < l.nbar i) && l.nbar i != 0xFFFF) then some 5
  else if l.pred ≠ 0 ∧ ((s.ctxs.get l.ctx).outcome l.pred == some .dropped ∨ (s.ctxs.get l.ctx).outcome l.pred == some .killed) then some 6
  else none

/-! ### Group tables -/

/-- What the scheduler's reading of a group table comes to. -/
inductive GRead (α : Type) where
  | ok (v : α)
  | bad
  | miss (va : DWord)

/-- On whose behalf the scheduler reads for a launch. -/
def State.whoLaunch (s : State) (l : Launch) : Who := ⟨l.ctx, 0, l.home, none, false, (s.ctxs.get l.ctx).priv⟩

/-- The asker of the scheduler's reads (R426). -/
def askLaunch (l : Launch) : Asker := ⟨l.id, 0xFFFFFFFF, 6, 0⟩

/-- Read `n` bytes at `va` for a launch (R222): an absent page raises a PAGE event; a permission that is not granted makes the bytes
unreadable. -/
def State.schedRead (s : State) (l : Launch) (va : DWord) (n : Nat) : Nat → State × GRead (List Byte)
  | 0 => (s, .bad)
  | fuel + 1 =>
    let w := s.whoLaunch l
    match s.check w .read va n with
    | .bad _ => (s, .bad)
    | .ok ps =>
      if !s.keysOk ps then (s, .bad) else (s, .ok (s.readParts 0 ps))
    | .miss m =>
      let s1 := s.holdDesc w.die w.ctx
      match s1.walk w.die w.ctx m.toNat .read with
      | .leaf e => State.schedRead (s1.keepLeaf w e) l va n fuel
      | .ending 4 _ => (s1, .bad)
      | .ending c v => (s1.pageEvent w (askLaunch l) .read m c v, .miss m)

/-- The ranges in `n` entries of a list (R221). -/
def groupRanges (bs : List Byte) : Nat → List (Nat × Nat)
  | 0 => []
  | n + 1 => (leNat (bs.take 4), leNat ((bs.drop 4).take 4)) :: groupRanges (bs.drop 8) n

/-- Read the lists of entries `k` to 255 of the group table `tbl` (R221, R222). -/
def State.readLists (s : State) (l : Launch) (tbl : List Byte) : Nat → State × GRead (FMap (List (Nat × Nat)))
  | 0 => (s, .ok [])
  | n + 1 =>
    let k := 255 - n
    let list := word64 tbl (16 * k)
    let cnt := word32 tbl (16 * k + 8)
    if cnt = 0 then State.readLists s l tbl n
    else if list % 8 ≠ 0 ∨ list / 2 ^ 60 ≠ 0 then (s, .bad)
    else match s.schedRead l (BitVec.ofNat 64 list) (8 * cnt) (pageFuel (8 * cnt)) with
      | (s1, .ok bs) =>
        match State.readLists s1 l tbl n with
        | (s2, .ok m) => (s2, .ok (FMap.set m k (groupRanges bs cnt)))
        | r => r
      | (s1, .bad) => (s1, .bad)
      | (s1, .miss m) => (s1, .miss m)

/-- Read a launch's group table and lists (R222). -/
def State.readGroups (s : State) (l : Launch) : State × GRead (FMap (List (Nat × Nat))) :=
  if l.groupTable = 0 then (s, .ok [])
  else if l.groupTable % 16 ≠ 0 ∨ l.groupTable / 2 ^ 60 ≠ 0 then (s, .bad)
  else match s.schedRead l (BitVec.ofNat 64 l.groupTable) 4096 (pageFuel 4096) with
    | (s1, .ok bs) => s1.readLists l bs 255
    | (s1, .bad) => (s1, .bad)
    | (s1, .miss m) => (s1, .miss m)

/-- The tid at fault of the first range that is out of order or beyond the launch (R222, R238). -/
def badRange (threads : Nat) (m : FMap (List (Nat × Nat))) : Option Nat :=
  ((m.flatMap (·.2)).find? (fun r => decide (threads ≤ r.2) || decide (r.2 < r.1))).map (fun r => if threads ≤ r.2 then r.2 else r.1)

/-- The groups of a launch that a tid belongs to, ascending (R221, R222). -/
def groupsOf (m : FMap (List (Nat × Nat))) (tid : Nat) : List Nat :=
  (m.filter (fun e => e.2.any (fun r => decide (r.1 ≤ tid) && decide (tid ≤ r.2)))).map (·.1)

/-- The lowest tid that is a member of more than three groups (R222, R238): some range begins there. -/
def tooMany (m : FMap (List (Nat × Nat))) : Option Nat :=
  ((m.flatMap (fun e => e.2.map (·.1))).filter (fun t => decide (3 < (groupsOf m t).length))).min?

/-- Read the group table of a taken launch, and file it in its class queue, drop it, or leave it waiting for a page (R222, R237). -/
def State.takeGroups (s : State) (k : Nat) : State :=
  let l := s.launches.get k
  match s.readGroups l with
  | (s1, .bad) => s1.drop k 16 0
  | (s1, .miss _) => s1.modLaunch k (fun l => { l with stage := .reading })
  | (s1, .ok m) =>
    match badRange l.threads m, tooMany m with
    | some t, _ => s1.drop k 17 t
    | none, some t => s1.drop k 18 t
    | none, none => s1.modLaunch k (fun l => { l with stage := .waiting, groups := m })

/-- Meaning of LAUNCH_TAKE (R237): the record at the head of its die's ingress or internal queue. -/
def execLaunchTake (k : Nat) (s : State) : Host.Outcome State Fault Refusal :=
  let l := s.launches.get k
  let d := s.dies.get l.home
  .next (if l.stage == .queued && l.pav.isNone && (d.ingress.head? == some k || d.internal.head? == some k) then
      let s1 := (s.modDie l.home (fun d => { d with ingress := d.ingress.filter (· != k), internal := d.internal.filter (· != k) })).holdDesc l.home l.ctx
      match s1.recordBad l with
      | some r => s1.drop k r 0
      | none => s1.takeGroups k
    else s)

/-- Meaning of GROUP_TABLE_REREAD (R222). -/
def execGroupTableReread (k : Nat) (s : State) : Host.Outcome State Fault Refusal :=
  .next (if (s.launches.get k).stage == .reading then s.takeGroups k else s)

/-- The longest wait in a class before promotion, in ns (R241). -/
def classWait (c : Nat) : Nat := if c = 0 then 8000000 else if c = 1 then 2000000 else 500000

/-- Meaning of LAUNCH_PROMOTION (R241). -/
def execLaunchPromotion (k : Nat) (s : State) : Host.Outcome State Fault Refusal :=
  let l := s.launches.get k
  .next (if (l.stage == .queued || l.stage == .reading || l.stage == .waiting) && l.pav.isNone && decide (l.cls < 3)
      && decide (l.clsSince + classWait l.cls < s.time) then
      s.modLaunch k (fun l => { l with cls := l.cls + 1, clsSince := s.time }) else s)

/-! ### Room -/

/-- What a plot needs of a core (R219). -/
structure Need where
  ctx : Nat
  blocks : Nat
  scratch : Nat
  tiles : Nat
  accs : Nat
  seq : Bool
  deriving DecidableEq, Repr, Inhabited

/-- The plots that a core holds. -/
def State.plotsOn (s : State) (c : Nat) : List Plot :=
  (s.plots.filter (fun e => e.2.live && e.2.resident && e.2.core == c)).map (·.2)

/-- The scratchpad that a plot takes (R219). -/
def scratchTaken (n : Nat) : Nat := (n + 127) / 128 * 128

/-- Whether a die takes new plots: enabled, its columns starting or started, and no reset of it asked for (R419, R421). -/
def Die.takesPlots (d : Die) : Bool :=
  !d.disabled && !d.fenced && match d.stage with
    | .up | .waking _ => true
    | _ => false

/-- Whether a core has everything that a plot needs but a control-store bank (R219, R251). -/
def State.roomBut (s : State) (c : Nat) (n : Need) : Bool :=
  let k := s.cores.get c
  let ps := s.plotsOn c
  let sum (f : Plot → Nat) : Nat := ps.foldl (fun a p => a + f p) 0
  !k.disabled && !k.off && !k.fenced && (s.dies.get (dieOf c)).takesPlots && !k.barred.contains n.ctx
    && decide (ps.length < 4) && decide (n.blocks ≤ (s.freeBlocks c).length)
    && decide (sum (fun p => scratchTaken p.scratchLen) + scratchTaken n.scratch ≤ 524288)
    && decide (sum (·.ntiles) + n.tiles ≤ 16) && decide (sum (·.naccs) + n.accs ≤ 4)
    && (!n.seq || decide ((ps.filter (fun p => p.seq.present)).length < 4))

/-- Whether a context needs a bank that the core does not have for it (R219, R386). -/
def State.lacksBank (s : State) (c x : Nat) : Bool :=
  (s.desc (dieOf c) x).flags.getLsbD 0
    && ((s.cores.get c).bankOf x == none || (s.dies.get (dieOf c)).bankReq.any (fun r => r.1 == c && r.2 == x))

/-- The cores of a die, ascending. -/
def coresOf (d : Nat) : List Nat := (List.range 160).map (160 * d + ·)

/-! ### Eligibility and choice -/

/-- Whether a launch's predecessor allows a plot to be placed (R245). -/
def State.predOk (s : State) (l : Launch) : Bool :=
  let q := s.launches.get (launchKey l.ctx l.pred)
  l.pred == 0 || !q.live || (!l.afterFull && q.stage == .placed)

/-- Whether a core holds an unretired plot of a launch's predecessor (R245). -/
def State.holdsPred (s : State) (c : Nat) (l : Launch) : Bool :=
  l.pred != 0 && (s.plotsOn c).any (fun p => p.ctx == l.ctx && (s.launches.get p.launch).id == l.pred)

/-- The eligible launches of a home die in the order they are served (R240, R241). -/
def State.served (s : State) (home : Nat) : List Nat :=
  let ks := (s.launches.filter (fun e => e.2.stage == .waiting && e.2.pav.isNone && e.2.home == home && s.predOk e.2)).map (·.1)
  ks.mergeSort (fun a b =>
    let p := s.launches.get a
    let q := s.launches.get b
    decide (q.cls < p.cls) || (p.cls == q.cls && (decide (p.arrival < q.arrival) || (p.arrival == q.arrival && decide (a ≤ b)))))

/-- The physical die that the next plot of a launch targets (R242). -/
def State.targetOf (s : State) (l : Launch) : Option Nat :=
  (s.boundDie (s.desc l.home l.ctx).vd (l.targetDie l.nextPlot)).map (·.1)

/-- The physical dies of a launch's mask. -/
def State.maskOf (s : State) (l : Launch) : List Nat :=
  l.maskDies.filterMap (fun v => (s.boundDie (s.desc l.home l.ctx).vd v).map (·.1))

/-- What the next plot of a launch needs. -/
def Launch.need (l : Launch) : Need :=
  ⟨l.ctx, (l.plotThreads l.nextPlot + 31) / 32, l.scratch, l.tiles, l.accs, l.cadence != 0⟩

/-- The cores of die `d` with room for the next plot of a launch but for a bank. -/
def State.coresFor (s : State) (l : Launch) (d : Nat) : List Nat :=
  (coresOf d).filter (fun c => s.roomBut c l.need && !(!l.afterFull && s.holdsPred c l))

/-- The core on which the next plot of a launch goes: the lowest of its target die with room (R242). -/
def State.coreFor (s : State) (l : Launch) : Option Nat :=
  match s.targetOf l with
  | none => none
  | some d => (s.coresFor l d).find? (fun c => !s.lacksBank c l.ctx)

/-- The launch of a home die that is served next, with its core: a blocked launch keeps those behind it off the dies of its mask
(R240). -/
def State.pick (s : State) : List Nat → List Nat → Option (Nat × Nat)
  | _, [] => none
  | shut, k :: ks =>
    let l := s.launches.get k
    match s.targetOf l, s.coreFor l with
    | some d, some c => if shut.contains d then State.pick s (shut ++ s.maskOf l) ks else some (k, c)
    | _, _ => State.pick s (shut ++ s.maskOf l) ks

/-- The best of several choices: highest class, then earliest arrival (R242). -/
def State.bestPick (s : State) : List (Nat × Nat) → Option (Nat × Nat)
  | [] => none
  | a :: r =>
    match State.bestPick s r with
    | none => some a
    | some b =>
      let p := s.launches.get a.1
      let q := s.launches.get b.1
      if p.cls < q.cls ∨ (p.cls = q.cls ∧ q.arrival < p.arrival) then some b else some a

/-! ### Placement -/

/-- Create the launched threads of plot `p`, thread `i` on (R214, R215). -/
def State.makeThreads (s : State) (p : Nat) (l : Launch) : Nat → Nat → State
  | _, 0 => s
  | i, n + 1 =>
    let q := s.plots.get p
    let tid := q.num * l.perPlot + i
    let s1 := s.newThread p (BitVec.ofNat 32 tid) 0 (32 * q.blocks.getD (i / 32) 0 + i % 32) i (BitVec.ofNat 64 l.entry) (groupsOf l.groups tid) 0
    State.makeThreads s1 p l (i + 1) n

/-- The arrival count of a numbered barrier at placement (R235). -/
def Launch.nbCount (l : Launch) (n i : Nat) : Nat :=
  if l.nbar i = 0xFFFF then n + b2n (l.cadence != 0) else l.nbar i

/-- Place plot `num` of launch `k` on core `c` (R214, R215, R219, R235). -/
def State.place (s : State) (k num c : Nat) : State :=
  let l := s.launches.get k
  let n := l.plotThreads num
  let argp : DWord := BitVec.ofNat 64 l.argp
  let seq : Seq := if l.cadence = 0 then default else
    { (default : Seq) with
      present := true, running := true, pc := BitVec.ofNat 64 l.cadence,
      k := FMap.setMany [] 0 [argp.lo, argp.hi, BitVec.ofNat 32 num] }
  let q : Plot := { (default : Plot) with
    live := true, resident := true, ctx := l.ctx, launch := k, num := num, vdie := l.targetDie num, core := c, threads0 := n,
    blocks := (s.freeBlocks c).take ((n + 31) / 32), ntiles := l.tiles, naccs := l.accs, areas := l.areas, argp := argp,
    scratchLen := l.scratch, seq := seq,
    nbCount := (List.range 16).foldl (fun m i => m.set i (l.nbCount n i)) [] }
  let p := s.nextPlot
  let alone := (s.plotsOn c).all (fun r => r.ctx != l.ctx)
  let s0 := if alone then s.modCore c (fun k => { k with failed := k.failed.filter (fun e => e.1 != l.ctx) }) else s
  let s1 := { s0 with nextPlot := p + 1, plots := s0.plots.set p q }
  let s2 := (s1.holdDesc (dieOf c) l.ctx).makeThreads p l 0 n
  s2.modLaunch k (fun l => { l with nextPlot := num + 1, stage := if num + 1 = l.plotCount then .placed else l.stage })

/-- The first launch of the lists that only wants a bank on a core of die `d`, with that core, where no request of its context stands
(R386). -/
def State.bankWanted (s : State) (d : Nat) : List Nat → Option (Nat × Nat)
  | [] => none
  | k :: ks =>
    let l := s.launches.get k
    match s.targetOf l, s.coreFor l with
    | some t, none =>
      if t = d ∧ !((s.dies.get d).bankReq.any (fun r => r.2 == l.ctx)) then
        match s.coresFor l d with
        | c :: _ => some (l.ctx, c)
        | [] => State.bankWanted s d ks
      else State.bankWanted s d ks
    | _, _ => State.bankWanted s d ks

/-- Meaning of PLOT_PLACE (R240, R242, R386): on physical die `d`, the plot that is served next there, or the bank request of one
that waits for a bank. -/
def execPlotPlace (d : Nat) (s : State) : Host.Outcome State Fault Refusal :=
  let orders := (List.range 8).map s.served
  let picks := (orders.filterMap (fun ks => s.pick [] ks)).filter (fun e => dieOf e.2 == d)
  .next (match s.bestPick picks with
    | some (k, c) => s.place k (s.launches.get k).nextPlot c
    | none =>
      match s.bankWanted d orders.flatten with
      | some (x, c) => (s.modDie d (fun q => { q with bankReq := q.bankReq ++ [(c, x)] })).post d ⟨.bank, [], [x, c]⟩
      | none => s)

/-! ### Retirement -/

/-- Whether every access of a thread has been performed and its completion times have passed (R220). -/
def State.threadQuiet (s : State) (u : Nat) : Bool :=
  let t := s.thr u
  t.loads.isEmpty && t.stores.isEmpty && s.remReqs.all (fun r => r.thread != u)
    && decide (max (max t.tCore t.tDie) (max t.tPkg t.tSys) < s.time)

/-- Whether every access that a plot's threads and sequencer made has been performed (R220, R276). -/
def State.plotQuiet (s : State) (p : Nat) : Bool :=
  let q := s.plots.get p
  let c := s.cores.get q.core
  s.threads.all (fun e => e.2.plot != p || s.threadQuiet e.1)
    && q.seq.stores.isEmpty && q.gss.isEmpty && c.copies.all (fun k => k.plot != p) && c.streams.all (fun e => !(e.2.active && e.2.plot == p))
    && q.savedCopies.isEmpty && q.savedStreams.isEmpty
    && decide (max q.seq.tDone (max q.gsDone q.cpyDone) < s.time)

/-- Whether a plot's threads have exited, with none pending or held in a bin, and its sequencer has ended (R84, R220). -/
def State.plotEnded (s : State) (p : Nat) : Bool :=
  let q := s.plots.get p
  (s.plotThreads p).isEmpty && q.bins.isEmpty && q.rbins.isEmpty && (!q.seq.present || q.seq.ended)

/-- Keep what a core holds of context `x` with the plots of the context that were switched out of it (R161, R163, R252, R313): its codebook,
the table banks where they are its own, and its captured images. -/
def State.saveCtxOn (s : State) (c x : Nat) : State :=
  let k := s.cores.get c
  { s with plots := s.plots.map (fun e =>
      if e.2.live && !e.2.resident && e.2.ctx == x && e.2.core == c then
        (e.1, { e.2 with
          savedBook := k.codebooks.get x
          savedTbl := if k.tblOwner = some x then some (k.tblAct, k.tblShd) else e.2.savedTbl
          savedCfgs := (s.grids.get c).cfgs.filter (fun g => g.captured && g.ctx == x) })
      else e) }

/-- Forget a plot and its threads. -/
def State.forgetPlot (s : State) (p : Nat) : State :=
  { s with plots := s.plots.set p default, threads := s.threads.filter (fun e => e.2.plot != p) }

/-- Meaning of PLOT_RETIRE (R220, R244, R398). -/
def execPlotRetire (p : Nat) (s : State) : Host.Outcome State Fault Refusal :=
  let q := s.plots.get p
  .next (if q.live && q.resident && s.plotEnded p && s.plotQuiet p then
      let s1 := ((s.saveCtxOn q.core q.ctx).forgetPlot p).modLaunch q.launch (fun l => { l with retired := l.retired + 1 })
      let l := s1.launches.get q.launch
      let s2 := match l.pav with
        | some v => s1.modPav v (fun p => { p with busy := false })
        | none => s1
      if l.stage == .placed && l.retired == l.plotCount then s2.endLaunch q.launch .completed else s2
    else s)

end Sys2Proof.Machine
end

