-- ==== Sys2Proof/Machine/Switch.lean ====
section
/-! DEFINITION. Context switches, restoring a plot, killing a context, and cancelled copies (03_memory_system_instructions.md R124,
06_threads.md R251 to R255). -/

namespace Sys2Proof.Machine

/-! ### Switching a plot out -/

/-- Thread `u` at an instruction boundary that is not inside a latch chain (R39, R251): a chain that is open, or that the thread waits
in, is undone to its start. A wait that an instruction cannot keep is given up, and the instruction runs again; a `bar.sync` that has
arrived does not arrive again (R119), and a `tbl.ld` is in flight no longer (R164). -/
def State.stopAtBoundary (s : State) (u : Nat) : State :=
  let t := s.thr u
  let back : Option Snap := match t.pend with
    | some q => some q
    | none => if s.chainNext u then s.chainStart u else none
  let t1 := match back with
    | some q => t.restore q
    | none => t
  let keep := match t.wait with
    | .bin | .stopped | .halt | .wfi _ => true
    | w => w.retries
  s.setThr u { t1.breakLatches with
    wait := if back.isNone && keep then t.wait else .none, pend := none, bulk := none, mrun := none, tblLd := false,
    loads := t1.loads.filter (fun l => !l.dst.isBulk) }

/-- Begin the switch of plot `p` (R251 steps 1 to 3): its context is barred from the core, its threads stop, those that wait for a
placement run on, and its captured loops are asked to drain. -/
def State.beginSwitch (s : State) (p : Nat) : State :=
  let q := s.plots.get p
  let us := (s.plotThreads p).filter (fun u => (s.thr u).wait != .grid)
  let s1 := (s.modCore q.core (fun c => { c with barred := q.ctx :: c.barred })).modPlot p (fun q => { q with switching := some s.time })
  let s2 := (us.foldl (fun s u => s.stopAtBoundary u) s1).askDrain (fun _ e => e.plot == p)
  { s2 with
    bodies := s2.bodies.map (fun b => { b with threads := b.threads.filter (fun u => !us.contains u) }) }

/-- Whether the sequencer of plot `p` has an `mma` in flight. -/
def State.mmaOf (s : State) (p : Nat) : Bool :=
  match (s.cores.get (s.plots.get p).core).mmaBusy with
  | some m => m.plot == p
  | none => false

/-- Whether the switch of plot `p` can complete (R251 steps 3 to 6): none of its threads is in the grid, its loads have returned and
its stores, gathers, scatters, copies and matrix instructions in flight are done. -/
def State.switchReady (s : State) (p : Nat) : Bool :=
  let q := s.plots.get p
  (s.plotThreads p).all (fun u => (s.thr u).wait != .grid && (s.thr u).loads.isEmpty)
    && s.threads.all (fun e => e.2.plot != p || e.2.stores.isEmpty)
    && q.seq.stores.isEmpty && q.gss.isEmpty && !s.mmaOf p
    && (s.cores.get q.core).copies.all (fun k => k.plot != p)
    && s.remReqs.all (fun r => r.late || r.cause.plot != p)

/-- The streams of plot `p` on its core, by handle. -/
def State.streamsOf (s : State) (p : Nat) : FMap Strm :=
  (s.cores.get (s.plots.get p).core).streams.filter (fun e => e.2.active && e.2.plot == p)

/-- A stream as it is saved (R251): the tile in flight is filled again from its first byte. -/
def Strm.saved (m : Strm) : Strm := { m with pos := 0, posAt := 0, err := false, refused := [] }

/-! ### Accesses that are given up -/

/-- The plot that an access in flight belongs to (R251, R255); none where it is no plot's. -/
def State.accPlot (s : State) (k : AccId) : Option Nat :=
  match k with
  | .held u _ _ | .lane u _ => some (s.thr u).plot
  | .tile p _ | .gs p _ _ | .seqRead p => some p
  | .copy c i _ => ((s.cores.get c).copies.find? (fun q => q.id == i)).map (·.plot)
  | .stream c h _ => if ((s.cores.get c).streams.get h).active then some ((s.cores.get c).streams.get h).plot else none
  | .host _ | .packet _ _ _ | .node _ _ _ _ => none

/-- The access that a request to another package is part of. -/
def RemReq.acc (r : RemReq) : AccId :=
  match r.kind with
  | .load seq off | .store seq off => .held r.thread seq off
  | .amo seq => .held r.thread seq 0
  | .fetch k _ _ | .put k _ | .addTo k _ => k

/-- Accesses are given up: they wait at no home, what another package answers to them is not wanted, and what it has answered is
forgotten. -/
def State.giveUp (s : State) (f : AccId → Bool) : State :=
  { s with
    remReqs := s.remReqs.map (fun r => if f r.acc then { r with late := true } else r)
    remGot := s.remGot.filter (fun r => !f r.key)
    lineQ := s.lineQ.foldl (fun m e => m.set e.1 (e.2.filter (fun a => !f a.1))) [] }

/-- Complete the switch of plot `p` (R251 steps 5 and 7, R252). A slot whose fill is under way is filled again after the restore. -/
def State.endSwitch (s : State) (p : Nat) : State :=
  let s := s.giveUp (fun k => s.accPlot k == some p)
  let q := s.plots.get p
  let streams := (s.streamsOf p).map (fun e => (e.1, e.2.saved))
  let last := (s.plotsOn q.core).all (fun r => r.ctx != q.ctx || r.num == q.num && r.launch == q.launch)
  let left (e : Nat) : Nat := e - s.clk q.core
  let s1 := (s.modPlot p (fun q => { q with
    resident := false
    switching := none
    savedStreams := streams ++ q.savedStreams
    savedTimers := q.bins.map (fun b => left b.ends) ++ q.rbins.map (fun b => left b.ends)
    savedTbl := none })).saveCtxOn q.core q.ctx
  let s2 := if last then s1.modGrid q.core (fun g => { g with cfgs := g.cfgs.filter (fun k => !(k.captured && k.ctx == q.ctx)) }) else s1
  s2.modCore q.core (fun c => { c with
    barred := c.barred.erase q.ctx
    streams := c.streams.filter (fun e => !(e.2.active && e.2.plot == p)) })

/-- Meaning of CONTEXT_SWITCH (R251): the first event begins the switch of a resident plot, and a later one completes it. -/
def execContextSwitch (p : Nat) (s : State) : Host.Outcome State Fault Refusal :=
  let q := s.plots.get p
  .next (if q.live && q.resident && !isService q.core then
      match q.switching with
      | none => s.beginSwitch p
      | some _ => if s.switchReady p then s.endSwitch p else s
    else s)

/-- A copy as it is saved (R124): RESTART set, nothing performed. -/
def Copy.saved (k : Copy) : Copy := { k with desc := { k.desc with restart := true }, done := [], sent := [], counted := [], ncount := 0, refused := [] }

/-- Return a barrier object to its count before a copy took `n` from it (R124). -/
def State.countBack (s : State) (p off n : Nat) : State :=
  let v := leNat (Memory.read (s.plots.get p).scratch off 8)
  s.scrWrite p off (leBytes 8 ((v % 2 ^ 48 + n) % 2 ^ 48 + 2 ^ 48 * (v / 2 ^ 48)))

/-- Meaning of COPY_CANCEL (R124): the copies of plots whose switch began 200 µs ago are cancelled and saved. -/
def execCopyCancel (c : Nat) (s : State) : Host.Outcome State Fault Refusal :=
  let late (k : Copy) : Bool := match (s.plots.get k.plot).switching with
    | some t => decide (t + 200000 ≤ s.time)
    | none => false
  let gone := (s.cores.get c).copies.filter late
  let s := s.giveUp (fun a => match a with
    | .copy d i _ => d == c && gone.any (fun k => k.id == i)
    | _ => false)
  .next ((gone.foldl (fun s k => (s.countBack k.plot k.desc.bobj k.ncount).modPlot k.plot
      (fun q => { q with savedCopies := q.savedCopies ++ [k.saved] })) s).modCore c
    (fun q => { q with copies := q.copies.filter (fun k => !late k) }))

/-! ### Restoring -/

/-- What a saved plot needs of a core (R219, R254). -/
def Plot.need (q : Plot) : Need := ⟨q.ctx, q.blocks.length, q.scratchLen, q.ntiles, q.naccs, q.seq.present⟩

/-- Whether a core has room for the saved plot `q` (R219, R254). -/
def State.restoreRoom (s : State) (q : Plot) (c : Nat) : Bool := s.roomBut c q.need && !s.lacksBank c q.ctx

/-- The core that a saved plot is restored on: the lowest with room of the physical die bound to its virtual die (R254). -/
def State.restoreCore (s : State) (q : Plot) : Option Nat :=
  match s.boundDie (s.desc (s.launches.get q.launch).home q.ctx).vd q.vdie with
  | none => none
  | some (d, _) => (coresOf d).find? (s.restoreRoom q)

/-- A thread of a restored plot (R252 to R254): its slot moves with its block, a wait that an event would have ended begins anew, and a
thread held in a bin has no slot. -/
def Thread.restored (t : Thread) (old new : List Nat) (now posted : Nat) : Thread :=
  { t.breakLatches with
    slot := if t.wait = .bin ∨ t.slot = noSlot then noSlot else 32 * new.getD (old.idxOf (t.slot / 32)) 0 + t.slot % 32
    wait := match t.wait with
      | .wfi _ => .wfi posted
      | .sleep _ => .none
      | w => w
    since := now
    age := now }

/-- Start the saved copies of the plots of core `c` that find a scoreboard entry free, and the saved streams whose handle is free
(R124, R251; DESIGN CHOICE, notes/assumptions/99.md). -/
def State.restartSaved (s : State) (c : Nat) : State :=
  ((s.plots.filter (fun e => e.2.live && e.2.resident && e.2.core == c)).map (·.1)).foldl (fun s p =>
    let q := s.plots.get p
    let k := s.cores.get c
    let n := 16 - k.copies.length
    let go := q.savedStreams.filter (fun e => !(k.streams.get e.1).active)
    let s1 := s.modCore c (fun k => { k with
      copies := k.copies ++ ((q.savedCopies.take n).zipIdx).map (fun e => { e.1 with id := k.copySeq + e.2 })
      copySeq := k.copySeq + (q.savedCopies.take n).length
      streams := go.foldl (fun m e => m.set e.1 e.2) k.streams })
    s1.modPlot p (fun q => { q with
      savedCopies := q.savedCopies.drop n
      savedStreams := q.savedStreams.filter (fun e => !go.any (fun g => g.1 == e.1)) })) s

/-- Restore plot `p` on core `c` (R252 to R254). -/
def State.restorePlot (s : State) (p c : Nat) : State :=
  let q := s.plots.get p
  let new := (s.freeBlocks c).take q.blocks.length
  let alone := (s.plotsOn c).all (fun r => r.ctx != q.ctx)
  let s1 := s.modCore c (fun k =>
    if alone then
      let k1 := { k with failed := k.failed.filter (fun e => e.1 != q.ctx), codebooks := k.codebooks.set q.ctx q.savedBook }
      match q.savedTbl with
      | some (a, b) => { k1 with tblAct := a, tblShd := b, tblOwner := some q.ctx }
      | none => k1
    else k)
  let nb := q.bins.length
  let s2 := s1.modGrid c (fun g => g.restoreCfgs (s1.cores.get c) q.savedCfgs)
  let s3 : State := { s2 with
    threads := s1.threads.map (fun e => if e.2.plot = p then (e.1, e.2.restored q.blocks new s.time (s.dies.get (dieOf c)).posted) else e)
    plots := s1.plots.set p { q with
      resident := true
      core := c
      blocks := new
      bins := (q.bins.zipIdx).map (fun e => { e.1 with ends := s.clk c + q.savedTimers.getD e.2 0 })
      rbins := (q.rbins.zipIdx).map (fun e => { e.1 with ends := s.clk c + q.savedTimers.getD (nb + e.2) 0 })
      seq := { q.seq with since := s.time, wait := match q.seq.wait with
        | .nbar => .nbar
        | _ => .none }
      savedTimers := []
      savedBook := []
      savedTbl := none
      savedCfgs := [] } }
  s3.restartSaved c

/-- Meaning of PLOT_RESTORE (R249, R254). -/
def execPlotRestore (p : Nat) (s : State) : Host.Outcome State Fault Refusal :=
  let q := s.plots.get p
  .next (if q.live && !q.resident then
      match s.restoreCore q with
      | some c => (s.holdDesc (dieOf c) q.ctx).restorePlot p c
      | none => s
    else s)

/-! ### Killing -/

/-- The bytes that an access in flight would leave at its home: of a store its data, of an atomic its result. -/
def State.heldBytes (s : State) (plot : Nat) (h : Held) : List Byte :=
  match h.op with
  | .store bs => bs
  | .amo op x y _ _ => leBytes h.len (atomNew op h.len (BitVec.ofNat 64 (leNat (s.homeBytes plot h.loc h.len))) x y).toNat

/-- Leave each 4-byte word of an access in flight, whose new bytes at `l` are `bs`, at its old or its new value, as free values say
(R255). -/
def State.killBytes (s : State) (plot : Nat) (l : Loc) (bs : List Byte) : State :=
  let word (k : Nat) : Nat := (l.place.2.2 + k) / 4 - l.place.2.2 / 4
  let s1 := (bs.zipIdx).foldl (fun s b =>
    if (Config.freeWord (s.free + word b.2)).getLsbD 0 then s.homeWrite plot (l.add b.2) [b.1] else s) s
  { s1 with free := s1.free + word bs.length + 1 }

/-- The same for an access of an engine, whose parts take the bytes `bs`. -/
def State.killParts (s : State) (plot : Nat) (ps : List Part) (bs : List Byte) : State :=
  ps.foldl (fun s p => s.killBytes plot p.loc ((bs.drop p.off).take p.len)) s

/-- The homes of an engine's access, and none where its checks fail. -/
def State.partsOr (s : State) (w : Who) (a : Acc) (va : DWord) (n : Nat) : List Part :=
  match s.check w a va n with
  | .ok ps => ps
  | _ => []

/-- A copy in flight is cancelled by a kill (R255). -/
def State.killCopy (s : State) (k : Copy) : State :=
  let w := s.whoPlot k.plot
  (k.desc.pieces.filter (fun i => k.done.get i == 0 && !k.sent.get i)).foldl (fun s i =>
    let e := k.desc.piece i
    let bs := s.readParts k.plot (s.partsOr w .read (BitVec.ofNat 64 e.2.1) e.2.2)
    if bs.length = e.2.2 then s.killParts k.plot (s.partsOr w .write (BitVec.ofNat 64 e.1) e.2.2) bs else s) s

/-- A gather or scatter in flight is cancelled by a kill (R255). -/
def State.killGs (s : State) (p : Nat) (g : Gs) : State :=
  let w := s.whoPlot p
  ((List.range g.count).filter (fun i => g.done.get i == 0 && !g.sent.get i)).foldl (fun s i =>
    let ix := leNat (s.readParts p (s.partsOr w .read (g.index + BitVec.ofNat 64 (4 * i)) 4))
    let table := s.partsOr w g.tableAcc (g.table + BitVec.ofNat 64 (ix * g.esz)) g.esz
    let dense := s.partsOr w g.denseAcc (g.dense + BitVec.ofNat 64 (g.esz * i)) g.esz
    if table.isEmpty || dense.isEmpty then s
    else if g.scatter then s.killParts p table (g.newBytes (s.readParts p table) (s.readParts p dense))
    else s.killParts p dense (s.readParts p table)) s

/-- Remove plot `p` without a save (R255). -/
def State.killPlot (s : State) (p : Nat) : State :=
  let q := s.plots.get p
  let held := (s.threads.filter (fun e => e.2.plot == p)).flatMap (fun e => e.2.stores) ++ q.seq.stores
  let s0 := held.foldl (fun s h => s.killBytes p h.loc (s.heldBytes p h)) (s.giveUp (fun k => s.accPlot k == some p))
  let s1 := q.gss.foldl (fun s g => s.killGs p g) (((s.cores.get q.core).copies.filter (fun k => k.plot == p)).foldl (fun s k => s.killCopy k) s0)
  let s2 := s1.modCore q.core (fun c => { c with
    copies := c.copies.filter (fun k => k.plot != p)
    streams := c.streams.filter (fun e => !(e.2.active && e.2.plot == p))
    updates := c.updates.filter (fun u => (s.thr u.1).plot != p)
    barred := if q.switching.isSome then c.barred.erase q.ctx else c.barred
    mmaBusy := if s.mmaOf p then none else c.mmaBusy })
  ((s2.saveCtxOn q.core q.ctx).forgetPlot p).restartSaved q.core

/-- Take a launch out of its die's queues. -/
def State.unqueue (s : State) (k : Nat) : State :=
  s.modDie (s.launches.get k).home (fun d => { d with ingress := d.ingress.filter (· != k), internal := d.internal.filter (· != k) })

/-- End a launch as killed, out of every queue; its successors are dropped (R244, R246, R255). -/
def State.killLaunch (s : State) (k : Nat) : State :=
  let l := s.launches.get k
  let js := (s.successors k).filter (fun j => (s.launches.get j).nextPlot == 0)
  let s1 := (s.unqueue k).endLaunch k .killed
  let s2 := match l.pav with
    | some v => s1.modPav v (fun p => { p with busy := false })
    | none => s1
  js.foldl (fun s j => s.drop j 6 0) s2

/-- Whether a pending launch is the successor of a live one, so that a kill of its context drops it (R246, R255). -/
def State.follows (s : State) (k : Nat) : Bool :=
  let l := s.launches.get k
  l.nextPlot == 0 && l.pred != 0 && (s.launches.get (launchKey l.ctx l.pred)).live

/-- End the live launches of a list as a kill of their context does (R246, R255): as killed, the successors of live ones as dropped. -/
def State.killLaunches (s : State) (ks : List Nat) : State :=
  let s1 := (ks.filter (fun k => !s.follows k)).foldl (fun s k => if (s.launches.get k).live then s.killLaunch k else s) s
  (ks.filter s.follows).foldl (fun s k => if (s.launches.get k).live then (s.unqueue k).drop k 6 0 else s) s1

/-- Kill context `x` (R255). -/
def State.killCtx (s : State) (x : Nat) : State :=
  let ps := (s.plots.filter (fun e => e.2.live && e.2.ctx == x)).map (·.1)
  let ls := (s.launches.filter (fun e => e.2.live && e.2.ctx == x)).map (·.1)
  let s1 := (ps.foldl (fun s p => s.killPlot p) s).dropCtxGrids x
  let s2 := s1.killLaunches ls
  { s2 with dies := s2.dies.map (fun e => (e.1, { e.2 with pages := e.2.pages.filter (fun q => q.ctx != x) })) }

/-- Meaning of CONTEXT_KILL (R255). -/
def execContextKill (x : Nat) (s : State) : Host.Outcome State Fault Refusal := .next (s.killCtx x)

end Sys2Proof.Machine
end

