-- ==== Sys2Proof/Machine/Energy.lean ====
section
/-! DEFINITION. Energy: the registers of the Commons status page, the windows, and the dies' operating points (11_package.md R413 to
R418). -/

namespace Sys2Proof.Machine

/-! ### The registers -/

/-- A write to PWIN (R413). -/
def State.pwinWrite (s : State) (v : DWord) : State := { s with energy := { s.energy with pwin := v.toNat % 2 ^ 32 } }

/-- A write to PRSV (R413). -/
def State.prsvWrite (s : State) (v : DWord) : State := { s with energy := { s.energy with prsv := v.toNat } }

/-- A write to PANCR (R413, R415): a signed credit. A credit that makes a balance positive takes its effect at the next window. -/
def State.pancrWrite (s : State) (v : DWord) : State :=
  let x := v.toNat % 4096
  (s.modCtx x (fun c => { c with pannier := c.pannier + sgn 52 (v.toNat / 4096) })).panAct x

/-- A write to PCAP (R413). -/
def State.pcapWrite (s : State) (v : DWord) : State := { s with energy := { s.energy with capGap := 7 - v.toNat % 8 } }

/-- A write to PLIMID (R413). -/
def State.plimidWrite (s : State) (v : DWord) : State := { s with energy := { s.energy with plimid := v } }

/-- The launch that PLIMID names (R413). -/
def State.plimLaunch (s : State) : Nat := launchKey (s.energy.plimid.toNat % 4096) (s.energy.plimid.toNat / 2 ^ 32)

/-- A write to PLIMSET (R413, R415): the limit stands in the launch's record. -/
def State.plimsetWrite (s : State) (v : DWord) : State :=
  (s.modLaunch s.plimLaunch (fun l => if l.live then
    { l with record := l.record.take 56 ++ leBytes 8 v.toNat ++ l.record.drop 64 } else l)).launchAct s.plimLaunch

/-- Meaning of PWIN_WRITE (R413). -/
def execPwinWrite (v : DWord) (s : State) : Host.Outcome State Fault Refusal := .next (s.pwinWrite v)

/-- Meaning of PRSV_WRITE (R413). -/
def execPrsvWrite (v : DWord) (s : State) : Host.Outcome State Fault Refusal := .next (s.prsvWrite v)

/-- Meaning of PANCR_WRITE (R413). -/
def execPancrWrite (v : DWord) (s : State) : Host.Outcome State Fault Refusal := .next (s.pancrWrite v)

/-- Meaning of PCAP_WRITE (R413). -/
def execPcapWrite (v : DWord) (s : State) : Host.Outcome State Fault Refusal := .next (s.pcapWrite v)

/-- Meaning of PLIMSET_WRITE (R415). -/
def execPlimsetWrite (v : DWord) (s : State) : Host.Outcome State Fault Refusal := .next (s.plimsetWrite v)

/-! ### Windows -/

/-- A context after a debit of `e` µJ (R414, R415): what would take the balance below 0 comes from RSV first. -/
def Ctx.debit (c : Ctx) (e : Nat) : Ctx :=
  let short : Nat := ((e : Int) - max 0 c.pannier).toNat
  let r := min c.panRsv.toNat short
  { c with pannier := c.pannier - ((e : Int) - (r : Int)), panRsv := c.panRsv - BitVec.ofNat 64 r }

/-- The package's energy in a window (R413). -/
def windowEnergy (m : Measure) : Nat := (m.dies.map (·.2)).sum + m.mems + m.commons + m.rest

/-- The launches that a window names, each once, and their contexts, each once. -/
def windowLaunches (m : Measure) : List Nat := (m.busy.map (·.2.1) ++ m.moved.map (·.1)).eraseDups
def windowCtxs (m : Measure) : List Nat := ((windowLaunches m).map (· / 2 ^ 32)).eraseDups

/-- The part of `e` that falls to a share of `n` in `all`, rounded down (DESIGN CHOICE, notes/assumptions/64.md); none where `all` is 0. -/
def shareOf (e n all : Nat) : Nat := e * n / all

/-- The debit in µJ of the launches that `f` picks (R414): of each compute die's energy by their busy core cycles, of the Commons', the memory
dies' and the Pavilions' by the lines and flits they moved. -/
def windowDebit (m : Measure) (f : Nat → Bool) : Nat :=
  (m.dies.map (fun e =>
    let on := m.busy.filter (fun b => b.1 == e.1)
    shareOf e.2 (((on.filter (fun b => f b.2.1)).map (·.2.2)).sum) ((on.map (·.2.2)).sum))).sum
  + shareOf (m.mems + m.commons) (((m.moved.filter (fun q => f q.1)).map (·.2)).sum) ((m.moved.map (·.2)).sum)

/-- The debits of a window (R414). -/
def State.debits (s : State) (m : Measure) : State :=
  let s1 := (windowCtxs m).foldl (fun s x => s.modCtx x (fun c => c.debit (windowDebit m (fun k => k / 2 ^ 32 == x)))) s
  (windowLaunches m).foldl (fun s k =>
    if (s.launches.get k).live then s.modLaunch k (fun l => { l with debit := l.debit + windowDebit m (· == k) }) else s) s1

/-- Whether a launch's limit lets it go on (R415): it is 0 or above the running debit. -/
def Launch.withinLimit (l : Launch) : Bool := l.field 56 8 == 0 || decide (l.debit < l.field 56 8)

/-- Resume the launches whose new limit is above their debit (R415). -/
def State.resumeLaunches (s : State) : State :=
  s.launches.keys.foldl (fun s k =>
    let l := s.launches.get k
    if l.paused && l.withinLimit then
      let s1 := s.modLaunch k (fun l => { l with paused := false })
      ((s1.plots.filter (fun e => e.2.live && e.2.launch == k)).map (·.1)).foldl (fun s p => s.restartCounts p) s1
    else s) s

/-- Contexts whose balance has become positive go on (R415). -/
def State.resumeCtxs (s : State) : State :=
  s.ctxs.keys.foldl (fun s x =>
    let s1 := s.panClear x
    if (s.ctxs.get x).paused && !(s1.ctxs.get x).paused then
      ((s1.plots.filter (fun e => e.2.live && e.2.ctx == x)).map (·.1)).foldl (fun s p => s.restartCounts p) s1
    else s1) s

/-- Busy core cycles of the last window that matrix-bound (`mem` false) or memory-bound launches had (R235, R416). -/
def State.busyOf (s : State) (m : Measure) (mem : Bool) : Nat :=
  ((m.busy.filter (fun e => bit (s.launches.get e.2.1).flags 2 == mem)).map (·.2.2)).sum

/-- The compute dies' share in µJ of the window that starts (R416): of what remains after the measured draw of the rest of the package, the
mean of 82 and 60 parts in 100 weighted by the busy core cycles; with none, 82 in 100 (DESIGN CHOICE, notes/assumptions/64.md). -/
def State.computeShare (s : State) (m : Measure) : Nat :=
  let left := s.energy.pwin - (m.commons + m.rest)
  let x := s.busyOf m false
  let y := s.busyOf m true
  if x + y = 0 then left * 82 / 100 else left * (82 * x + 60 * y) / (100 * (x + y))

/-- The point that the energy allows die `d` (R416): the highest whose predicted energy fits its part of the share, or the lowest. -/
def State.allowedPoint (s : State) (m : Measure) (d : Nat) : Nat :=
  let n := s.energy.windows
  (((List.range 8).reverse).find? (fun i => decide (Config.predicted n d i ≤ Config.diePart n d (s.computeShare m)))).getD 0

/-- The operating point of die `d` in the window that starts (R417): the lowest of the point that the energy allows, the throttle and
the cap. -/
def State.nextPoint (s : State) (m : Measure) (d : Nat) : Nat :=
  let q := s.dies.get d
  min (s.allowedPoint m d) (min (7 - s.energy.capGap) (7 - q.throttle))

/-- Begin the changes of operating point (R418). -/
def State.choosePoints (s : State) (m : Measure) : State :=
  (List.range 8).foldl (fun s d =>
    let p := s.nextPoint m d
    if p = (s.dies.get d).op then s else s.modDie d (fun q => { q with opNext := some p })) s

/-- Meaning of ENERGY_WINDOW (R413 to R417): the debits, what follows from them, and the dies' operating points. -/
def execEnergyWindow (m : Measure) (s : State) : Host.Outcome State Fault Refusal :=
  let beyond := windowEnergy m - s.energy.pwin
  let s1 := { s with energy := { s.energy with windows := s.energy.windows + 1, used := windowEnergy m, prsv := s.energy.prsv - beyond } }
  let s2 := ((s1.debits m).resumeLaunches).resumeCtxs
  let s3 := s2.launches.keys.foldl (fun s k => if (s.launches.get k).live then s.launchAct k else s) s2
  let s4 := (s3.ctxs.keys.foldl (fun s x => s.panWindow x) s3).endThrottles
  .next (s4.choosePoints m)

/-- Meaning of OP_POINT_SETTLED (R418): the die's clocks start again at the new point. -/
def execOpPointSettled (d : Nat) (s : State) : Host.Outcome State Fault Refusal :=
  .next (match (s.dies.get d).opNext with
    | some p => s.modDie d (fun q => { q with opBelow := 5 - (p : Int), opNext := none })
    | none => s)

end Sys2Proof.Machine
end

