-- ==== Sys2Proof/Machine/DieEvents.lean ====
section
/-! DEFINITION. Waking, gating, fencing and resetting compute dies, resets of a core and of the package, errors and self-tests, the
weight store's loader, key slots, platform messages, and corrections of device time (07_memory.md R259, R263, R264, R290 and R291,
10_outliers_microseq.md R382, 11_package.md R412, R419 to R424). -/

namespace Sys2Proof.Machine

/-! ### Waking and gating -/

/-- A core as a reset leaves it (R382, R420): only what it was shipped as stays. -/
def Core.asReset (c : Core) (off : Bool) : Core := { (default : Core) with disabled := c.disabled, fenced := c.fenced, off := off }

/-- Forget everything that die `d` holds (R420, R422). -/
def State.loseDie (s : State) (d : Nat) : State :=
  { s with
    cores := (coresOf d).foldl (fun m c => m.set c ((m.get c).asReset true)) s.cores
    grids := s.grids.filter (fun e => e.1 / 160 != d || decide (serviceBase ≤ e.1))
    pels := s.pels.filter (fun e => e.2.core / 160 != d)
    bodies := s.bodies.filter (fun b => b.core / 160 != d)
    dies := s.dies.modify d (fun q => { (default : Die) with
      disabled := q.disabled, ingress := q.ingress, internal := q.internal, mail := q.mail, posted := q.posted,
      ctxBase := q.ctxBase, spares := q.spares }) }

/-- Whether the runtime may gate die `d` (R420): enabled and up, holding no plot, and bound by no context's table. -/
def State.mayGate (s : State) (d : Nat) : Bool :=
  let q := s.dies.get d
  decide (d < 8) && !q.disabled && q.stage == .up
    && s.plots.all (fun e => !(e.2.live && e.2.resident && !isService e.2.core && dieOf e.2.core == d))
    && s.ctxs.keys.all (fun x => (List.range 16).all (fun v => match s.boundDie (s.desc d x).vd v with
      | some (p, _) => p != d
      | none => true))

/-- Meaning of DIE_GATE (R420). -/
def execDieGate (d : Nat) (s : State) : Host.Outcome State Fault Refusal :=
  .next (if s.mayGate d then
      let s1 := (s.loseDie d).modDie d (fun q => { q with stage := .gated })
      { s1 with ports := s1.ports.filter (fun e => e.1 / 8 != d) }
    else s)

/-- Start the wake of die `d` (R419): its rails are up, and its first column starts, 200 µs later. -/
def State.startWake (s : State) (d : Nat) : State :=
  s.modDie d (fun q => { q with stage := .waking (s.time + 200000), cols := 0, mcycles := 0 })

/-- Meaning of DIE_WAKE (R419). -/
def execDieWake (d : Nat) (s : State) : Host.Outcome State Fault Refusal :=
  let q := s.dies.get d
  .next (if q.stage == .gated && !q.disabled then s.startWake d else s)

/-- The cores of column `n` of a die (DEDUCED, notes/assumptions/60.md). -/
def columnCores (d n : Nat) : List Nat := (List.range 8).map (fun i => 160 * d + 8 * n + i)

/-- Meaning of COLUMN_START (R419): columns start 2 µs apart, and with the twentieth the die is up. -/
def execColumnStart (d : Nat) (s : State) : Host.Outcome State Fault Refusal :=
  let q := s.dies.get d
  .next (match q.stage with
    | .waking next =>
      if next ≤ s.time then
        let s1 := { s with cores := (columnCores d q.cols).foldl (fun m c => m.modify c (fun k => { k with off := false })) s.cores }
        s1.modDie d (fun q => { q with cols := q.cols + 1, stage := if q.cols + 1 < 20 then .waking (next + 2000) else .up })
      else s
    | _ => s)

/-! ### Resetting a die -/

/-- The deadline in ns that a write to DRST gives (R421). -/
def drstDeadline (v : DWord) : Nat :=
  let n := bits v.toNat 16 16 * 10000
  if n = 0 then 500000 else max 50000 (min n 100000000)

/-- A write to DRST (R421). -/
def State.drstWrite (s : State) (d : Nat) (v : DWord) : State :=
  s.modDie d (fun q => { q with
    drst := v &&& 0xFFFF0001
    stage := if v.getLsbD 0 && q.stage == .up && !q.disabled then .draining (s.time + drstDeadline v) else q.stage })

/-- Meaning of DRST_WRITE (R421). -/
def execDrstWrite (d : Nat) (v : DWord) (s : State) : Host.Outcome State Fault Refusal := .next (s.drstWrite d v)

/-- Whether a die holds no plot and every access it issued has been performed (R421). -/
def State.dieQuiet (s : State) (d : Nat) : Bool :=
  s.plots.all (fun e => !(e.2.live && !isService e.2.core && dieOf e.2.core == d)
      || (!e.2.resident && e.2.seq.stores.isEmpty && s.threads.all (fun t => t.2.plot != e.1 || t.2.stores.isEmpty)))
    && s.grids.all (fun e => e.1 / 160 != d || e.2.cfgs.all (·.captured))

/-- Fence die `d` (R421). -/
def State.fenceDie (s : State) (d : Nat) : State := s.modDie d (fun q => { q with fenced := true, stage := .resetting })

/-- Meaning of DIE_FENCE (R421). -/
def execDieFence (d : Nat) (s : State) : Host.Outcome State Fault Refusal :=
  .next (match (s.dies.get d).stage with
    | .draining _ => if s.dieQuiet d then s.fenceDie d else s
    | _ => s)

/-- The contexts with a plot or a configuration on a core that `on` picks. -/
def State.ctxsAt (s : State) (on : Nat → Bool) : List Nat :=
  ((s.plots.filter (fun e => e.2.live && e.2.resident && on e.2.core)).map (fun e => e.2.ctx)
    ++ s.grids.flatMap (fun e => if on e.1 then (e.2.cfgs.filter (fun q => !q.captured)).map (·.ctx) else [])).dedup

/-- The contexts with a plot or a configuration on die `d`. -/
def State.ctxsOn (s : State) (d : Nat) : List Nat := s.ctxsAt (fun c => !isService c && dieOf c == d)

/-- Meaning of DIE_RESET_DEADLINE (R421): fencing is forced, and a context with a plot that was not saved is killed. -/
def execDieResetDeadline (d : Nat) (s : State) : Host.Outcome State Fault Refusal :=
  .next (match (s.dies.get d).stage with
    | .draining t => if t ≤ s.time then ((s.ctxsOn d).foldl (fun s x => s.killCtx x) s).fenceDie d else s
    | _ => s)

/-- Meaning of DIE_RESET_WAKE (R422). -/
def execDieResetWake (d : Nat) (s : State) : Host.Outcome State Fault Refusal :=
  .next (if (s.dies.get d).stage == .resetting then (s.loseDie d).startWake d else s)

/-! ### Resets of a core and of the package -/

/-- Meaning of CORE_RESET (R134, R382): the banks of the core are empty, unbound and without an owner, and its halted threads end. -/
def execCoreReset (c : Nat) (s : State) : Host.Outcome State Fault Refusal :=
  let s1 := (s.abandon c [0, 1, 2, 3]).modCore c (fun q => { q with banks := [], updates := [] })
  let s2 := s1.threads.keys.foldl (fun s u => if (s.thr u).live && (s.thr u).wait == .bankWait && s.coreOf (s.thr u) == c then s.wake u else s) s1
  .next (s2.threads.keys.foldl (fun s u => if (s.thr u).live && (s.thr u).wait == .halt && s.coreOf (s.thr u) == c then s.endThread u else s) s2)

/-- Meaning of PACKAGE_RESET (R290, R412): the package is as after reset; slot 0 draws a new key, and device time starts again. What it
was shipped as, the ciphertext in device memory, and the host's memory, stay. -/
def execPackageReset (s : State) : Host.Outcome State Fault Refusal :=
  .next { State.reset with
    mem := s.mem
    lineKey := s.lineKey
    keyGen := s.keyGen.modify 0 (· + 1)
    hostMem := s.hostMem
    bad := s.bad
    badHost := s.badHost
    hostDown := s.hostDown
    fabricTime := s.fabricTime
    routes := s.routes
    cores := (s.cores.filter (fun e => e.2.disabled)).map (fun e => (e.1, { (default : Core) with disabled := true }))
    dies := (s.dies.filter (fun e => e.2.disabled)).map (fun e => (e.1, { (default : Die) with disabled := true }))
    agenda := s.agenda
    free := s.free }

/-! ### Errors and self-tests -/

/-- The key of a unit among the errors of its die. -/
def unitKey (u : UnitId) : Nat := u.kind * 65536 + u.idx % 65536

/-- The key of a unit's spares on its die: the 16 of a core's scratchpad lines are the core's (R423; DEDUCED, notes/assumptions/61.md). -/
def spareKey (u : UnitId) : Nat := if u.kind = 2 then 2 * 65536 + u.idx % 160 else unitKey u

/-- Spares that a unit has (R423). -/
def unitSpares (u : UnitId) : Nat := if u.kind = 0 then 8 else if u.kind = 2 ∨ u.kind = 3 then 16 else 0

/-- The unit of memory that an error names holds an error that cannot be corrected (R97, R423; DEDUCED, notes/assumptions/62.md): a line of
device memory by address, a line of a scratchpad by plot number × 2^32 + offset, 512 bytes of a weight-store bank by store offset. -/
def State.markBad (s : State) (u : UnitId) (b : Bool) : State :=
  let a := u.addr.toNat
  if u.kind = 0 ∨ u.kind = 4 then (if inDevice a then { s with bad := s.bad.set (lineOf a) b } else s)
  else if u.kind = 2 then s.modPlot (a / 2 ^ 32) (fun p => { p with badScr := p.badScr.set (lineOf (a % 2 ^ 32)) b })
  else if u.kind = 3 then s.modDie u.die (fun d => { d with badWgt := d.badWgt.set (a / 512) b })
  else s

/-- Meaning of ERROR_DETECT (R97, R423): a test of the unit begins. Whether an error in a memory can be corrected is a free value. An error
of a unit outside the package, of a kind that R424 does not number, is one of host memory's data on its way. -/
def execErrorDetect (u : UnitId) (s : State) : Host.Outcome State Fault Refusal :=
  let lasting := (Config.freeWord s.free).getLsbD 0
  let s0 := { s with free := s.free + 1 }
  .next (if 6 < u.kind then { s0 with badHost := s.badHost.set (lineOf u.addr.toNat) lasting }
    else
      let s1 := s0.modDie u.die (fun d => { d with errs := d.errs.modify (unitKey u) (· + 1), tests := d.tests ++ [(u.kind, u.idx, s.time)] })
      if lasting then s1.markBad u true else s1)

/-- What a test comes to (R423): 0 soft, 1 spared or repaired, 2 fenced. -/
def State.testResult (s : State) (u : UnitId) (outcome : Nat) : Nat :=
  if outcome = 0 then 0
  else if u.kind = 0 ∨ u.kind = 2 then (if (s.dies.get u.die).spares.get (spareKey u) < unitSpares u then 1 else 2)
  else if u.kind = 5 then 2
  else 1

/-- The 32-byte error record (R424). -/
def errorRecord (u : UnitId) (result count time : Nat) : List Byte :=
  leBytes 8 time ++ leBytes 1 u.kind ++ leBytes 1 result ++ leBytes 2 u.die ++ leBytes 4 u.idx ++ leBytes 8 u.addr.toNat
    ++ leBytes 4 count ++ leBytes 4 0

/-- The core of a unit of a core (DEDUCED, notes/assumptions/61.md). -/
def unitCore (u : UnitId) : Nat := 160 * u.die + u.idx % 160

/-- Whether the unit's failure fences a core (R423). -/
def unitInCore (u : UnitId) : Bool := u.kind == 1 || u.kind == 2 || u.kind == 5

/-- A unit of memory that held an error that cannot be corrected has been put right: what it held is lost (DEDUCED,
notes/assumptions/62.md). -/
def State.renew (s : State) (u : UnitId) : State :=
  let a := u.addr.toNat
  let l := lineOf a
  let s1 := s.markBad u false
  if (u.kind = 0 ∨ u.kind = 4) ∧ s.bad.get l then { s1 with mem := Memory.write s.mem (128 * l) (freeBytes s.free 128), free := s.free + 128 }
  else if u.kind = 2 ∧ (s.plots.get (a / 2 ^ 32)).badScr.get (lineOf (a % 2 ^ 32)) then
    { s1.scrWrite (a / 2 ^ 32) (128 * lineOf (a % 2 ^ 32)) (freeBytes s.free 128) with free := s.free + 128 }
  else if u.kind = 3 ∧ (s.dies.get u.die).badWgt.get (a / 512) then
    { s1.modDie u.die (fun d => { d with weight := Memory.write d.weight (512 * (a / 512)) (freeBytes s.free 512) }) with free := s.free + 512 }
  else s1

/-- The effect of a test's result on the unit (R423, R424). -/
def State.testEffect (s : State) (u : UnitId) (r : Nat) : State :=
  if r = 0 then s
  else if r = 2 ∧ unitInCore u then
    ((s.ctxsAt (· == unitCore u)).foldl (fun s x => s.killCtx x) s).modCore (unitCore u) (fun c => { c with fenced := true })
  else if r = 2 then { s with slices := s.slices ||| (1#512 <<< (u.idx % 512)) }
  else if u.kind = 6 then s.modPav u.die (fun p => p.failsLock u.idx)
  else if u.kind = 4 then s.renew u
  else (s.renew u).modDie u.die (fun d => { d with spares := d.spares.modify (spareKey u) (· + 1) })

/-- Meaning of SELF_TEST_DONE (R423, R424). A core that still holds plots or configurations is fenced only when the deadline of R421 has passed. -/
def execSelfTestDone (u : UnitId) (outcome : Nat) (s : State) : Host.Outcome State Fault Refusal :=
  let d := s.dies.get u.die
  .next (match d.tests.find? (fun t => t.1 == u.kind && t.2.1 == u.idx) with
    | none => s
    | some t =>
      let r := s.testResult u outcome
      if r = 2 ∧ unitInCore u ∧ !(s.ctxsAt (· == unitCore u)).isEmpty ∧ s.time < t.2.2 + 500000 then s
      else
        let s1 := s.testEffect u r
        s1.modDie u.die (fun d => { d with
          tests := d.tests.filter (fun t => !(t.1 == u.kind && t.2.1 == u.idx))
          mail := d.mail ++ [⟨.other, errorRecord u r (d.errs.get (unitKey u)) s.time, [u.kind, r]⟩] }))

/-! ### The weight store and the key slots -/

/-- Meaning of WEIGHT_BANK_REFRESH (R264): where the bank is open, the threads that wait for a bank test it again. -/
def execWeightBankRefresh (d b : Nat) (s : State) : Host.Outcome State Fault Refusal :=
  .next (if (s.dies.get d).bankClosed b then s
    else (s.threads.keys.filter (fun u => (s.thr u).live && (s.thr u).wait == .bank)).foldl (fun s u => s.wake u) s)

/-- Meaning of WEIGHT_STORE_LOAD (R263). -/
def execWeightStoreLoad (d off : Nat) (data : List Byte) (s : State) : Host.Outcome State Fault Refusal :=
  let reaches (x : Nat) : Bool := (List.range 16).any (fun v => match s.boundDie (s.desc d x).vd v with
    | some (p, _) => p == d
    | none => false)
  .next (if decide (d < 8) && decide (off + data.length ≤ 2 ^ 31) && (s.ctxsOn d).all (fun x => !reaches x) then
      s.modDie d (fun q => { q with weight := Memory.write q.weight off data })
    else s)

/-- Meaning of KEY_SLOT_LOAD (R291, R292): what was written under the slot's earlier key reads as free bytes. -/
def execKeySlotLoad (n : Nat) (s : State) : Host.Outcome State Fault Refusal :=
  .next (if 0 < n ∧ n < 8192 then
      { s with keys := s.keys.set n true, keyGen := s.keyGen.modify n (· + 1) }
    else s)

/-- Meaning of KEY_SLOT_EMPTY (R291). -/
def execKeySlotEmpty (n : Nat) (s : State) : Host.Outcome State Fault Refusal :=
  .next (if 0 < n ∧ n < 8192 then { s with keys := s.keys.set n false } else s)

/-! ### Messages and device time -/

/-- Meaning of PLATFORM_MESSAGE (R134). -/
def execPlatformMessage (d : Nat) (s : State) : Host.Outcome State Fault Refusal := .next (s.post d ⟨.message, [], []⟩)

/-- The host link whose PTM time device time follows (R412): link 0, or link 1 when link 0 is down. -/
def State.ptmLink (s : State) : Nat := if s.hostDown.get 0 then 1 else 0

/-- Meaning of PTM_EXCHANGE (R412): the difference from the host's time is to be slewed away, where device time follows that link. -/
def execPtmExchange (ns : Nat) (s : State) (link : Nat := 0) : Host.Outcome State Fault Refusal :=
  .next (if s.fabricTime.isSome ∨ link ≠ s.ptmLink ∨ s.hostDown.get link then s else { s with skew := (ns : Int) - s.time })

/-- Meaning of FABRIC_TIME_WORD (R412): the difference is to be slewed away, where device time follows the link the word came by. -/
def execFabricTimeWord (ns : Nat) (s : State) (link : Nat := 0) : Host.Outcome State Fault Refusal :=
  .next (if s.fabricTime = some link then { s with skew := (ns : Int) - s.time } else s)

/-- Meaning of HOST_LINK_DOWN (R1, R412): while link 0 is down, device time follows link 1. -/
def execHostLinkDown (s : State) (link : Nat := 0) : Host.Outcome State Fault Refusal :=
  .next (if link < 2 then { s with hostDown := s.hostDown.set link true } else s)

/-- Meaning of HOST_LINK_UP (R412). -/
def execHostLinkUp (s : State) (link : Nat := 0) : Host.Outcome State Fault Refusal :=
  .next (if link < 2 then { s with hostDown := s.hostDown.set link false } else s)

end Sys2Proof.Machine
end

