-- ==== Sys2Proof/Machine/Ports.lean ====
section
/-! DEFINITION. Ingress ports (06_threads.md R230 to R234) and the launch ports of the Pavilions (11_package.md R397 and R398). -/

namespace Sys2Proof.Machine

/-! ### Ingress ports -/

/-- The die of an ingress port (R230). -/
def portDie (n : Nat) : Nat := n / 8

/-- Whether an ingress port answers: it exists, and its die is enabled, awake and not fenced (R230, R419, R421). -/
def State.portLive (s : State) (n : Nat) : Bool :=
  let d := s.dies.get (portDie n)
  decide (n < 64) && !d.disabled && !d.fenced && match d.stage with
    | .up | .draining _ => true
    | _ => false

/-- Fields of a head token (R232). -/
def headCtx (v : DWord) : Nat := bits v.toNat 0 12
def headHandle (v : DWord) : Nat := bits v.toNat 12 20
def headMode (v : DWord) : Nat := bits v.toNat 32 2
def headLen (v : DWord) : Nat := bits v.toNat 48 16

/-- Whether the LEN of a head token is valid for its mode (R232). -/
def headLenOk (v : DWord) : Bool := if headMode v = 0 then headLen v == 16 else headMode v == 1 && headLen v != 0

/-- Whether a die accepts a head token (R232). -/
def State.headOk (s : State) (d : Nat) (v : DWord) : Bool :=
  headLenOk v && bits v.toNat 34 14 == 0 && (headMode v != 0 || headHandle v == 0)
    && (s.desc d (headCtx v)).flags.getLsbD (8 + d)

/-- The cores of a die on which a configuration is resident (R234). -/
def State.cfgCores (s : State) (d x h : Nat) : List Nat :=
  (coresOf d).filter (fun c => (s.grids.get c).cfgs.any (fun q => !q.captured && q.ctx == x && q.handle == h))

/-- Take the head token at the front of a port's buffer (R232, R234). -/
def State.takeHead (s : State) (n : Nat) (v : DWord) (rest : List DWord) : State :=
  let d := portDie n
  let s1 := s.holdDesc d (headCtx v)
  if s.headOk d v then
    let absent := headMode v == 1 && (s.cfgCores d (headCtx v) (headHandle v)).isEmpty
    let s2 := s1.modPort n (fun p => { p with buf := rest, open_ := some (v, headLen v), loadWait := absent })
    if absent then s2.post d ⟨.headLoad, [], [n, headCtx v, headHandle v]⟩ else s2
  else (s1.modPort n (fun p => { p with
    buf := if headLenOk v then rest else [], reject := true, skip := if headLenOk v then headLen v else 0, dead := !headLenOk v })).post d ⟨.headReject, [], [n, v.toNat]⟩

/-- Work through the front of a port's buffer: discard, or open the next stream. At most `fuel` tokens. -/
def State.portRun (s : State) (n : Nat) : Nat → State
  | 0 => s
  | fuel + 1 =>
    let p := s.ports.get n
    match p.buf with
    | [] => s
    | v :: rest =>
      if 0 < p.skip then State.portRun (s.modPort n (fun p => { p with buf := rest, skip := p.skip - 1 })) n fuel
      else match p.open_ with
        | some _ => s
        | none => State.portRun (s.takeHead n v rest) n fuel

/-- One token arrives at a port (R231): the one that overflows the buffer is dropped, and so is every later one until RESET is written. -/
def Port.arrive (p : Port) (v : DWord) : Port :=
  if p.dead then p
  else if 512 ≤ p.buf.length then { p with drops := min (p.drops + 1) 0xFFFFFFFF, ovf := true, dead := true }
  else { p with buf := p.buf ++ [v] }

/-- The tokens of a write (R230). -/
def tokensOf : List Byte → Nat → List DWord
  | _, 0 => []
  | bs, n + 1 => BitVec.ofNat 64 (leNat (bs.take 8)) :: tokensOf (bs.drop 8) n

/-- Deliver tokens to a port in order. The streams that a reset of the die holds back wait in the buffer (R421). -/
def State.portTokens (s : State) (n : Nat) (vs : List DWord) : State :=
  vs.foldl (fun s v =>
    let s1 := s.modPort n (fun p => p.arrive v)
    if (s1.dies.get (portDie n)).stage == .up then s1.portRun n 514 else s1) s

/-- A write to TOKEN of a port (R230, R231). -/
def State.tokenWrite (s : State) (n off : Nat) (data : List Byte) : State :=
  if !s.portLive n ∨ 0x80 ≤ off then s
  else if off % 8 ≠ 0 ∨ data.length % 8 ≠ 0 ∨ 0x80 < off + data.length then s.modPort n (fun p => { p with badwr := true })
  else s.portTokens n (tokensOf data (data.length / 8))

/-- Meaning of INGRESS_TOKEN_WRITE (R230, R231). -/
def execIngressTokenWrite (n off : Nat) (data : List Byte) (s : State) : Host.Outcome State Fault Refusal := .next (s.tokenWrite n off data)

/-- Meaning of INGRESS_RECORD_ENQUEUE (R233): the complete record of an open launch stream enters the die's queue. -/
def execIngressRecordEnqueue (n : Nat) (s : State) : Host.Outcome State Fault Refusal :=
  let p := s.ports.get n
  let d := portDie n
  .next (match p.open_ with
    | some (v, _) =>
      if headMode v == 0 && decide (16 ≤ p.buf.length) && s.portLive n && (s.dies.get d).stage == .up
          && decide ((s.dies.get d).ingress.length < 256) then
        let x := headCtx v
        let id := (s.ctxs.get x).nextId
        let s1 := (s.newLaunch x d ((p.buf.take 16).flatMap (fun t => leBytes 8 t.toNat)) 0 none).modDie d
          (fun q => { q with ingress := q.ingress ++ [launchKey x id] })
        (s1.modPort n (fun p => { p with buf := p.buf.drop 16, open_ := none, lastId := BitVec.ofNat 32 id })).portRun n 514
      else s
    | none => s)

/-- A write to STATUS of a port (R230). -/
def State.portStatusClear (s : State) (n : Nat) (v : Word) : State :=
  if s.portLive n then s.modPort n (fun p => { p with
    ovf := p.ovf && !v.getLsbD 2, badwr := p.badwr && !v.getLsbD 3, reject := p.reject && !v.getLsbD 4 }) else s

/-- Meaning of INGRESS_STATUS_CLEAR (R230). -/
def execIngressStatusClear (n : Nat) (v : Word) (s : State) : Host.Outcome State Fault Refusal := .next (s.portStatusClear n v)

/-- A write to RESET of a port (R230, R231). -/
def State.portReset (s : State) (n : Nat) : State :=
  if s.portLive n then s.modPort n (fun p => { p with buf := [], open_ := none, loadWait := false, skip := 0, dead := false }) else s

/-- Meaning of INGRESS_RESET (R230, R231). -/
def execIngressReset (n : Nat) (s : State) : Host.Outcome State Fault Refusal := .next (s.portReset n)

/-- The value of a port's register at an offset (R230), as a host reads it. -/
def State.portRead (s : State) (n o : Nat) : Nat :=
  let p := s.ports.get n
  if !s.portLive n then 2 ^ 64 - 1
  else if o = 0x80 then 512 - p.buf.length
  else if o = 0x88 then b2n p.open_.isSome + 2 * b2n p.loadWait + 4 * b2n p.ovf + 8 * b2n p.badwr + 16 * b2n p.reject
  else if o = 0x90 then p.drops
  else if o = 0x98 then p.lastId.toNat
  else 0

/-- The `k` bytes of the ports' window from offset `o` on (R230). -/
def State.portBytes (s : State) (o : Nat) : Nat → List Byte
  | 0 => []
  | k + 1 => BitVec.ofNat 8 (s.portRead (o / 0x1000) (o % 0x1000 / 8 * 8) / 256 ^ (o % 8)) :: State.portBytes s (o + 1) k

/-- A write of bytes to the ports' window at offset `o` (R230): tokens, a clear of sticky bits, or a reset; a register that is read only
takes no write. -/
def State.portWrite (s : State) (o : Nat) (data : List Byte) : State :=
  let n := o / 0x1000
  let r := o % 0x1000
  if r < 0x80 then s.tokenWrite n r data
  else if r = 0x88 then s.portStatusClear n (BitVec.ofNat 32 (leNat (data.take 4)))
  else if r = 0xA0 then s.portReset n
  else s

/-! ### Launch ports -/

/-- The launch that LREC of Pavilion `k` asks for (R398). -/
def State.lrecLaunch (s : State) (k : Nat) : Launch :=
  let p := s.pavs.get k
  { (default : Launch) with ctx := p.lctx, record := Memory.read p.lrec 0 128, home := dieOf (serviceBase + k), pav := some k }

/-- A write to LGO of Pavilion `k` (R397, R398). -/
def State.lgo (s : State) (k : Nat) : State :=
  let p := s.pavs.get k
  let l := s.lrecLaunch k
  let s0 := s.holdDesc l.home l.ctx
  if p.busy then s.modPav k (fun p => { p with reject := true })
  else match s0.recordBad l with
    | some r => s0.modPav k (fun p => { p with drop := true, reason := r })
    | none =>
      let id := (s0.ctxs.get l.ctx).nextId
      let key := launchKey l.ctx id
      let s1 := (s0.newLaunch l.ctx l.home l.record 0 (some k)).modLaunch key (fun l => { l with stage := .waiting })
      (s1.place key 0 (serviceBase + k)).modPav k (fun p => { p with busy := true, lastId := id })

/-- Meaning of LGO_WRITE (R398). -/
def execLgoWrite (k : Nat) (s : State) : Host.Outcome State Fault Refusal := .next (if k < 4 then s.lgo k else s)

/-- A write to LSTAT of Pavilion `k` (R398). -/
def State.lstatClear (s : State) (k : Nat) (v : DWord) : State :=
  s.modPav k (fun p => { p with drop := p.drop && !v.getLsbD 1, reject := p.reject && !v.getLsbD 2 })

/-- Meaning of LSTAT_CLEAR (R398). -/
def execLstatClear (k : Nat) (v : DWord) (s : State) : Host.Outcome State Fault Refusal := .next (if k < 4 then s.lstatClear k v else s)

/-- A write to LKILL of Pavilion `k` (R255, R398). -/
def State.lkill (s : State) (k : Nat) : State :=
  let ps := (s.plots.filter (fun e => e.2.live && e.2.core == serviceBase + k)).map (fun e => (e.1, e.2.launch))
  (ps.foldl (fun s e => (s.killPlot e.1).killLaunch e.2) s).modPav k (fun p => { p with busy := false })

/-- Meaning of LKILL_WRITE (R398). -/
def execLkillWrite (k : Nat) (s : State) : Host.Outcome State Fault Refusal := .next (if k < 4 then s.lkill k else s)

end Sys2Proof.Machine
end

