-- ==== Sys2Proof/Machine/Translation.lean ====
section
/-! DEFINITION. The events of translation: walks, the runtime's answers to PAGE events, invalidation, and descriptor
synchronisation (07_memory.md R284 to R289, R426, 10_outliers_microseq.md R386, R389). -/

namespace Sys2Proof.Machine

/-! ### Walks and PAGE events -/

/-- The page of `va` for context `x` on die `d`: the one that a TLB of the requester holds, or that a PAGE event names, else 64 KiB. -/
def State.pageAt (s : State) (d x : Nat) (va : DWord) (tlb : List TlbE) : PageEv :=
  match tlb.find? (fun e => e.ctx == x && decide (e.base ≤ va.toNat) && decide (va.toNat < e.base + e.size)) with
  | some e => ⟨x, va, e.size⟩
  | none => ((s.dies.get d).pages.find? (fun e => e.covers x va)).getD ⟨x, va, 65536⟩

/-- The threads of context `x` on die `d` that wait for a walk for a page. -/
def State.walkers (s : State) (d : Nat) (e : PageEv) : List Nat :=
  (s.threads.filter (fun t => t.2.live && dieOf (s.coreOf t.2) == d && (match t.2.wait with
    | .walk a _ => e.covers t.2.ctx a
    | _ => false))).map (·.1)

/-- The threads on die `d` that wait for the runtime at a page. -/
def State.pagers (s : State) (d : Nat) (e : PageEv) : List Nat :=
  (s.threads.filter (fun t => t.2.live && dieOf (s.coreOf t.2) == d && (match t.2.wait with
    | .page a _ => e.covers t.2.ctx a
    | _ => false))).map (·.1)

/-- Meaning of TRANSLATION_WALK (R286, R287): every access that waits for the page joins the walk; it replays, or waits for the
runtime. -/
def execTranslationWalk (d x : Nat) (va : DWord) (acc : Nat) (s : State) : Host.Outcome State Fault Refusal :=
  .next (match s.walkers d ⟨x, va, 65536⟩ with
    | [] => s
    | u :: _ =>
      let t := s.thr u
      let w := s.who t
      let r := s.walkOnce w (s.askThread t) (accOf acc) va
      let us := s.walkers d (r.1.pageAt d x va (if r.2 then r.1.tlbOf w else []))
      if r.2 then us.foldl (fun s u => s.wake u) r.1
      else us.foldl (fun s u => s.modThr u (fun t => { t with wait := match t.wait with
        | .walk a k => .page a k
        | w => w })) r.1)

/-- A thread whose PAGE has been resolved (R39, R94, R389): inside a latch chain it goes back to the chain's start, and a macro starts
again with its operands held. -/
def Thread.replay (t : Thread) (now : Nat) : Thread :=
  let t1 : Thread := match t.pend with
    | some q => { (t.restore q).breakLatches with mrun := none }
    | none => { t with mrun := t.mrun.map (fun r => { r with m := [], q0 := none, q1 := none, flags := 0, i := 0 }) }
  { t1 with wait := .none, pend := none, bulk := none, age := now }

/-- The PAGE event that the runtime of die `d` has for a page, where it has one. -/
def State.pageOpen (s : State) (d x : Nat) (va : DWord) : Option PageEv := (s.dies.get d).pages.find? (fun e => e.covers x va)

/-- The PAGE event for a page is with the runtime no longer. -/
def State.closePage (s : State) (d x : Nat) (va : DWord) : State :=
  s.modDie d (fun q => { q with pages := q.pages.filter (fun e => !e.covers x va) })

/-- The plots on die `d` whose sequencer waits for the runtime at a page. -/
def State.pageSeqs (s : State) (d : Nat) (e : PageEv) : List (Nat × DWord) :=
  s.plots.filterMap (fun p => if p.2.live && dieOf p.2.core == d then
    match p.2.seq.wait with
    | .page a _ => if e.covers p.2.ctx a then some (p.1, a) else none
    | _ => none
    else none)

/-- Whether a packet's wait for a page of 64 KiB is one for the page of an event: they are those of die 0 (R410). -/
def PageEv.packet (e : PageEv) (d : Nat) (f : Nat × Nat × Bool) : Bool := d == 0 && e.covers f.1 (BitVec.ofNat 64 (65536 * f.2.1))

/-- Meaning of PAGE_RESOLVE (R286, R287): every access that waits for the page replays. -/
def execPageResolve (d x : Nat) (va : DWord) (s : State) : Host.Outcome State Fault Refusal :=
  .next (match s.pageOpen d x va with
    | none => s
    | some e =>
      let s0 := { s.closePage d x va with fabPages := s.fabPages.filter (fun f => !e.packet d f) }
      let s1 := (s.pagers d e).foldl (fun s u => s.modThr u (fun t => t.replay s.time)) s0
      (s.pageSeqs d e).foldl (fun s q => s.modSeq q.1 (fun q => { q with wait := .none })) s1)

/-- Note a refused page with the engines and configurations of its context on die `d`. -/
def State.noteRefused (s : State) (d : Nat) (p : PageEv) : State :=
  let x := p.ctx
  let pg := (p.va.toNat / p.size * p.size, p.size)
  let add (l : List (Nat × Nat)) : List (Nat × Nat) := if l.contains pg then l else pg :: l
  { s with
    fabPages := s.fabPages.map (fun f => if p.packet d f then (f.1, f.2.1, true) else f)
    cores := s.cores.map (fun e => if dieOf e.1 = d then
      (e.1, { e.2 with
        copies := e.2.copies.map (fun k => if k.ctx = x then { k with refused := add k.refused } else k)
        streams := e.2.streams.map (fun m => if m.2.ctx = x then (m.1, { m.2 with refused := add m.2.refused }) else m) }) else e)
    plots := s.plots.map (fun e => if e.2.ctx = x ∧ dieOf e.2.core = d then
      (e.1, { e.2 with gss := e.2.gss.map (fun g => { g with refused := add g.refused }) }) else e)
    grids := s.grids.map (fun e => if dieOf e.1 = d then
      (e.1, e.2.modCfgs (fun q => q.ctx == x) (fun q => { q with refused := add q.refused })) else e) }

/-- The launches whose group table waits for a page (R222). -/
def State.pageLaunches (s : State) (d : Nat) (p : PageEv) : List Nat :=
  (s.launches.filter (fun e => e.2.stage == .reading && e.2.home == d && (match (s.readGroups e.2).2 with
    | .miss m => p.covers e.2.ctx m
    | _ => false))).map (·.1)

/-- Meaning of PAGE_REFUSE (R222, R286): the waiting accesses raise ADDR precisely, and a launch whose table is refused is dropped. -/
def execPageRefuse (d x : Nat) (va : DWord) (s : State) : Host.Outcome State Fault Refusal :=
  .next (match s.pageOpen d x va with
    | none => s
    | some p =>
      let ls := s.pageLaunches d p
      let s1 := (s.closePage d x va).noteRefused d p
      let s2 := (s.pagers d p).foldl (fun s u => s.faultAt u (s.thr u).pend codeAddr 0 (match (s.thr u).wait with
        | .page a _ => a
        | _ => va)) s1
      let s3 := (s.pageSeqs d p).foldl (fun s e => s.seqFault e.1 codeAddr 0 e.2) s2
      ls.foldl (fun s k => s.drop k 16 0) s3)

/-! ### Invalidation -/

/-- Whether a write to INV names the page of `va` of context `x` (R288): directly, or as part of a larger page that some TLB holds. -/
def State.invNames (s : State) (v : DWord) (x va : Nat) : Bool :=
  let a := bits v.toNat 16 48 * 65536
  bits v.toNat 0 12 == x && (bit v.toNat 12 || a / 65536 == va / 65536
    || (s.dies.flatMap (fun e => e.2.tlb) ++ s.cores.flatMap (fun e => e.2.tlb)).any (fun q => q.ctx == x && decide (q.base ≤ a)
        && decide (a < q.base + q.size) && decide (q.base ≤ va) && decide (va < q.base + q.size)))

/-- Whether an access that was translated through an entry named by `v` has yet to be performed (R288), or belongs to an iteration that has
closed before all its operations were made (R325). -/
def State.invBusy (s : State) (v : DWord) : Bool :=
  let hit (x : Nat) (a : DWord) : Bool := a.toNat / 2 ^ 60 == 0 && s.invNames v x a.toNat
  s.threads.any (fun e =>
    e.2.loads.any (fun l => l.parts.any (fun p => p.data.isNone && hit e.2.ctx (l.addr + BitVec.ofNat 64 p.off)))
    || e.2.stores.any (fun h => hit e.2.ctx h.addr)
    || (match e.2.mrun with
      | some r => [r.q0, r.q1].any (fun q => match q with
        | some b => hit e.2.ctx b.addr || hit e.2.ctx (b.addr + BitVec.ofNat 64 (b.size - 1))
        | none => false)
      | none => false))
  || s.plots.any (fun e => e.2.seq.stores.any (fun h => hit e.2.ctx h.addr))
  || s.pels.any (fun e => e.2.live && decide (e.2.tag < e.2.open_) && e.2.ctx == bits v.toNat 0 12)

/-- Start an invalidation on die `d` (R288). -/
def State.invWrite (s : State) (d : Nat) (v : DWord) : State := s.modDie d (fun q => { q with invPend := q.invPend ++ [v] })

/-- Meaning of INV_WRITE (R288). -/
def execInvWrite (d : Nat) (v : DWord) (s : State) : Host.Outcome State Fault Refusal := .next (s.invWrite d v)

/-- Meaning of INVALIDATION_COMPLETE (R288): every TLB drops the entries, and INVDONE rises. -/
def execInvalidationComplete (d : Nat) (s : State) : Host.Outcome State Fault Refusal :=
  .next (match (s.dies.get d).invPend with
    | [] => s
    | v :: r =>
      if s.invBusy v then s
      else
        let a := bits v.toNat 16 48 * 65536
        let keep (q : TlbE) : Bool := !(q.ctx == bits v.toNat 0 12 && (bit v.toNat 12 || (decide (q.base ≤ a) && decide (a < q.base + q.size))))
        let s1 := { s with
          dies := s.dies.map (fun (e : Nat × Die) => (e.1, { e.2 with tlb := e.2.tlb.filter keep }))
          cores := s.cores.map (fun (e : Nat × Core) => (e.1, { e.2 with tlb := e.2.tlb.filter keep })) }
        s1.modDie d (fun q => { q with invPend := r, invDone := q.invDone + 1 }))

/-! ### Descriptor synchronisation -/

/-- Start dropping the held copies of a descriptor (R289). -/
def State.ctxsyncWrite (s : State) (d : Nat) (v : DWord) : State := s.modDie d (fun q => { q with ctxPend := q.ctxPend ++ [v] })

/-- Meaning of CTXSYNC_WRITE (R289). -/
def execCtxsyncWrite (d : Nat) (v : DWord) (s : State) : Host.Outcome State Fault Refusal := .next (s.ctxsyncWrite d v)

/-- Meaning of CTXSYNC_COMPLETE (R289): every die drops its copy, and CTXDONE rises. -/
def execCtxsyncComplete (d : Nat) (s : State) : Host.Outcome State Fault Refusal :=
  .next (match (s.dies.get d).ctxPend with
    | [] => s
    | v :: r =>
      let s1 := { s with dies := s.dies.map (fun (e : Nat × Die) => (e.1, { e.2 with held := e.2.held.set (bits v.toNat 0 12) none })) }
      s1.modDie d (fun q => { q with ctxPend := r, ctxDone := q.ctxDone + 1 }))

/-- The scheduler takes the cores asked for as having room (R386). -/
def State.bankdoneWrite (s : State) (d : Nat) (v : DWord) : State :=
  s.modDie d (fun q => { q with bankReq := q.bankReq.filter (fun r => r.2 != bits v.toNat 0 12) })

/-- Meaning of BANKDONE_WRITE (R386). -/
def execBankdoneWrite (d : Nat) (v : DWord) (s : State) : Host.Outcome State Fault Refusal := .next (s.bankdoneWrite d v)

end Sys2Proof.Machine
end

