-- ==== Sys2Proof/Machine/RegWrite.lean ====
section
/-! DEFINITION. What a store does at a page of device register space (07_memory.md R264, R288, R289, 08_trellis.md R347,
10_outliers_microseq.md R386, 11_package.md R398 to R400, R413, R421). A store to a word that the spec gives to no register, or to a
read-only register, is ignored (R399). -/

namespace Sys2Proof.Machine

/-- A store to the status page of compute die `d` (R347, R386, R421). A gated die discards it (R420). -/
def State.statusStore (s : State) (d o : Nat) (v : DWord) : State :=
  match (s.dies.get d).stage with
  | .gated => s
  | _ =>
    if 0x1000 ≤ o ∧ o < 0x1000 + 0x100 * 160 then s.kickWrite (160 * d + (o - 0x1000) / 256) (o % 256) v
    else if o = 0xC000 then s.drstWrite d v
    else if o = 0xC008 then s.bankdoneWrite d v
    else s

/-- A store to the translation control page of die `d` (R288, R289). -/
def State.transStore (s : State) (d o : Nat) (v : DWord) : State :=
  if o = 0x00 then s.invWrite d v
  else if o = 0x10 then s.modDie d (fun q => { q with ctxBase := v.toNat / 2 ^ 19 * 2 ^ 19 })
  else if o = 0x18 then s.ctxsyncWrite d v
  else s

/-- A store to the Commons status page (R413). -/
def State.commonsStore (s : State) (o : Nat) (v : DWord) : State :=
  if o = 0xC000 then s.pwinWrite v
  else if o = 0xC008 then s.prsvWrite v
  else if o = 0xC018 then s.pancrWrite v
  else if o = 0xC028 then s.pcapWrite v
  else if o = 0xC030 then s.plimidWrite v
  else if o = 0xC038 then s.plimsetWrite v
  else s

/-- A store to the status page of Pavilion `k` (R398). -/
def State.pavStore (s : State) (k o : Nat) (v : DWord) : State :=
  if 0x8000 ≤ o ∧ o < 0x8080 then s.modPav k (fun p => { p with lrec := Memory.write p.lrec (o - 0x8000) (leBytes 8 v.toNat) })
  else if o = 0x8080 then s.lgo k
  else if o = 0x8088 then s.lstatClear k v
  else if o = 0x8090 then s.lkill k
  else if o = 0x8098 then s.modPav k (fun p => { p with lctx := v.toNat % 4096 })
  else s

/-- A store of the doubleword `v` at `pa`, aligned to 8, outside the ring pages (R399). -/
def State.regStore (s : State) (pa : Nat) (v : DWord) : State :=
  let u := regPage pa
  let o := pa % 65536
  if u < 8 then s.statusStore u o v
  else if u < 16 then s.transStore (u - 8) o v
  else if u = 16 then s.commonsStore o v
  else if 24 ≤ u ∧ u < 28 then s.pavStore (u - 24) o v
  else s

/-- `old` with the bytes `bs` in place of its bytes from `o` on. -/
def mergeBytes (old : Nat) (o : Nat) (bs : List Byte) : DWord :=
  let w := leBytes 8 old
  BitVec.ofNat 64 (leNat (w.take o ++ bs ++ w.drop (o + bs.length)))

/-- A store of bytes that lie in one doubleword of device register space (R399, R400). A store narrower than its register keeps the
register's other bytes (DESIGN CHOICE, notes/assumptions/42.md). -/
def State.regPart (s : State) (pa : Nat) (bs : List Byte) : State :=
  let u := regPage pa
  if 28 ≤ u ∧ u < 32 then
    if pa % 4 = 0 ∧ bs.length = 4 then s.modPav (u - 28) (fun p => p.write (pa % 65536 / 4) (leNat bs) s.time) else s
  else s.regStore (pa / 8 * 8) (mergeBytes (s.regDword (pa / 8 * 8)) (pa % 8) bs)

/-- A store of bytes at `pa` in device register space, split at doublewords (R99, R399). -/
def State.regBytes (s : State) (pa : Nat) (bs : List Byte) : State :=
  (splitParts (bs.length / 8 + 2) pa 0 bs.length).foldl (fun s q => s.regPart (pa + q.1) ((bs.drop q.1).take q.2)) s

/-- Write bytes at any home of the package (R256, R399). -/
def State.homeStore (s : State) (plot : Nat) (l : Loc) (bs : List Byte) : State :=
  match l with
  | .reg pa => s.regBytes pa bs
  | l => s.homeWrite plot l bs

/-- Meaning of REGISTER_WRITE (R399): a store of the doubleword `v` to the register at `pa`. -/
def execRegisterWrite (pa : Nat) (v : DWord) (s : State) : Host.Outcome State Fault Refusal :=
  .next (if inRegs pa && pa % 8 == 0 && regOk 2 pa 8 8 then s.regPart pa (leBytes 8 v.toNat) else s)

end Sys2Proof.Machine
end

