-- ==== Sys2Proof/Machine/Remote.lean ====
section
/-! DEFINITION. What becomes of accesses after they have issued: values that land, precise and imprecise faults of outstanding
accesses, and requests to other packages (03_memory_system_instructions.md R97, R110, R129, 07_memory.md R265 to R268 and R271,
11_package.md R407, R408 and R410). -/

namespace Sys2Proof.Machine

/-! ### Values that land -/

/-- A snapshot with the value of an access that was outstanding when it was taken. -/
def Snap.land (q : Snap) (f : Thread → Thread) : Snap := { q with g := (f { (default : Thread) with g := q.g }).g }

/-- A held access whose snapshot has the landed value, where it is later than place `seq`. -/
def Held.land (h : Held) (seq : Nat) (f : Thread → Thread) : Held :=
  match h.op with
  | .amo op x y d q => if seq < h.seq then { h with op := .amo op x y d (q.land f) } else h
  | .store _ => h

/-- Register writes `f` of the access at place `seq` reach thread `u` and every snapshot taken since (R39, R97, R268). -/
def Thread.land (t : Thread) (seq : Nat) (f : Thread → Thread) : Thread :=
  { f t with
    b0 := t.b0.map (fun l => { l with snap := l.snap.land f })
    b1 := t.b1.map (fun l => { l with snap := l.snap.land f })
    chain := t.chain.map (fun c => { c with snap := c.snap.land f })
    pend := t.pend.map (fun q => q.land f)
    loads := t.loads.map (fun l => if seq < l.seq then { l with snap := l.snap.land f } else l)
    stores := t.stores.map (fun h => h.land seq f) }

/-! ### Faults of outstanding accesses -/

/-- Take a precise fault at an access that has issued (R97, R410): the thread is again as it was before it, and its later accesses are
gone. `q` is the state before the access at place `seq`, or before the chain that it ends, and `pc` where the access stands (R39; DEDUCED,
notes/assumptions/21.md). -/
def State.faultBack (s : State) (u seq : Nat) (q : Snap) (pc : DWord) (code sub : Nat) (addr : DWord) : State :=
  (s.modThr u (fun t =>
    { (t.restore q).breakLatches with
      loads := t.loads.filter (fun l => decide (l.seq < seq))
      stores := t.stores.filter (fun h => decide (h.seq < seq))
      pend := none, bulk := none, mrun := none })).trap u ⟨code, sub, addr, pc, q.pc⟩

/-- Whether what an access meets at its home faults precisely: its thread lives, and a front-end instruction made it (R97, R325). -/
def Thread.precise (t : Thread) (h : Held) : Bool := t.live && h.grid == 0

/-- Record an imprecise fault of no thread of plot `p` (R129). -/
def State.impreciseFor (s : State) (p code : Nat) (pc addr : DWord) (grid : Nat) : State :=
  let q := s.plots.get p
  s.post (dieOf q.core) ⟨.fault, faultRecord code false (s.launches.get q.launch).id 0xFFFFFFFF pc addr s.time grid, [p, code]⟩

/-! ### Homes as a path reaches them -/

/-- Whether every lease on the lines of `n` bytes at `l` has ended, and their last accesses lie in the past (R266). -/
def State.leasesOver (s : State) (l : Loc) (n : Nat) : Bool :=
  match l with
  | .dev pa _ => (linesOf pa n).all (fun i => decide (s.leaseEnd.get i + 1 ≤ s.time) && decide (s.lastP.get i < s.time))
  | _ => true

/-- Where the arrivals at a line are kept: by its home slice and its number (R258, R259, R266). -/
def State.lineKeyOf (s : State) (line : Nat) : Nat := s.homeOf (128 * line) * 2 ^ 44 + line

/-- The accesses that wait at a line. One that reached its home more than 4,100 ns ago counts as not yet there: that it is performed within
that time lies with the agenda (R266; DESIGN CHOICE, notes/assumptions/91.md). -/
def State.waiting (s : State) (line : Nat) : List (AccId × Nat) := (s.lineQ.get (s.lineKeyOf line)).filter (fun a => decide (s.time ≤ a.2 + 4100))

/-- Access `k` has reached the home of a line: it waits behind those that came before it (R266). -/
def State.arriveAt (s : State) (k : AccId) (line : Nat) : State :=
  let q := s.waiting line
  { s with lineQ := s.lineQ.set (s.lineKeyOf line) (if q.any (fun a => a.1 == k) then q else q ++ [(k, s.time)]) }

/-- Access `k` waits at a line no longer. -/
def State.leaveLine (s : State) (k : AccId) (line : Nat) : State :=
  { s with lineQ := s.lineQ.set (s.lineKeyOf line) ((s.lineQ.get (s.lineKeyOf line)).filter (fun a => a.1 != k)) }

/-- Lines of device memory that the places of an access touch. -/
def linesAt (ls : List (Loc × Nat)) : List Nat :=
  ls.flatMap (fun q => match q.1 with
    | .dev pa _ => linesOf pa q.2
    | _ => [])

/-- Access `k` to the places `ls` is at its homes, and is performed now if it can be (R266): it is the first to wait at each of its lines,
and their leases have ended. -/
def State.homesTry (s : State) (k : AccId) (ls : List (Loc × Nat)) : State × Bool :=
  let lines := linesAt ls
  let s1 := lines.foldl (fun s i => s.arriveAt k i) s
  if lines.all (fun i => (((s1.waiting i).head?).map (·.1)) == some k) && ls.all (fun q => s1.leasesOver q.1 q.2) then
    (lines.foldl (fun s i => s.leaveLine k i) s1, true)
  else (s1, false)

/-- The line records that P is now, or the next instant where an access of the same event was performed there before (R266). -/
def State.notePerformed (s : State) (l : Loc) (n : Nat) : State :=
  match l with
  | .dev pa _ => { s with lastP := (linesOf pa n).foldl (fun m i => m.set i (max s.time (m.get i + 1))) s.lastP }
  | _ => s

/-- Whether the register page of a location belongs to a fenced die (R421). -/
def State.fencedAt (s : State) (l : Loc) : Bool :=
  match l with
  | .reg pa => decide (regPage pa < 16) && (s.dies.get (regPage pa % 8)).fenced
  | .wgt d _ => (s.dies.get d).fenced
  | _ => false

/-- Why a home refuses an access, made for plot `p`, that passed its checks earlier: its key slot is empty (R291), its die is fenced
(R421), or the bytes hold an uncorrectable error (R97). -/
def State.homeFault (s : State) (p : Nat) (l : Loc) (n : Nat) : Option Nat :=
  if s.fencedAt l then some codeFenced
  else if !(match l with | .dev _ k => s.keyLoaded k | _ => true) then some codeAddr
  else if s.badAt p l n then some codeEcc
  else none

/-- Whether some access waits to be performed at a line, so that no lease is granted (R266). -/
def State.lineWaited (s : State) (line : Nat) : Bool :=
  !(s.waiting line).isEmpty || s.phys.any (fun w => (linesOf w.1 w.2.length).contains line)

/-- Lease length of a hint in ns (R265). -/
def leaseNs (h : Hint) : Nat :=
  match h with
  | .dflt => 1024
  | .stream => 128
  | .keep => 4096

/-- A home serves core `c`'s miss of the line of `pa`, and grants a lease where no access waits for the line: of the hint's length, or of a
shorter one that a free value gives, or none (R265, R266). -/
def State.grantLease (s : State) (c pa : Nat) (h : Hint) : State :=
  let line := lineOf pa
  if s.lineWaited line then s
  else
    let n := min (leaseNs h) (Config.freeWord s.free).toNat
    let e := s.time + n
    let s1 := { s with free := s.free + 1 }
    if n = 0 then s1
    else { s1.modCore c (fun q => { q with l1 := q.l1.set line ⟨s.time, e⟩ }) with leaseEnd := s.leaseEnd.set line (max (s.leaseEnd.get line) e) }

/-- Perform the writes that wait for their lines' leases, oldest first, up to the first that still has to wait (R266). -/
def State.drainPhys (s : State) : State :=
  let go := s.phys.takeWhile (fun w => s.leasesOver (.dev w.1 0) w.2.length)
  go.foldl (fun s w => (s.devWrite w.1 0 w.2).notePerformed (.dev w.1 0) w.2.length) { s with phys := s.phys.drop go.length }

/-! ### Requests to other packages -/

/-- The number of an atomic operation in the order of R107. -/
def AOp.num : AOp → Nat
  | .add => 0 | .minS => 1 | .maxS => 2 | .minU => 3 | .maxU => 4 | .and => 5 | .or => 6 | .xor => 7
  | .xchg => 8 | .cas => 9 | .fadd => 10 | .faddB2 => 11 | .fmax => 12 | .incW => 13 | .decW => 14

/-- The atomic operation with a number (R407). -/
def aopOf (n : Nat) : Option AOp := [AOp.add, .minS, .maxS, .minU, .maxU, .and, .or, .xor, .xchg, .cas, .fadd, .faddB2, .fmax, .incW, .decW][n]?

/-- Note the answer to access `k`, about the bytes that `off` names: its bytes, or the reason of its refusal. -/
def State.noteAns (s : State) (k : AccId) (off reason : Nat) (data : List Byte) : State := { s with remGot := s.remGot ++ [⟨k, off, reason, data⟩] }

/-- The home of part of a load in another package has answered with bytes (R271). -/
def State.fillRemote (s : State) (u seq off : Nat) (bs : List Byte) : State :=
  s.modThr u (fun t => { t with loads := t.loads.map (fun l => if l.seq ≠ seq then l else { l with parts := l.parts.map (fun p =>
    if p.off = off then { p with data := some ((bs ++ List.replicate p.len 0).take p.len) } else p) }) })

/-- A load of thread `u` is dropped: a prefetch raises no fault (R100). -/
def Thread.dropLoad (t : Thread) (seq : Nat) : Thread := { t with loads := t.loads.filter (fun l => l.seq != seq) }

/-- The address that a fault of part `p` of a load names: that of the access of the instruction which it is part of. -/
def Load.faultAddr (l : Load) (p : Part) : DWord :=
  match l.dst with
  | .bulk n => if n = 0 then l.addr else l.addr + BitVec.ofNat 64 (p.off / n * n)
  | _ => l.addr

/-- The registers that a load writes. -/
def LoadDst.writes (d : LoadDst) : List Nat :=
  match d with
  | .regs d n _ => (List.range n).map (d + ·)
  | _ => []

/-- Part `p` of a load of a captured lane cannot be read (R97, R328, R365): an uncorrectable error poisons the token that the load sends,
with bytes that nothing determines; anything else is a cause of a drain. -/
def State.laneFault (s : State) (u : Nat) (l : Load) (p : Part) (code : Nat) : State :=
  if code = codeEcc then
    ({ s with free := s.free + p.len }.fillRemote u l.seq p.off (freeBytes s.free p.len)).modPel (s.thr u).pel (fun q =>
      { q with poison := q.poison ++ l.dst.writes.filter (fun r => !q.poison.contains r) })
  else s.pelCause (s.thr u).pel

/-- Part `p` of a load of thread `u` cannot be read at its home (R97, R100). -/
def State.loadFault (s : State) (u : Nat) (l : Load) (p : Part) (code sub : Nat) : State :=
  if l.dst = .line then s.modThr u (fun t => t.dropLoad l.seq)
  else if (s.thr u).wait = .grid then s.laneFault u l p code
  else s.faultBack u l.seq l.snap l.pc code sub (l.faultAddr p)

/-- The old value of a committed atomic of a captured iteration never comes (R325): its destination takes what nothing determines, and is
poisoned where an uncorrectable error was read (R365). -/
def State.amoLost (s : State) (u : Nat) (h : Held) (code : Nat) : State :=
  match h.op with
  | .store _ => s
  | .amo _ _ _ d _ =>
    let s1 := ({ s with free := s.free + 2 }).modThr u (fun t => ({ t with stores := t.stores.filter (fun k => k != h) }).land h.seq
      (fun q => q.oldTo d h.len (DWord.mk (Config.freeWord (s.free + 1)) (Config.freeWord s.free))))
    let rs := if d < 60 then [d, d + h.len / 8] else []
    if (s.thr u).wait = .grid then
      (s1.modPel (s.thr u).pel (fun q => if code = codeEcc then { q with poison := q.poison ++ rs.filter (fun r => !q.poison.contains r) } else q)).pelProduced
        (s.thr u).pel rs
    else s1

/-- Bytes that a configuration without threads has sent to another package are refused (R129, R343, R346, R410). -/
def State.cfgRefused (s : State) (c : Cause) (code : Nat) : State :=
  match (s.grids.get c.cfg.1).cfgNamed c.cfg.2 with
  | some q => s.cfgFault c.cfg.1 q ⟨code, bits c.grid 0 8, bits c.grid 8 8, bits c.grid 16 16, bits c.grid 56 8, c.addr⟩
  | none => s.post (dieOf c.cfg.1) ⟨.fault, faultRecord code false 0 0xFFFFFFFF 0 c.addr s.time c.grid, [code]⟩

/-- Refuse a request to another package with a reason of R410: precise for loads and atomics in the front end, imprecise for stores and
what a captured iteration has committed; what an engine, a sequencer or a node asked for learns the reason. -/
def State.refuse (s : State) (r : RemReq) (reason : Nat) : State :=
  let t := s.thr r.thread
  let code := refusalCode reason
  match r.kind with
  | .load seq off =>
    match t.loads.find? (fun l => l.seq == seq) with
    | some l => match l.parts.find? (fun p => p.off == off) with
      | some p => s.loadFault r.thread l p code reason
      | none => s
    | none => s
  | .amo seq =>
    match t.stores.find? (fun h => h.seq == seq) with
    | some h =>
      match h.op with
      | .amo _ _ _ _ q =>
        if t.precise h then s.faultBack r.thread seq q h.pc code reason h.addr
        else (s.imprecise r.thread code h.pc h.addr h.grid).amoLost r.thread h code
      | .store _ => s
    | none => s
  | .store seq off =>
    match t.stores.find? (fun h => h.seq == seq && h.loc.place.2.2 == off) with
    | some h => (s.imprecise r.thread code h.pc h.addr h.grid).modThr r.thread (fun t =>
        { t with stores := t.stores.filter (fun k => !(k.seq == seq && k.loc.place.2.2 == off)) })
    | none => s
  | .put k off =>
    if r.cause.cfg.1 = 0 ∧ r.cause.cfg.2 = 0 then s.noteAns k off reason [] else s.cfgRefused r.cause code
  | .fetch k off _ | .addTo k off => s.noteAns k off reason []

/-- On whose account a held access of thread `t` is made. -/
def Thread.cause (u : Nat) (t : Thread) (pc addr : DWord) : Cause := ⟨u, t.plot, pc, addr, 0, (0, 0)⟩

/-- Send a request of thread `u` to package `pkg`, or refuse it where no link leads there (R408 to R410); nothing happens while it must
wait. -/
def State.remSend (s : State) (u pkg : Nat) (kind : RemKind) (c : Cause) (q : Nat → Packet) : State :=
  match s.sendReq pkg kind c q with
  | (s1, some reason) => s1.refuse ⟨0, pkg, u, kind, s.time, false, c⟩ reason
  | (s1, none) => s1

/-- Whether a request of a thread is on its way. -/
def State.asked (s : State) (u : Nat) (kind : RemKind) : Bool := s.remReqs.any (fun r => r.thread == u && r.kind == kind && !r.late)

end Sys2Proof.Machine
end

