-- ==== Sys2Proof/Machine/MemEvents.lean ====
section
/-! DEFINITION. The events of accesses in flight: reads, stores and atomics at their homes, and the return of loads
(03_memory_system_instructions.md R97, R106, R110, 07_memory.md R265 to R271, R291, R292). -/

namespace Sys2Proof.Machine

/-! ### Reads -/

/-- The `i`-th part of a load holds `bs`. -/
def Load.fill (l : Load) (i : Nat) (bs : List Byte) : Load :=
  { l with parts := l.parts.zipIdx.map (fun e => if e.2 = i then { e.1 with data := some bs } else e.1) }

/-- Change the load of thread `u` at place `seq`. -/
def State.modLoad (s : State) (u seq : Nat) (f : Load → Load) : State :=
  s.modThr u (fun t => { t with loads := t.loads.map (fun l => if l.seq = seq then f l else l) })

/-- Read part `i` of a load of thread `u` at its home (R265, R268, R292). A part that the thread's own earlier stores must come before waits
for them, and one that they give whole in another package is not asked for there (R267, R271). -/
def State.readPart (s : State) (u : Nat) (l : Load) (i : Nat) (p : Part) : State :=
  let t := s.thr u
  let fill (s : State) (bs : List Byte) : State := s.modLoad u l.seq (fun l => l.fill i bs)
  match s.homeFault t.plot p.loc p.len with
  | some c => s.loadFault u l p c 0
  | none =>
    let bs := s.loadBytes t l.seq p.loc p.len
    match p.loc with
    | .dev pa _ => fill (if l.nc then s else s.grantLease (s.coreOf t) pa l.hint) bs
    | .reg pa => if t.storesFirst l.seq p.loc p.len then s else fill s (s.regRead pa p.len)
    | .wgt d o => if (s.dies.get d).bankClosed (bits o 9 6) then s else fill s bs
    | .scr o => if (s.plotOf t).fullAt o p.len then fill s bs else s
    | .host _ => fill s bs
    | .rem k o =>
      let kind : RemKind := .load l.seq p.off
      match t.heldAll l.seq p.loc p.len with
      | some ws => fill s ws
      | none =>
        if s.asked u kind || t.storesFirst l.seq p.loc p.len then s
        else s.remSend u k kind (t.cause u l.pc (l.faultAddr p)) (fun tag => packetTo 0 k t.ctx tag o (sizeLog p.len) 0 [])

/-- Whether part `p` of load `l` of thread `u` may be read now as far as its own thread goes. -/
def State.readable (s : State) (u : Nat) (l : Load) (p : Part) : Bool :=
  p.data.isNone && !(s.thr u).earlierOpen l.seq p.loc p.len && (s.plotOf (s.thr u)).resident

/-- The loads that have one instant with `l` (R275), with their threads. -/
def State.loadGroup (s : State) (u : Nat) (l : Load) : List (Nat × Load) :=
  if l.grp = 0 then [(u, l)]
  else s.threads.flatMap (fun e => (e.2.loads.filter (fun k => k.grp == l.grp)).map (fun k => (e.1, k)))

/-- Meaning of HOME_READ (R265, R268): part `n` mod 512 of load `n` div 512 of thread `u` is read at its home; the loads of a peloton that
covers one line are read together (R275). -/
def execHomeRead (u n : Nat) (s : State) : Host.Outcome State Fault Refusal :=
  let t := s.thr u
  .next (match t.loads[n / 512]? with
    | none => s
    | some l =>
      match l.parts[n % 512]? with
      | none => s
      | some p =>
        if l.grp = 0 then (if s.readable u l p then s.readPart u l (n % 512) p else s)
        else
          let g := (s.loadGroup u l).filterMap (fun e => e.2.parts.head?.map (fun p => (e.1, e.2, p)))
          if g.all (fun e => s.readable e.1 e.2.1 e.2.2) then g.foldl (fun s e => s.readPart e.1 e.2.1 0 e.2.2) s else s)

/-- Thread `t` after values have landed: it has become ready now if it was waiting for them (R216). -/
def State.landedNow (s : State) (u : Nat) (t : Thread) : State :=
  let held := match s.nextShape u with
    | some sh => (s.thr u).hazard sh && !t.hazard sh
    | none => false
  s.setThr u (if held then { t with age := s.time } else t)

/-- The registers `rs` of a captured lane have their values: the tokens have been produced now (R321). -/
def State.laneLanded (s : State) (u : Nat) (rs : List Nat) : State :=
  if (s.thr u).wait = .grid then s.pelProduced (s.thr u).pel rs else s

/-- Meaning of LOAD_RETURN (R98, R268): every part of a load has been read, and its bytes reach their destination. -/
def execLoadReturn (u n : Nat) (s : State) : Host.Outcome State Fault Refusal :=
  let t := s.thr u
  .next (match t.loads[n]? with
    | none => s
    | some l =>
      if l.parts.all (fun p => p.data.isSome) then
        let bs := l.parts.flatMap (fun p => p.data.getD [])
        let t1 := { t with loads := t.loads.eraseIdx n }
        match l.dst with
        | .bulk _ => s.setThr u (if t.wait = .bulk then { t1 with bulk := some bs, wait := .none, age := s.time } else t1)
        | d => (s.landedNow u (t1.land l.seq (fun q => q.landed d bs))).laneLanded u d.writes
      else s)

/-! ### Stores -/

/-- Whether a held access of thread `t` may be performed now as far as its own thread's order goes (R101, R269, R293, R325, R326). -/
def State.heldReady (s : State) (t : Thread) (h : Held) : Bool :=
  !t.earlierOpen h.seq h.loc h.len
  && !t.stores.any (fun k => decide (k.seq < h.seq) && k.loc.overlaps k.len h.loc h.len)
  && (match t.spec with
    | some q => decide (h.seq < q)
    | none => true)
  && (match h.loc with
    | .host _ => !t.stores.any (fun k => decide (k.seq < h.seq) && (match k.loc with | .host _ => true | _ => false))
    | _ => true)
  && (match h.rel with
    | some sc => !t.loads.any (fun l => decide (l.seq < h.seq))
        && !t.stores.any (fun k => decide (k.seq < h.seq) && (decide (sc ≠ 0) || (match k.op with | .amo _ _ _ _ _ => true | .store _ => false)))
        && decide (t.scopeTime sc < s.time)
    | none => true)

/-- Remove a held access from its thread. -/
def Thread.dropHeld (t : Thread) (h : Held) : Thread := { t with stores := t.stores.filter (fun k => k != h) }

/-- Perform a held store at its home (R110, R266): its P is now. -/
def State.performStore (s : State) (u : Nat) (h : Held) (bs : List Byte) : State :=
  ((s.homeStore (s.thr u).plot h.loc bs).notePerformed h.loc h.len).modThr u (fun t => (t.dropHeld h).raiseTimes h.loc s.time)

/-- The held access `h` of thread `u` as it waits at its home. -/
def Held.acc (h : Held) (u : Nat) : AccId := .held u h.seq h.loc.place.2.2

/-- Mark a held access of thread `u` as on its way to another package, where its request has left. -/
def State.markSent (s : State) (u : Nat) (h : Held) (kind : RemKind) : State :=
  if s.asked u kind then s.modThr u (fun t => { t with stores := t.stores.map (fun q => if q = h then { q with sent := true } else q) }) else s

/-- Store `h` of thread `u` at its home, or on its way to another package. A second event for a store that was sent is the other
package's report (R271, R407). -/
def State.storeStep (s : State) (u : Nat) (h : Held) (bs : List Byte) : State :=
  let t := s.thr u
  match h.loc with
  | .rem k o =>
    let kind : RemKind := .store h.seq o
    if h.sent then
      if s.asked u kind then
        { s.modThr u (fun t => (t.dropHeld h).raiseTimes h.loc s.time) with
          remReqs := s.remReqs.filter (fun r => !(r.thread == u && r.kind == kind)) }
      else s.modThr u (fun t => t.dropHeld h)
    else (s.remSend u k kind (t.cause u h.pc h.addr) (fun tag => packetTo 2 k t.ctx tag o (sizeLog h.len) 0 bs)).markSent u h kind
  | l =>
    match s.homeFault t.plot l h.len with
    | some c => (s.imprecise u c h.pc h.addr h.grid).modThr u (fun t => t.dropHeld h)
    | none =>
      let r := s.homesTry (h.acc u) [(l, h.len)]
      if r.2 then r.1.performStore u h bs else r.1

/-- The stores that have one instant with `h` (R275), with their threads and bytes. -/
def State.storeGroup (s : State) (h : Held) : List (Nat × Held × List Byte) :=
  s.threads.flatMap (fun e => e.2.stores.filterMap (fun k =>
    match k.op with
    | .store bs => if k.grp = h.grp then some (e.1, k, bs) else none
    | .amo _ _ _ _ _ => none))

/-- The stores of a peloton that cover one line, at its home: together, or not yet (R275). One that the home refuses is reported and
dropped. -/
def State.storeTogether (s : State) (u : Nat) (h : Held) : State :=
  let g := s.storeGroup h
  if !g.all (fun e => s.heldReady (s.thr e.1) e.2.1) then s
  else match g.find? (fun e => (s.homeFault (s.thr e.1).plot e.2.1.loc e.2.1.len).isSome) with
    | some e => s.storeStep e.1 e.2.1 e.2.2
    | none =>
      let r := s.homesTry (.held u h.grp 0) [(h.loc, h.len)]
      if r.2 then g.foldl (fun s e => s.performStore e.1 e.2.1 e.2.2) r.1 else r.1

/-- A tile store of the sequencer of plot `p` at its home (R181, R266), or on its way to another package; a second event for one that was
sent is the other package's report. A fault is a Cadence fault that names the plot (R170). -/
def State.seqStoreStep (s : State) (p : Nat) (h : Held) (bs : List Byte) : State :=
  let k : AccId := .tile p h.seq
  let drop (s : State) : State := s.modSeq p (fun q => { q with stores := q.stores.filter (fun k => k != h) })
  let done (s : State) : State := (drop s).modSeq p (fun q => { q with tDone := max q.tDone s.time })
  let bad (s : State) (c : Nat) : State := drop (s.cadPost p c true h.pc h.addr 0 0 0 0)
  match h.loc with
  | .rem pkg o =>
    let off := pkg * 2 ^ 44 + o
    if h.sent then
      match s.gotAns k off with
      | some r => bad (s.forgetAns k) (refusalCode r.reason)
      | none => done { s with remReqs := s.remReqs.filter (fun r => r.kind != .put k off) }
    else match s.sendReq pkg (.put k off) ⟨0, p, h.pc, h.addr, 0, (0, 0)⟩ (fun tag => packetTo 2 pkg (s.plots.get p).ctx tag o (sizeLog h.len) 0 bs) with
      | (s1, some reason) => bad s1 (refusalCode reason)
      | (s1, none) => if s1.asking (.put k off) then
          s1.modSeq p (fun q => { q with stores := q.stores.map (fun z => if z = h then { z with sent := true } else z) }) else s1
  | l =>
    match s.homeFault p l h.len with
    | some c => bad s c
    | none =>
      let r := s.homesTry k [(l, h.len)]
      if r.2 then done ((r.1.homeStore p l bs).notePerformed l h.len) else r.1

/-- Meaning of STORE_PERFORM (R266, R267): held store `n` of thread `u`; 2^32 + p names the sequencer of plot p. -/
def execStorePerform (u n : Nat) (s : State) : Host.Outcome State Fault Refusal :=
  .next (
    if u < 2 ^ 32 then
      let t := s.thr u
      match t.stores[n]? with
      | none => s
      | some h =>
        match h.op with
        | .store bs => if h.grp ≠ 0 then s.storeTogether u h else if s.heldReady t h then s.storeStep u h bs else s
        | .amo _ _ _ _ _ => s
    else
      let p := u - 2 ^ 32
      let hs := (s.plots.get p).seq.stores
      match hs[n]? with
      | none => s
      | some h =>
        match h.op with
        | .store bs => if !(hs.take n).any (fun k => k.loc.overlaps k.len h.loc h.len) then s.seqStoreStep p h bs else s
        | .amo _ _ _ _ _ => s)

/-! ### Atomics -/

/-- An atomic that cannot be performed: precise in the front end, imprecise after a commit (R97, R325). -/
def State.atomFault (s : State) (u : Nat) (h : Held) (q : Snap) (code : Nat) : State :=
  if (s.thr u).precise h then s.faultBack u h.seq q h.pc code 0 h.addr
  else (s.imprecise u code h.pc h.addr h.grid).amoLost u h code

/-- The old value of an atomic returns to its thread (R106, R110). -/
def State.atomDone (s : State) (u : Nat) (h : Held) (d : Nat) (old : DWord) : State :=
  (s.landedNow u (((s.thr u).dropHeld h).land h.seq (fun q => q.oldTo d h.len old) |>.raiseTimes h.loc s.time)).laneLanded u
    (if d < 60 then [d, d + h.len / 8] else [])

/-- Atomic `h` of thread `u` at its home (R106, R107, R109, R266). -/
def State.atomStep (s : State) (u : Nat) (h : Held) (op : AOp) (x y : DWord) (d : Nat) (q : Snap) : State :=
  let t := s.thr u
  match h.loc with
  | .rem k o =>
    if h.sent then s
    else (s.remSend u k (.amo h.seq) (t.cause u h.pc h.addr) (fun tag => packetTo 3 k t.ctx tag o (sizeLog h.len) op.num
        ((if op = .cas then leBytes h.len y.toNat else []) ++ leBytes h.len x.toNat))).markSent u h (.amo h.seq)
  | l =>
    match s.homeFault t.plot l h.len with
    | some c => s.atomFault u h q c
    | none =>
      let r := s.homesTry (h.acc u) [(l, h.len)]
      if r.2 then
        let old := BitVec.ofNat 64 (leNat (s.homeBytes t.plot l h.len))
        ((r.1.homeStore t.plot l (leBytes h.len (atomNew op h.len old x y).toNat)).notePerformed l h.len).atomDone u h d old
      else r.1

/-- Whether the scratchpad bytes of a held atomic are full (R102, R276, R323). -/
def State.atomFull (s : State) (t : Thread) (h : Held) : Bool :=
  match h.loc with
  | .scr o => (s.plotOf t).fullAt o h.len
  | _ => true

/-- Meaning of ATOMIC_PERFORM (R106, R266, R276): held atomic `n` of thread `u`. -/
def execAtomicPerform (u n : Nat) (s : State) : Host.Outcome State Fault Refusal :=
  let t := s.thr u
  .next (match t.stores[n]? with
    | none => s
    | some h =>
      match h.op with
      | .amo op x y d q => if s.heldReady t h && s.atomFull t h then s.atomStep u h op x y d q else s
      | .store _ => s)

end Sys2Proof.Machine
end

