-- ==== Sys2Proof/Machine/Transfers.lean ====
section
/-! DEFINITION. The events of copies, stream copies, gathers and scatters (03_memory_system_instructions.md R115 to R117 and R122 to
R126, 07_memory.md R273 to R283, 11_package.md R408). -/

namespace Sys2Proof.Machine

/-! ### An engine's accesses -/

/-- What an engine's access answers: its parts, a wait, or a fault. -/
inductive EngChk where
  | ok (ps : List Part)
  | wait
  | bad (code : Nat)

/-- Whether a location's package is reached by no link, or by one that is down (R408, R410). -/
def State.noLink (s : State) (l : Loc) : Bool :=
  match l with
  | .rem k _ => match s.linkTo k with
    | some n => (s.links.get n).down
    | none => true
  | _ => false

/-- Whether a location's link is retraining, so that traffic waits (R409). -/
def State.linkBusy (s : State) (l : Loc) : Bool :=
  match l with
  | .rem k _ => match s.linkTo k with
    | some n => (s.links.get n).retraining
    | none => false
  | _ => false

/-- Whether the runtime has refused the page of an address. -/
def refusedAt (refused : List (Nat × Nat)) (va : DWord) : Bool := refused.any (fun r => decide (r.1 ≤ va.toNat) && decide (va.toNat < r.1 + r.2))

/-- The checks of an engine's access with the walks it needs, at most `fuel` of them. A page of `refused` raises ADDR; another page
without a leaf goes to the runtime, and the access waits (R116, R286). -/
def State.engCheck (s : State) (w : Who) (q : Asker) (refused : List (Nat × Nat)) (a : Acc) (va : DWord) (n : Nat) : Nat → State × EngChk
  | 0 => (s, .wait)
  | fuel + 1 =>
    match s.check w a va n with
    | .miss m =>
      if refusedAt refused m then (s, .bad codeAddr)
      else
        let r := s.walkOnce w q a m
        if r.2 then State.engCheck r.1 w q refused a va n fuel else (r.1, .wait)
    | .bad c => (s, .bad c)
    | .ok ps =>
      match ps.filterMap (fun p => s.homeFault w.plot p.loc p.len) with
      | c :: _ => (s, .bad c)
      | [] =>
        if a == .read && s.partsClosed ps then (s, .wait)
        else if ps.any (fun p => s.noLink p.loc) then (s, .bad codeAddr)
        else if ps.any (fun p => s.linkBusy p.loc) then (s, .wait)
        else (s, .ok ps)

/-- The places of an access's parts. -/
def placesOf (ps : List Part) : List (Loc × Nat) := ps.map (fun p => (p.loc, p.len))

/-- The checks of access `k` of an engine or a node that writes at once: it also waits for its homes (R266). -/
def State.engCheckPut (s : State) (k : AccId) (w : Who) (q : Asker) (refused : List (Nat × Nat)) (a : Acc) (va : DWord) (n fuel : Nat) :
    State × EngChk :=
  match s.engCheck w q refused a va n fuel with
  | (s1, .ok ps) =>
    let r := s1.homesTry k (placesOf ps)
    (r.1, if r.2 then .ok ps else .wait)
  | r => r

/-- Whether a request to another package can leave now (R408, R409). -/
def State.linkOpen (s : State) (pkg : Nat) : Bool :=
  match s.linkTo pkg with
  | some l => !(s.links.get l).down && !(s.links.get l).retraining
  | none => false

/-- The open circuit that carries on at address `off` of package `pkg`. -/
def FabCirc.carries (f : FabCirc) (pkg x off : Nat) : Bool := f.outward && f.peer == pkg && f.ctx == x && f.addr == off && f.left != 0

/-- Send the bytes `bs` of access `k` to another package over a circuit, opened where none carries on at that address (R408). False while
the link does not take it, or no tag is free. -/
def State.circSend (s : State) (pkg x off : Nat) (c : Cause) (k : AccId) (bs : List Byte) : State × Bool :=
  let req (tag : Nat) : RemReq := ⟨tag, pkg, c.thread, .put k (pkg * 2 ^ 44 + off), s.time, false, c⟩
  let data (tag : Nat) : Packet := packetTo 7 pkg x tag off (sizeLog bs.length) 0 bs
  if !s.linkOpen pkg then (s, false)
  else match s.fabCircs.find? (fun f => f.carries pkg x off) with
    | some f =>
      ({ s with
        outbox := s.outbox ++ [data f.tag]
        remReqs := s.remReqs ++ [req f.tag]
        fabCircs := (s.fabCircs.map (fun g => if g = f then
          { g with addr := off + bs.length, left := g.left - 1, since := s.clk serviceBase } else g)).filter (fun g => g.left != 0) }, true)
    | none => match s.freeTag with
      | none => (s, false)
      | some tag =>
        ({ s with
          outbox := s.outbox ++ [packetTo 6 pkg x tag off 0 0 (leBytes 2 4095), data tag]
          remReqs := s.remReqs ++ [req tag]
          fabCircs := s.fabCircs ++ [⟨true, pkg, x, tag, off + bs.length, 4094, s.clk serviceBase⟩] }, true)

/-- Whether some part of an access lies in another package. -/
def outward (ps : List Part) : Bool := ps.any (fun p => match p.loc with | .rem _ _ => true | _ => false)

/-- Send the bytes of access `k` to the other package that its parts lie in. Nothing is sent while some part of it cannot be. -/
def State.putRemote (s : State) (x : Nat) (c : Cause) (k : AccId) (bs : List Byte) (ps : List Part) : State × Bool :=
  let r := ps.foldl (fun (r : State × Bool) p =>
    match p.loc with
    | .rem pkg o => if r.2 then r.1.circSend pkg x o c k ((bs.drop p.off).take p.len) else r
    | _ => r) (s, true)
  if r.2 then r else (s, false)

/-- What has become of access `k`, whose bytes have left for another package: nothing yet, it was performed there, or it was refused with
a reason at an address. An event of the access stands for the report that its bytes were performed (R271). -/
def State.sentEnd (s : State) (k : AccId) : Option (Option (Nat × DWord)) :=
  match s.remGot.find? (fun r => r.key == k && r.reason != 0) with
  | some r => some (some (r.reason, BitVec.ofNat 64 (3 * 2 ^ 60 + r.off)))
  | none => if s.remReqs.any (fun r => !r.late && (match r.kind with | .addTo j _ => j == k | _ => false)) then none else some none

/-- The requests and answers of access `k` are done with. -/
def State.forgetSent (s : State) (k : AccId) : State :=
  { s.forgetAns k with remReqs := s.remReqs.filter (fun r => match r.kind with
    | .put j _ => j != k || r.late
    | _ => true) }

/-- Write bytes at the parts of an access inside the package, whose P is now (R266). -/
def State.writeParts (s : State) (plot : Nat) (bs : List Byte) (ps : List Part) : State :=
  ps.foldl (fun s p => (s.homeStore plot p.loc ((bs.drop p.off).take p.len)).notePerformed p.loc p.len) s

/-! ### Copies -/

/-- Change the copy `id` of core `c`. -/
def State.modCopy (s : State) (c id : Nat) (f : Copy → Copy) : State :=
  s.modCore c (fun q => { q with copies := q.copies.map (fun k => if k.id = id then f k else k) })

/-- Change the copy `q` after its piece `k` has been performed or given up. -/
def Copy.ended (q : Copy) (k now : Nat) : Copy := { q with done := q.done.set k (now + 1), sent := q.sent.set k false }

/-- A piece of a copy that cannot be performed: reported, skipped, and counted off with ERR (DESIGN CHOICE, notes/assumptions/24.md). -/
def State.copySkip (s : State) (c : Nat) (q : Copy) (k code : Nat) (va : DWord) : State :=
  let n := (q.desc.piece k).2.2
  let took := min n (s.remain q.plot q.desc.bobj)
  ((s.imprecise q.thread code q.pc va 0).countOff q.plot q.desc.bobj n true).modCopy c q.id (fun q =>
    { q.ended k s.time with counted := q.counted.set k true, ncount := q.ncount + took })

/-- Piece `k` of a copy has been performed. -/
def State.copyDone (s : State) (c : Nat) (q : Copy) (k : Nat) : State :=
  ((s.forgetSent (.copy c q.id k)).modCopy c q.id (fun q => q.ended k s.time)).modPlot q.plot (fun p => { p with cpyDone := max p.cpyDone s.time })

/-- Perform piece `k` of a copy (R123, R271, R277, R278): its source is read, in another package by a request, and its bytes are written at
their home or sent to another package. -/
def State.copyPiece (s : State) (c : Nat) (q : Copy) (k : Nat) : State :=
  let w := s.whoPlot q.plot
  let ask := s.askEngine (s.plots.get q.plot) q.thread 3
  let e := q.desc.piece k
  let dst := BitVec.ofNat 64 e.1
  let src := BitVec.ofNat 64 e.2.1
  let id : AccId := .copy c q.id k
  match s.engCheck w ask q.refused .write dst e.2.2 (pageFuel e.2.2) with
  | (s1, .wait) => s1
  | (s1, .bad code) => s1.copySkip c q k code dst
  | (s1, .ok ps) =>
    match s1.engCheck w ask q.refused .read src e.2.2 (pageFuel e.2.2) with
    | (s2, .wait) => s2
    | (s2, .bad code) => s2.copySkip c q k code src
    | (s2, .ok ss) =>
      match s2.fetchParts q.ctx q.plot ⟨q.thread, q.plot, q.pc, src, 0, (0, 0)⟩ id ss with
      | (s3, .wait) => s3
      | (s3, .bad reason va) => (s3.forgetAns id).copySkip c q k (refusalCode reason) va
      | (s3, .ok bs) =>
        if outward ps then
          let r := s3.putRemote q.ctx ⟨q.thread, q.plot, q.pc, dst, 0, (0, 0)⟩ id bs ps
          if r.2 then (r.1.forgetAns id).modCopy c q.id (fun q => { q with sent := q.sent.set k true }) else r.1
        else
          let r := s3.homesTry id (placesOf ps)
          if r.2 then (r.1.writeParts q.plot bs ps).copyDone c q k else r.1

/-- Piece `k` of a copy has left for another package: its report, or its refusal (R129, R274, R410). -/
def State.copyAway (s : State) (c : Nat) (q : Copy) (k : Nat) : State :=
  match s.sentEnd (.copy c q.id k) with
  | none => s
  | some none => s.copyDone c q k
  | some (some (reason, va)) => (s.forgetSent (.copy c q.id k)).copySkip c q k (refusalCode reason) va

/-- Count piece `k` of a copy off its barrier object, and set the full bit of a line whose last byte it was (R122, R123, R274). -/
def State.copyCount (s : State) (c : Nat) (q : Copy) (k : Nat) : State :=
  let e := q.desc.piece k
  let counted := q.counted.set k true
  let took := min e.2.2 (s.remain q.plot q.desc.bobj)
  let s1 := (s.countOff q.plot q.desc.bobj e.2.2 false).modCopy c q.id (fun q => { q with counted := counted, ncount := q.ncount + took })
  let line := e.1 % 2 ^ 60 / 128
  if q.desc.setfull && e.1 / 2 ^ 60 == 1
      && q.desc.pieces.all (fun i => (q.desc.piece i).1 % 2 ^ 60 / 128 != line || counted.get i) then
    s1.modPlot q.plot (fun p => p.setFull true line 1)
  else s1

/-- Meaning of COPY_BYTES_PERFORM (R123, R274, R278): piece `k` of copy `n` of core `c` is performed at its home, or leaves for another
package and is performed there by the next event; a later event of the same piece counts it off, once device time has passed its GWCT. -/
def execCopyBytesPerform (c n k : Nat) (s : State) : Host.Outcome State Fault Refusal :=
  .next (match (s.cores.get c).copies.find? (fun q => q.id == n) with
    | none => s
    | some q =>
      if (q.desc.piece k).2.2 = 0 ∨ !s.clockRuns c ∨ !(s.plots.get q.plot).resident then s
      else if q.sent.get k then s.copyAway c q k
      else if q.done.get k = 0 then s.copyPiece c q k
      else if !q.counted.get k ∧ q.done.get k ≤ s.time then s.copyCount c q k
      else s)

/-- Meaning of COPY_RETIRE (R124): a copy whose bytes are all performed and counted off frees its scoreboard entry, which a restored copy
that waits for one takes. -/
def execCopyRetire (c n : Nat) (s : State) : Host.Outcome State Fault Refusal :=
  .next (match (s.cores.get c).copies.find? (fun q => q.id == n) with
    | none => s
    | some q =>
      if q.desc.pieces.all (fun k => q.counted.get k) then
        (s.modCore c (fun k => { k with copies := k.copies.filter (fun x => x.id != n) })).restartSaved c
      else s)

/-! ### Stream copies -/

/-- Change stream `h` of core `c`. -/
def State.modStream (s : State) (c h : Nat) (f : Strm → Strm) : State := s.modCore c (fun q => { q with streams := q.streams.modify h f })

/-- Four bytes of stream `h` are in place, or, where they cannot be read, the rest of their line is given up (DESIGN CHOICE,
notes/assumptions/24.md). -/
def State.streamWord (s : State) (c h : Nat) (m : Strm) (bs : Option (List Byte)) : State :=
  let at_ := m.ring + m.next % m.nslot * (128 * m.slotB) + m.pos
  let s1 := match bs with
    | some b => s.scrWrite m.plot at_ b
    | none => s
  ((s1.forgetAns (.stream c h (128 * m.slotB * m.next + m.pos))).modStream c h (fun m =>
    { m with pos := if bs.isSome then m.pos + 4 else (m.pos / 128 + 1) * 128, posAt := s.time + 1, err := m.err || bs.isNone })).modPlot m.plot
      (fun p => { p with cpyDone := max p.cpyDone s.time })

/-- A line of stream `h` is in place and device time has passed the instants of its bytes: its full bit is set and its bytes are counted off
(R125, R274, R279). With its last line a tile is filled. -/
def State.streamLine (s : State) (c h : Nat) (m : Strm) : State :=
  let k := m.next % m.nslot
  let line := m.ring / 128 + k * m.slotB + (m.pos / 128 - 1)
  ((s.modPlot m.plot (fun p => p.setFull true line 1)).countOff m.plot m.bobj 128 m.err).modStream c h (fun m =>
    if m.pos = 128 * m.slotB then { m with pos := 0, posAt := 0, err := false, next := m.next + 1, slots := m.slots.set k (.filled m.next) }
    else { m with posAt := 0, err := false })

/-- The next four bytes of a stream's tile, in ascending address order (R125, R271, R275, R279). -/
def State.streamFill (s : State) (c h : Nat) (m : Strm) : State :=
  let src := BitVec.ofInt 64 ((m.src.toNat : Int) + m.tstride * m.next + m.pos)
  let id : AccId := .stream c h (128 * m.slotB * m.next + m.pos)
  let skip (s : State) (code : Nat) (va : DWord) : State := (s.imprecise m.thread code m.pc va 0).streamWord c h m none
  match s.engCheck (s.whoPlot m.plot) (s.askEngine (s.plots.get m.plot) m.thread 3) m.refused .read src 4 2 with
  | (s1, .wait) => s1
  | (s1, .bad code) => skip s1 code src
  | (s1, .ok ps) =>
    match s1.fetchParts m.ctx m.plot ⟨m.thread, m.plot, m.pc, src, 0, (0, 0)⟩ id ps with
    | (s2, .wait) => s2
    | (s2, .bad reason va) => skip s2 (refusalCode reason) va
    | (s2, .ok bs) => s2.streamWord c h m (some bs)

/-- Meaning of STREAM_SLOT_FILL (R125, R274, R279, R280): the next four bytes of the tile that the engine fills, or, where they ended a line,
the line's bit and count. -/
def execStreamSlotFill (c h : Nat) (s : State) : Host.Outcome State Fault Refusal :=
  let m := (s.cores.get c).streams.get h
  let p := s.plots.get m.plot
  .next (if m.active && p.resident && p.switching.isNone && s.clockRuns c && decide (m.next < m.ntile) && decide (m.next < m.freed + m.nslot)
      && (m.slots.get (m.next % m.nslot)) == .ready then
      if m.posAt ≠ 0 ∧ m.pos % 128 = 0 then (if m.posAt ≤ s.time then s.streamLine c h m else s) else s.streamFill c h m
    else s.restartSaved c)

/-- Meaning of FREED_SLOT_NOTICE (R126, R280): the oldest notice under way arrives. -/
def execFreedSlotNotice (c h : Nat) (s : State) : Host.Outcome State Fault Refusal :=
  let m := (s.cores.get c).streams.get h
  .next (if m.active then
      match ((List.range m.nslot).map (fun i => (m.freed + i) % m.nslot)).find? (fun k => m.slots.get k == .noticed) with
      | some k => s.modStream c h (fun m => { m with slots := m.slots.set k .ready })
      | none => s
    else s)

/-! ### Gathers and scatters -/

/-- Change the gather or scatter with number `n` of plot `p`. -/
def State.modGs (s : State) (p n : Nat) (f : Gs → Gs) : State :=
  s.modPlot p (fun q => { q with gss := q.gss.map (fun g => if g.seq = n then f g else g) })

/-- Element `i` is performed now. -/
def State.gsMark (s : State) (p : Nat) (g : Gs) (i : Nat) : State :=
  ((s.forgetSent (.gs p g.seq i)).modGs p g.seq (fun g => { g with done := g.done.set i (s.time + 1), sent := g.sent.set i false })).modPlot p
    (fun q => { q with gsDone := max q.gsDone s.time })

/-- Count element `i` off, and let go of an operation whose elements are all counted off (R115, R122). -/
def State.gsCount (s : State) (p : Nat) (g : Gs) (i : Nat) : State :=
  let s1 := (s.countOff p g.bobj g.esz (g.errs.get i)).modGs p g.seq (fun g => { g with counted := g.counted.set i true })
  s1.modPlot p (fun q => { q with gss := q.gss.filter (fun g => !(List.range g.count).all (fun i => g.counted.get i)) })

/-- An element that cannot be performed: reported, skipped, a gather's place filled with zeros, and counted off with ERR (R116). It waits
while that place cannot be written. -/
def State.gsSkip (s : State) (p : Nat) (g : Gs) (i code : Nat) (va : DWord) (dense : List Part) : State :=
  let ps := if g.scatter then [] else dense
  let r := s.homesTry (.gs p g.seq i) (placesOf ps)
  if r.2 then
    (((r.1.imprecise g.thread code g.pc va 0).writeParts p (List.replicate g.esz 0) ps).gsMark p g i).modGs p g.seq
      (fun g => { g with errs := g.errs.set i true })
  else r.1

/-- Element `i` has left for another package. -/
def State.gsSent (s : State) (p : Nat) (g : Gs) (i : Nat) : State := s.modGs p g.seq (fun g => { g with sent := g.sent.set i true })

/-- On whose account an element is moved. -/
def Gs.cause (g : Gs) (p : Nat) (va : DWord) : Cause := ⟨g.thread, p, g.pc, va, 0, (0, 0)⟩

/-- Scatter the element `x` to another package (R115, R271, R283): an atomic packet for an addition, else its bytes. -/
def State.gsRemote (s : State) (p : Nat) (g : Gs) (i : Nat) (ta : DWord) (x : List Byte) (table : List Part) : State :=
  let k : AccId := .gs p g.seq i
  let ctx := (s.plots.get p).ctx
  match g.aop, table with
  | some op, ⟨.rem pkg o, _, _, _⟩ :: _ =>
    let kind : RemKind := .addTo k (pkg * 2 ^ 44 + o)
    match s.sendReq pkg kind (g.cause p ta) (fun tag => packetTo 3 pkg ctx tag o (sizeLog g.esz) op.num x) with
    | (s1, some reason) => s1.gsSkip p g i (refusalCode reason) ta []
    | (s1, none) => if s1.asking kind then s1.gsSent p g i else s1
  | _, _ =>
    let r := s.putRemote ctx (g.cause p ta) k x table
    if r.2 then r.1.gsSent p g i else r.1

/-- Move element `i` between the table and the packed elements (R115, R283). -/
def State.gsMove (s : State) (p : Nat) (g : Gs) (i : Nat) (ta : DWord) (table dense : List Part) : State :=
  let k : AccId := .gs p g.seq i
  if g.scatter then
    let x := s.readParts p dense
    if outward table then s.gsRemote p g i ta x table
    else
      let r := s.homesTry k (placesOf table)
      if r.2 then (r.1.writeParts p (g.newBytes (if g.aop.isSome then s.readParts p table else []) x) table).gsMark p g i else r.1
  else
    match s.fetchParts (s.plots.get p).ctx p (g.cause p ta) k table with
    | (s1, .wait) => s1
    | (s1, .bad reason va) => s1.gsSkip p g i (refusalCode reason) va dense
    | (s1, .ok bs) =>
      let r := s1.homesTry k (placesOf dense)
      if r.2 then (r.1.writeParts p bs dense).gsMark p g i else r.1

/-- Element `i` of a scatter has left for another package: its report, or its refusal (R116, R129, R410). -/
def State.gsAway (s : State) (p : Nat) (g : Gs) (i : Nat) : State :=
  match s.sentEnd (.gs p g.seq i) with
  | none => s
  | some none => s.gsMark p g i
  | some (some (reason, va)) => s.gsSkip p g i (refusalCode reason) va []

/-- Whether an add to a host-memory element is one that PCIe does not carry (R109). -/
def Gs.hostBad (g : Gs) (ps : List Part) : Bool :=
  match g.aop with
  | none => false
  | some op => ps.any (fun q => match q.loc with | .host _ => !hostAtomicOk op g.esz | _ => false)

/-- Perform element `i` of a gather or scatter (R115, R116). -/
def State.gsElement (s : State) (p : Nat) (g : Gs) (i : Nat) : State :=
  let w := s.whoPlot p
  let ask := s.askEngine (s.plots.get p) g.thread 4
  let ia := g.index + BitVec.ofNat 64 (4 * i)
  let da := g.dense + BitVec.ofNat 64 (g.esz * i)
  match s.engCheck w ask g.refused g.denseAcc da g.esz 3 with
  | (s1, .wait) => s1
  | (s1, .bad c) => s1.gsSkip p g i c da []
  | (s1, .ok dps) =>
    match s1.engCheck w ask g.refused .read ia 4 2 with
    | (s2, .wait) => s2
    | (s2, .bad c) => s2.gsSkip p g i c ia dps
    | (s2, .ok ips) =>
      let ta := g.table + BitVec.ofNat 64 (leNat (s2.readParts p ips) * g.esz)
      match s2.engCheck w ask g.refused g.tableAcc ta g.esz 3 with
      | (s3, .wait) => s3
      | (s3, .bad c) => s3.gsSkip p g i c ta dps
      | (s3, .ok tps) => if g.hostBad tps then s3.gsSkip p g i codeHostAtomic ta dps else s3.gsMove p g i ta tps dps

/-- Whether element `i` of an operation may be performed now: earlier operations of its handle are done, and a scatter whose order matters
takes its elements in index-list order (R115, R117, R368). -/
def Plot.gsMay (p : Plot) (g : Gs) (i : Nat) : Bool :=
  !p.gss.any (fun h => h.handle == g.handle && decide (h.seq < g.seq))
  && (!g.scatter || g.op == 1 || (List.range i).all (fun j => g.done.get j != 0))

/-- Meaning of GS_ELEMENT_PERFORM (R115, R122, R283): element `i` of operation `n` of plot `p` is performed, or leaves for another package and
is performed there by a later event; the event after that counts it off, once device time has passed its GWCT. -/
def execGsElementPerform (p n i : Nat) (s : State) : Host.Outcome State Fault Refusal :=
  let q := s.plots.get p
  .next (match q.gss.find? (fun g => g.seq == n) with
    | none => s
    | some g =>
      if g.count ≤ i ∨ !q.resident then s
      else if g.sent.get i then s.gsAway p g i
      else if g.done.get i = 0 then (if q.gsMay g i then s.gsElement p g i else s)
      else if !g.counted.get i ∧ g.done.get i ≤ s.time then s.gsCount p g i
      else s)

end Sys2Proof.Machine
end

