-- ==== Sys2Proof/Machine/Image.lean ====
section
/-! DEFINITION. Placement images: their layout (08_trellis.md R308 to R311), the slot and switch words (01_words.md R48 to R52), the checks
of `cfgld` (R53, R201, R311, R336), and `cfgld` and `cfg.drop` (03_memory_system_instructions.md R134, R135, R312, R313, R345). -/

namespace Sys2Proof.Machine

/-! ### Slot words (R48) -/

def slotDst0 (v : DWord) : Nat := bits v.toNat 54 10
def slotDst1 (v : DWord) : Nat := bits v.toNat 44 10
def slotPort0 (v : DWord) : Nat := bits v.toNat 42 2
def slotPort1 (v : DWord) : Nat := bits v.toNat 40 2
def slotPm (v : DWord) : Nat := bits v.toNat 37 3
def slotTop (v : DWord) : Nat := bits v.toNat 34 3
def slotOpw (v : DWord) : Word := v.lo

/-- Major opcode of an operation word. -/
def opMajor (w : Word) : Nat := w.toNat / 2 ^ 26

/-- Whether a major stands in A format, with NW in bit [3] (R28, R41). -/
def aFormat (m : Nat) : Bool := decide (m ≤ 0x07) || (decide (0x10 ≤ m) && decide (m ≤ 0x18)) || (decide (0x1C ≤ m) && decide (m ≤ 0x23))

/-- The majors that may stand in a slot (R48). -/
def slotMajor (m : Nat) : Bool := decide (m ≤ 0x29) || m == 0x2C || m == 0x2D || decide (0x3A ≤ m)

/-- The instruction of an operation word (R42, R48). -/
def slotInstr (w : Word) : Option Instr :=
  let m := opMajor w
  if m = 0x3A ∨ m = 0x3B then
    match decodeTrellis w with
    | .ok i => some i
    | .error _ => none
  else if slotMajor m then
    match decodeLoop w 0 with
    | .ok i => some i
    | .error _ => none
  else none

/-- Whether an operation sends no result (R48). -/
def noResult (i : Instr) : Bool :=
  match i with
  | .st _ | .stq _ | .stl _ | .pf _ | .tblLd _ | .tblSw _ | .cbLd _ => true
  | _ => false

/-- Whether an edge node suits a word (R197); a word that has no kind of node of its own sends to any (R51). -/
def nodeSuits (i : Instr) (x : Nat) : Bool :=
  match i with
  | .redCfg _ => decide (16 ≤ x) && decide (x ≤ 23)
  | .agen _ => decide (x ≤ 15)
  | .emit _ _ => decide (28 ≤ x)
  | .wadapt _ => decide (24 ≤ x) && decide (x ≤ 27)
  | _ => true

/-- Whether a word must go to an edge node (R197). -/
def wantsEdge (i : Instr) : Bool :=
  match i with
  | .redCfg _ | .agen _ | .emit _ _ | .wadapt _ => true
  | _ => false

/-- Elements in one lane under a link-word format tag (R201). -/
def perLane (fmt : Nat) : Nat := if fmt = 0 then 1 else if fmt ≤ 2 then 8 else if fmt ≤ 4 then 5 else 4

/-- The grid slot that width adapter `x` sends the first part of its result to (R336): the ten bits of a destination that names the adapter,
32 × x, read as R48 reads a grid slot, which is slot 0 of element 2x (DESIGN CHOICE, notes/assumptions/45.md). -/
def adaptDst (x : Nat) : Nat := 32 * x

/-- Whether a register field may stand in a slot (R49): every register of a source is a port, a constant or
`zero`, and a destination is reserved. -/
def slotField (e : Role × BitVec 6) : Bool :=
  match e.1 with
  | .dst _ | .dstQuad | .nupGrp _ => e.2 == 0
  | r => e.2 == 62 || (List.range r.span).all (fun k => slotSrc (e.2 + BitVec.ofNat 6 k))

/-- The checks of an operation word (R49, R53, R197). -/
def slotInstrOk (w : Word) (i : Instr) (pm : Nat) : Bool :=
  let sh := shape i
  sh.g == 7 && !sh.wantsLit && sh.fields.all slotField && !(aFormat (opMajor w) && w.getLsbD 3)
  && match i with
    | .merge _ _ | .steer _ => pm == 0
    | _ => true

/-- The checks of a slot's destinations (R48, R51, R197). The parts of a width adapter's result, at most 8 from slot 0 on, never fall outside
an element's slots (R336). -/
def slotDstOk (v : DWord) (i : Instr) : Bool :=
  if noResult i then slotDst0 v == 0 && slotDst1 v == 0 && slotPort0 v == 0 && slotPort1 v == 0
  else if slotTop v = 7 then
    slotDst0 v % 32 == 0 && slotDst1 v % 32 == 0 && slotPort0 v == 0 && slotPort1 v == 0
      && nodeSuits i (slotDst0 v / 32) && nodeSuits i (slotDst1 v / 32)
  else !wantsEdge i

/-- Whether a slot word passes the checks of R53. -/
def slotOk (v : DWord) : Bool :=
  decide (slotPm v ≤ 4) && [0, 1, 2, 7].contains (slotTop v) && bits v.toNat 32 2 == 0
  && match slotInstr (slotOpw v) with
    | some i => slotInstrOk (slotOpw v) i (slotPm v) && slotDstOk v i
    | none => false

/-! ### Switch words (R52) -/

/-- Whether a vector or control switch word is valid: codes 0 to 5, and no output its own direction. LOCAL, NORTH, EAST, SOUTH, WEST
are codes 5, 1, 2, 3 and 4. -/
def switchOk (w : Nat) : Bool :=
  [(12, 5), (9, 1), (6, 2), (3, 3), (0, 4)].all (fun e => decide (bits w e.1 3 ≤ 5) && bits w e.1 3 != e.2)

/-- Whether the three switch words of an element are valid. -/
def Elem.switchesOk (e : Elem) : Bool := e.scalar % 2 ^ 15 == 0 && switchOk e.vector && switchOk e.control

/-- The input that an output of a switch word carries (R52); outputs and inputs are 1 north, 2 east, 3 south, 4 west, 5 the element. -/
def switchField (w d : Nat) : Nat := if d = 5 then bits w 12 3 else bits w (12 - 3 * d) 3

/-- The element next to element `e` in a direction (R48); row 0 is the northernmost and column 0 the westernmost (DESIGN CHOICE,
notes/assumptions/101.md). -/
def neighbour (e d : Nat) : Option Nat :=
  if d = 1 then (if 8 ≤ e then some (e - 8) else none)
  else if d = 2 then (if e % 8 < 7 then some (e + 1) else none)
  else if d = 3 then (if e < 56 then some (e + 8) else none)
  else if d = 4 then (if 1 ≤ e % 8 then some (e - 1) else none)
  else none

/-- The opposite direction. -/
def opposite (d : Nat) : Nat := if d = 1 then 3 else if d = 2 then 4 else if d = 3 then 1 else 2

/-- The element whose tokens arrive at input `i` of element `e`, along the static routes of the switch words `w` (R52, R317). -/
def sourceOf (w : Nat → Nat) : Nat → Nat → Nat → Option Nat
  | 0, _, _ => none
  | fuel + 1, e, i =>
    if i = 5 then some e
    else match neighbour e i with
      | none => none
      | some n => if bit (w n) 15 then sourceOf w fuel n (switchField (w n) (opposite i)) else none

/-- The switch word of an element for the scalar (0), vector (1) or control (2) network. -/
def Image.switchWord (im : Image) (net e : Nat) : Nat :=
  let x := im.elems.get e
  if net = 0 then x.scalar else if net = 1 then x.vector else x.control

/-- Whether a network carries what element `a` sends to element `b` (R52, R317): the scalar network routes by header where both are
enabled, the others along the static route that `b` listens to; what stays inside an element needs no network. -/
def Image.carries (im : Image) (net a b : Nat) : Bool :=
  let w := im.switchWord net
  a == b || (bit (w b) 15 && (if net = 0 then bit (w a) 15 else sourceOf w 320 b (switchField (w b) 5) == some a))

/-! ### Reading an image -/

/-- The element record at byte `o` and where the next one begins (R309). -/
def elemRec (bs : List Byte) (o : Nat) : Elem × Nat :=
  let r := bs.drop o
  let mask := leNat (r.take 2)
  let used := (List.range 16).filter (fun i => bit mask i)
  ({ slots := (used.zipIdx).foldl (fun m e => m.set e.1 (BitVec.ofNat 64 (word64 r (40 + 8 * e.2)))) []
     consts := (List.range 8).foldl (fun m i => m.set i (BitVec.ofNat 32 (word32 r (8 + 4 * i)))) []
     scalar := leNat ((r.drop 2).take 2)
     vector := leNat ((r.drop 4).take 2)
     control := leNat ((r.drop 6).take 2) }, o + 40 + 8 * used.length)

/-- The element area (R309), and where it ends. -/
def elemArea (bs : List Byte) (mask o : Nat) : FMap Elem × Nat :=
  ((List.range 64).filter (fun i => bit mask i)).foldl (fun r i =>
    let e := elemRec bs r.2
    (r.1.set i e.1, e.2)) ([], o)

/-- The map entries (R310). -/
def mapArea (bs : List Byte) (o : Nat) : List DWord :=
  (List.range (word32 bs o)).map (fun i => BitVec.ofNat 64 (word64 bs (o + 4 + 8 * i)))

/-- The edge records by node (R311). -/
def edgeArea (bs : List Byte) (mask o : Nat) : FMap Nat :=
  (((List.range 32).filter (fun i => bit mask i)).zipIdx).foldl (fun m e => m.set e.1 (leNat ((bs.drop (o + 16 * e.2)).take 16))) []

/-- The fields of an image header (R308). -/
def hdrElmask (bs : List Byte) : Nat := word64 bs 8
def hdrEdgemask (bs : List Byte) : Nat := word32 bs 16
def hdrEloff (bs : List Byte) : Nat := word32 bs 56
def hdrMapoff (bs : List Byte) : Nat := word32 bs 60
def hdrEdgeoff (bs : List Byte) : Nat := word32 bs 64
def hdrLength (bs : List Byte) : Nat := word32 bs 68

/-- The image that bytes stand for (R308 to R311). -/
def parseImage (bs : List Byte) : Image where
  captured := bit (word32 bs 4) 0
  saved := bit (word32 bs 4) 1
  spred := word32 bs 20
  head := BitVec.ofNat 64 (word64 bs 24)
  althalf := BitVec.ofNat 64 (word64 bs 32)
  altqtr := BitVec.ofNat 64 (word64 bs 40)
  orig := BitVec.ofNat 64 (word64 bs 48)
  colours := bits (word32 bs 72) 0 5
  elems := (elemArea bs (hdrElmask bs) (hdrEloff bs)).1
  map := mapArea bs (hdrMapoff bs)
  edges := edgeArea bs (hdrEdgemask bs) (hdrEdgeoff bs)

/-! ### The checks of an image -/

/-- A header that `cfgld` takes (R308): format, reserved fields, length and colours. -/
def headerOk (bs : List Byte) : Bool :=
  word32 bs 0 == 1 && word32 bs 4 / 4 == 0 && decide (128 ≤ hdrLength bs) && decide (hdrLength bs ≤ 2 ^ 20)
  && decide (1 ≤ word32 bs 72) && decide (word32 bs 72 ≤ 16) && ((bs.drop 76).take 52).all (· == 0)

/-- Whether the three areas lie inside the image (R308). -/
def areasOk (bs : List Byte) : Bool :=
  let n := hdrLength bs
  decide ((elemArea bs (hdrElmask bs) (hdrEloff bs)).2 ≤ n)
  && decide (hdrMapoff bs + 4 ≤ n) && decide (hdrMapoff bs + 4 + 8 * word32 bs (hdrMapoff bs) ≤ n)
  && decide (hdrEdgeoff bs + 16 * ((List.range 32).filter (fun i => bit (hdrEdgemask bs) i)).length ≤ n)

/-- A map entry's reserved fields (R310). -/
def mapOk (v : DWord) : Bool :=
  let n := v.toNat
  let k := bits n 0 3
  decide (k ≤ 4) && !bit n 3 && (k == 3 || bits n 4 2 == 0) && !bit n 23 && bits n 28 4 == 0
  && (decide (bits n 6 7 < 60) || (decide (64 ≤ bits n 6 7) && decide (bits n 6 7 ≤ 70)) || decide (3 ≤ k))

/-- An edge record's reserved fields (R311). -/
def edgeOk (x r : Nat) : Bool :=
  if x < 16 then bits r 1 3 == 0 && r / 256 == 0
  else if x < 28 then r == 0
  else bits r 1 15 == 0 && decide (1 ≤ bits r 16 12) && bits r 28 4 == 0 && r / 2 ^ 40 == 0

/-- Whether every word and record of an image passes (R53, R310, R311). -/
def Image.ok (im : Image) : Bool :=
  im.elems.all (fun e => e.2.switchesOk && e.2.slots.all (fun v => slotOk v.2))
  && im.map.all mapOk && im.edges.all (fun e => edgeOk e.1 e.2)

/-- The operation words of an image. -/
def Image.words (im : Image) : List Word := im.elems.flatMap (fun e => e.2.slots.map (fun v => slotOpw v.2))

/-! ### The state appended to a saved image (DESIGN CHOICE, notes/assumptions/46.md) -/

/-- A list of numbers with its length before it, and lists of them. -/
def packList (l : List Nat) : List Nat := l.length :: l
def packLists (ls : List (List Nat)) : List Nat := ls.length :: ls.flatMap packList

/-- A list read back, with what follows it. -/
def takeList (l : List Nat) : List Nat × List Nat := (l.tail.take (l.headD 0), l.tail.drop (l.headD 0))
def takeLists (l : List Nat) : List (List Nat) × List Nat :=
  (List.range (min (l.headD 0) l.length)).foldl (fun r _ => (r.1 ++ [(takeList r.2).1], (takeList r.2).2)) ([], l.tail)

/-- The lanes of a layout as numbers, and back. -/
def layoutNats (l : List Word) : List Nat := (List.range 11).map (fun i => (l.getD i 0).toNat)
def natWords (l : List Nat) : List Word := l.map (BitVec.ofNat 32)

/-- An address generator (R334): node, flags, colour, tag, indices and layout, and the layout to follow. -/
def agenNats (x : Nat) (a : Agen) : List Nat :=
  [x, b2n a.active + 2 * b2n a.bad + 4 * b2n a.nextL.isSome, a.colour, a.tag] ++ (List.range 4).map (fun i => a.it.getD i 0) ++ layoutNats a.layout
    ++ match a.nextL with
      | some (c, t, l) => c :: t :: layoutNats l
      | none => []

/-- An address generator read back. -/
def agenOf (l : List Nat) : Agen :=
  let f := l.getD 1 0
  let n := l.drop 19
  ⟨bit f 0, l.getD 2 0, l.getD 3 0, natWords ((l.drop 8).take 11), (l.drop 4).take 4,
    if bit f 2 then some (n.getD 0 0, n.getD 1 0, natWords ((n.drop 2).take 11)) else none, bit f 1⟩

/-- A configuration of a reduction element as a number, and back. -/
def redCfgNat (c : Option RedCfg) : Nat :=
  match c with
  | none => 0
  | some c => 1 + 2 * c.op + 16 * c.level + 64 * c.dst + 65536 * c.port
def redCfgOf (n : Nat) : Option RedCfg := if bit n 0 then some ⟨bits n 1 3, bits n 4 2, bits n 6 10, bits n 16 2⟩ else none

/-- A reduction element (R335): node, poison, arrivals, both configurations and the lanes of its partials. Of the count of arrivals, only
whether it is 0 and its value modulo 4 matter. -/
def redNats (x : Nat) (r : Red) : List Nat :=
  [x, b2n r.poison, if r.j < 4 then r.j else r.j % 4 + 4, redCfgNat r.cfg, redCfgNat r.nextCfg]
    ++ packLists ((List.range 4).map (fun i => (r.parts.get i).map (·.toNat)))

/-- A reduction element read back. -/
def redOf (l : List Nat) : Red :=
  let ps := (takeLists (l.drop 5)).1
  ⟨redCfgOf (l.getD 3 0), redCfgOf (l.getD 4 0),
    (List.range 4).foldl (fun m i => m.set i (natWords (ps.getD i []))) [], l.getD 2 0, bit (l.getD 1 0) 0⟩

/-- An optional word as two numbers, and back. -/
def optNats (w : Option Word) : List Nat :=
  match w with
  | some v => [1, v.toNat]
  | none => [0, 0]
def optOf (a b : Nat) : Option Word := if a = 0 then none else some (BitVec.ofNat 32 b)

/-- A coordinate node (R200): its key, positions and last coordinates. -/
def fibNats (k : Nat) (f : Fib) : List Nat := [k, f.posA, f.posB] ++ optNats f.lastA ++ optNats f.lastB
def fibOf (l : List Nat) : Fib := ⟨l.getD 1 0, l.getD 2 0, optOf (l.getD 3 0) (l.getD 4 0), optOf (l.getD 5 0) (l.getD 6 0)⟩

/-- An ingress tap (R337): its node, next tag, whether its stream has ended, and the tokens that it has accepted and not sent. -/
def tapNats (q : Cfg) (x : Nat) : List Nat :=
  [x, q.tapTag.get x, b2n (q.tapEnd.get x)] ++ (q.tapBuf.get x).flatMap (fun v => [v.lo.toNat, v.hi.toNat])
def tapTokens : List Nat → List DWord
  | a :: b :: l => DWord.mk (BitVec.ofNat 32 b) (BitVec.ofNat 32 a) :: tapTokens l
  | _ => []

/-- Colours that a configuration holds on a core (R332): its number for each, and its grant. -/
def Grid.grantNats (g : Grid) (q : Cfg) : List (List Nat) :=
  (g.colours.filter (fun e => e.2.taken && e.2.pel == 0 && e.2.ctx == q.ctx && e.2.handle == q.handle)).map (fun e => [e.2.num, e.2.grant])

/-- The state of a configuration as numbers of 32 bits (R342): address generators, reduction elements, width adapters, coordinate nodes,
taps, and grants. -/
def Cfg.stateNats (q : Cfg) (g : Grid) : List Nat :=
  packLists (q.agens.map (fun e => agenNats e.1 e.2)) ++ packLists (q.reds.map (fun e => redNats e.1 e.2))
    ++ packLists (q.wads.map (fun e => [e.1, b2n e.2.sat, e.2.target])) ++ packLists (q.fibs.map (fun e => fibNats e.1 e.2))
    ++ packLists ((q.tapTag.keys ++ q.tapBuf.keys ++ q.tapEnd.keys).eraseDups.map (tapNats q)) ++ packLists (g.grantNats q)

/-- A map from records whose first number is the key. -/
def mapOf {α : Type} [Inhabited α] [DecidableEq α] (ls : List (List Nat)) (f : List Nat → α) : FMap α :=
  ls.foldl (fun m l => m.set (l.headD 0) (f l)) []

/-- A configuration with the state of an appendix, and the grants that it asks for. -/
def Cfg.withState (q : Cfg) (l : List Nat) : Cfg × List (Nat × Nat) :=
  let a := takeLists l
  let r := takeLists a.2
  let w := takeLists r.2
  let f := takeLists w.2
  let t := takeLists f.2
  ({ q with
    agens := mapOf a.1 agenOf
    reds := mapOf r.1 redOf
    wads := mapOf w.1 (fun l => ⟨l.getD 1 0 != 0, l.getD 2 0⟩)
    fibs := mapOf f.1 fibOf
    tapTag := mapOf t.1 (fun l => l.getD 1 0)
    tapEnd := mapOf t.1 (fun l => l.getD 2 0 != 0)
    tapBuf := mapOf t.1 (fun l => tapTokens (l.drop 3)) }, (takeLists t.2).1.map (fun l => (l.getD 0 0, l.getD 1 0)))

/-- The 32-bit words of an appendix. -/
def appendixNats (bs : List Byte) : List Nat := (List.range (bs.length / 4)).map (fun i => word32 bs (4 * i))

/-- Where the appendix of a saved image begins: after its edge records. -/
def appendixAt (bs : List Byte) : Nat := hdrEdgeoff bs + 16 * ((List.range 32).filter (fun i => bit (hdrEdgemask bs) i)).length

/-! ### Loading -/

/-- The configuration that an image becomes (R312, R345): an element that its predecessor uses is handed over later. -/
def newCfg (x h : Nat) (va : DWord) (im : Image) (seqs : FMap (List Word)) (g : Grid) (now : Nat) : Cfg :=
  let pred := g.cfgs.find? (fun q => !q.captured && q.ctx == x && q.handle == im.spred && im.spred != 0)
  { (default : Cfg) with
    handle := h, ctx := x, head := im.head, addr := va, image := im, stage := .run, lastFire := now, useqs := seqs
    shared := match pred with
      | some p => (p.image.elems.keys).filter (fun e => im.elems.keys.contains e)
      | none => [] }

/-- Colour `i` of the core goes to colour number `num` of a configuration, with `n` lanes (R332). -/
def Grid.giveColour (g : Grid) (q : Cfg) (i num n : Nat) : Grid :=
  { g with
    colours := g.colours.set i ⟨true, n, q.ctx, q.handle, num, 0⟩
    cfgs := g.cfgs.map (fun r => if r.name = q.name ∧ !r.captured then { r with colours := r.colours ++ [i] } else r) }

/-- The lowest colour that nothing holds. -/
def Grid.freeColourNo (g : Grid) : Option Nat := (List.range 16).find? (fun i => !(g.colours.get i).taken)

/-- Grant again what a saved configuration held; none where the core cannot (R332, R342). -/
def Grid.regrant (g : Grid) (q : Cfg) : List (Nat × Nat) → Option Grid
  | [] => some g
  | (num, n) :: l =>
    match g.freeColourNo with
    | none => none
    | some i => if n ≤ g.freeLanes then Grid.regrant (g.giveColour q i num n) q l else none

/-- The result of loading the image `bs` under handle `h` for context `x` on core `c`, and the state after it (R135, R312). `st` is the
appendix of a saved image, and where what it held cannot be granted again the result is 2 (DESIGN CHOICE, notes/assumptions/46.md). -/
def State.loadImage (s : State) (c x h : Nat) (va : DWord) (bs st : List Byte) : State × Nat :=
  let g := s.grids.get c
  let im := parseImage bs
  if !headerOk bs || !areasOk bs || !im.ok then (s, 1)
  else match (s.cores.get c).seqsFor x im.words with
    | none => (s, 1)
    | some m =>
      let q := newCfg x h va im m g (s.clk c)
      let r := if st.isEmpty then (q, []) else q.withState (appendixNats st)
      if isService c then (s, 2)
      else match g.place r.1 with
        | none => (s, 2)
        | some q => match Grid.regrant { g with cfgs := g.cfgs ++ [q] } q r.2 with
          | none => (s, 2)
          | some g => ({ s with grids := s.grids.set c g }, 0)

/-- The end of `cfgld`: D and the next instruction. -/
def cfgldDone (f : FA) (r : State × Nat) : Eff := .done (r.1.modThr r.1.cur (fun t => t.wr32 f.nw f.d (BitVec.ofNat 32 r.2))) 0

/-- Read `n` bytes at `va` at once, for the loader (DESIGN CHOICE, notes/assumptions/46.md). -/
def State.readNow (s : State) (u : Nat) (va : DWord) (n : Nat) (k : List Byte → Eff) : Eff :=
  let t := s.thr u
  match s.check (s.who t) .read va n with
  | .bad c => .fault c 0 va
  | .miss a => .wait s (.walk a .read)
  | .ok ps => k (s.readParts t.plot ps)

/-- `cfgld` with its image read (R135, R342): a saved image, whose own words must pass too, loads its original with the state it carries. -/
def cfgldImage (f : FA) (h : Nat) (va : DWord) (bs : List Byte) (s : State) : Eff :=
  let t := s.thr s.cur
  let c := s.coreOf t
  if bit (word32 bs 4) 1 then
    let orig : DWord := BitVec.ofNat 64 (word64 bs 48)
    if orig.toNat / 2 ^ 60 ≠ 0 ∨ orig.toNat % 128 ≠ 0 ∨ !headerOk bs ∨ !areasOk bs ∨ !(parseImage bs).ok then cfgldDone f (s, 1)
    else s.readNow s.cur orig 128 (fun hd =>
      if !headerOk hd then cfgldDone f (s, 1)
      else s.readNow s.cur orig (hdrLength hd) (fun ob => cfgldDone f (s.loadImage c t.ctx h orig ob (bs.drop (appendixAt bs)))))
  else cfgldDone f (s.loadImage c t.ctx h va bs [])

/-- Meaning of `cfgld` (R134, R135, R312): the header is read first, then the whole image. -/
def execCfgld (f : FA) : State → Host.Outcome State Fault Refusal :=
  issue (shD f 2 1 1) (fun s =>
    let t := s.thr s.cur
    let va := t.src64 f.lit f.a
    let h := (t.src32 f.lit f.b).toNat
    if va.toNat % 128 ≠ 0 ∨ va.toNat / 2 ^ 60 ≠ 0 then .fault codeAddr 0 va
    else if h = 0 ∨ 2 ^ 20 ≤ h then cfgldDone f (s, 1)
    else if (s.grids.get (s.coreOf t)).cfgs.any (fun q => !q.captured && q.ctx == t.ctx && q.handle == h) then cfgldDone f (s, 3)
    else s.withBytes s.cur va 128 (fun bs =>
      if !headerOk bs then cfgldDone f (s, 1)
      else if 128 < bs.length ∨ hdrLength bs = 128 then cfgldImage f h va bs s
      else s.readMore s.cur va (hdrLength bs) (fun bs => cfgldImage f h va bs s)))

/-- Meaning of `cfg.drop` (R134, R313): injection at the taps stops; the event CFG_DROP_DONE frees the configuration. -/
def execCfgDrop (f : FA1) : State → Host.Outcome State Fault Refusal :=
  issue (shA1 f 1 1) (fun s =>
    let t := s.thr s.cur
    let h := (t.src32 f.lit f.a).toNat
    .done (s.modGrid (s.coreOf t) (fun g => g.modCfgs
      (fun q => !q.captured && q.ctx == t.ctx && q.handle == h && q.stage != .clearing) (fun q => { q with stage := .dropping }))) 0)

end Sys2Proof.Machine
end

