-- ==== Sys2Proof/Machine/Grid.lean ====
section
/-! DEFINITION. Tokens and firing in configurations loaded by `cfgld` (01_words.md R48 to R51, 05_cadence_microcode.md R197 to R200,
08_trellis.md R314 to R321, R332, R333, R338 to R341, R343, R345, 09_numbers.md R364 to R367). -/

namespace Sys2Proof.Machine

/-! ### Operands -/

/-- The source fields of a Trellis-only word (R197). -/
def trellisSrcs (i : Instr) : List (BitVec 6) :=
  match i with
  | .calloc a | .steer a | .agen a => [a]
  | .pack a b | .merge a b | .isect a b | .unionCoord a b | .emit a b => [a, b]
  | .unpack f => [f.a, f.b]
  | .redCfg f => [f.a, f.b]
  | .eos f => [f.a]
  | .wadapt f => [f.a]
  | _ => []

/-- The ports that a field of `n` registers from `v` on names. -/
def fieldPorts (v n : Nat) : List Nat := (List.range 4).filter (fun p => decide (v ≤ p) && decide (p < v + n))

/-- Whether a word reads the port-3 token as its predicate besides PM (R49, R197). -/
def readsPred (i : Instr) : Bool :=
  match i with
  | .merge _ _ | .steer _ => true
  | .sel f => f.p != 7
  | _ => false

/-- The ports that a slot's firing needs (R321). -/
def slotPorts (i : Instr) (pm : Nat) : List Nat :=
  let named := ((shape i).fields.flatMap (fun e => match e.1 with
      | .dst _ | .dstQuad | .nupGrp _ => []
      | r => fieldPorts e.2.toNat r.span)) ++ (trellisSrcs i).flatMap (fun v => fieldPorts v.toNat 1)
  (List.range 4).filter (fun p => named.contains p || (p == 3 && (pm != 0 || readsPred i)))

/-- Whether a slot matches its operands in arrival order, whatever their tags: the coordinate words (R200). -/
def anyTag (i : Instr) : Bool :=
  match i with
  | .isect _ _ | .unionCoord _ _ => true
  | _ => false

/-- Whether an operand at an element is one for a slot's port under a colour and tag. `pack` takes its B of any colour (R197). -/
def Opd.fits (a : Opd) (q : Cfg) (i : Instr) (e sl port col tag : Nat) : Bool :=
  let t := a.tok
  q.owns t && !t.edge && t.elem == e && t.slot == sl && t.port == port && (t.tag == tag || anyTag i)
    && (t.colour == col || (match i with | .pack _ b => b.toNat == port | _ => false))

/-- The oldest such operand, with its place in the Arbours. -/
def Grid.front (g : Grid) (q : Cfg) (i : Instr) (e sl port col tag : Nat) : Option (Opd × Nat) :=
  g.arb.zipIdx.find? (fun a => a.1.fits q i e sl port col tag)

/-- The value of a token's lane 0. -/
def Tok.lane0 (t : Tok) : Word := t.lanes.headD 0

/-- A complete slot: its operands by port, each with its place (R321). -/
abbrev Found := List (Option (Opd × Nat))

/-- The operands that a slot would consume, where it is complete for a colour and tag (R197, R316, R321): every port it needs holds a
value, or every one holds a stop; `merge` needs only the port it selects, the coordinate words take any mixture, and `emit` takes a stop of A
beside a value of B (R338). A slot that needs no port never fires (DESIGN CHOICE, notes/assumptions/102.md). -/
def Grid.found (g : Grid) (q : Cfg) (i : Instr) (pm e sl col tag : Nat) : Option Found :=
  let need := slotPorts i pm
  let all : Found := (List.range 4).map (fun p => if need.contains p then g.front q i e sl p col tag else none)
  let have_ (ps : List Nat) : Bool := ps.all (fun p => (all.getD p none).isSome)
  let stop (p : Nat) : Bool := match all.getD p none with
    | some a => a.1.tok.stop != 0
    | none => false
  let only (ps : List Nat) : Found := all.zipIdx.map (fun a => if ps.contains a.2 then a.1 else none)
  if need.isEmpty then none
  else match i with
    | .isect _ _ | .unionCoord _ _ => if have_ need then some all else none
    | .emit a _ => if have_ need && (need.all stop || need.all (fun p => !stop p || p == a.toNat)) then some all else none
    | .merge a b =>
      if !have_ [3] then none
      else if stop 3 then (if have_ need && need.all stop then some all else none)
      else
        let p := match all.getD 3 none with
          | some x => if x.1.tok.lane0 != 0 then a.toNat else b.toNat
          | none => 3
        if 4 ≤ p then some (only [3]) else if have_ [p] && !stop p then some (only [3, p]) else none
    | _ => if have_ need && (need.all stop || need.all (fun p => !stop p)) then some all else none

/-- When the last and the first of the operands arrived. -/
def Found.last (f : Found) : Nat := (f.filterMap id).foldl (fun n a => max n a.1.at_) 0
def Found.first (f : Found) : Nat := (f.filterMap id).foldl (fun n a => min n a.1.at_) (Found.last f)

/-- The Trellis without the operands of a firing; an operand spilled from the element comes back into its Arbour (R320). -/
def Grid.consume (g : Grid) (f : Found) (e : Nat) : Grid :=
  let gone := (f.filterMap id).map (·.2)
  let rest := (g.arb.zipIdx.filter (fun a => !gone.contains a.2)).map (·.1)
  let room := 64 - (rest.filter (fun a => a.tok.elem == e && !a.tok.edge && !a.spilled)).length
  let back := ((rest.zipIdx.filter (fun a => a.1.tok.elem == e && !a.1.tok.edge && a.1.spilled)).map (·.2)).take room
  { g with arb := rest.zipIdx.map (fun a => if back.contains a.2 then { a.1 with spilled := false } else a.1) }

/-! ### Colours and results -/

/-- The colour of the core that holds the grant of a configuration's colour number (R332). -/
def Grid.grant (g : Grid) (q : Cfg) (num : Nat) : Option (Nat × Colour) :=
  g.colours.find? (fun e => e.2.taken && e.2.pel == 0 && e.2.ctx == q.ctx && e.2.handle == q.handle && e.2.num == num)

/-- Where a firing stands: its core and its configuration. -/
structure Site where
  core : Nat
  cfg : Cfg
  deriving DecidableEq, Repr, Inhabited

/-- A result token for a destination: an element's slot and port, or an edge node (R51). One without payload has the granted width (R314). -/
def Site.tok (a : Site) (f : Firing) (dst port tag : Nat) (lanes : List Word) (poison null : Bool) (stop fmt : Nat) : Tok where
  handle := a.cfg.handle
  ctx := a.cfg.ctx
  colour := f.colour
  tag := tag
  edge := slotTop f.word == 7
  elem := if slotTop f.word = 7 then dst / 32 else dst / 16
  slot := if slotTop f.word = 7 then 0 else dst % 16
  port := if slotTop f.word = 7 then 0 else port
  core := a.core
  width := if null ∨ stop ≠ 0 then f.width else max 1 lanes.length
  poison := poison
  null := null
  stop := stop
  fmt := fmt
  lanes := if null ∨ stop ≠ 0 then [] else lanes
  route := none
  src := f.elem

/-- The tags that a firing's results carry (R51). Replication reaches each tag of the colour that has a token on the grid. -/
def Site.tags (a : Site) (g : Grid) (f : Firing) : List Nat :=
  if slotTop f.word = 1 then [(f.tag + 1) % 2 ^ 16]
  else if slotTop f.word = 2 then
    ((g.toks.map id ++ g.arb.map (·.tok)).filter (fun t => a.cfg.owns t && t.colour == f.colour)).foldl
      (fun l t => if l.contains t.tag then l else l ++ [t.tag]) [f.tag]
  else [f.tag]

/-- Whether a slot word has a single destination (R48). -/
def oneDst (v : DWord) : Bool := slotDst0 v == slotDst1 v && slotPort0 v == slotPort1 v

/-- Send tokens. -/
def State.sendToks (s : State) (c : Nat) (ts : List Tok) : State := s.modGrid c (fun g => { g with toks := g.toks ++ ts })

/-- Send a result: `x` to the first destination and `y` to the second, where there is one (R48, R51). -/
def State.sendTwo (s : State) (a : Site) (f : Firing) (x y : Nat → Nat → Nat → Tok) : State :=
  let v := f.word
  let ts := (a.tags (s.grids.get a.core) f).flatMap (fun tag =>
    x (slotDst0 v) (slotPort0 v) tag :: (if oneDst v then [] else [y (slotDst1 v) (slotPort1 v) tag]))
  s.sendToks a.core ts

/-- Send one result to every destination of the slot. -/
def State.sendAll (s : State) (a : Site) (f : Firing) (lanes : List Word) (poison null : Bool) (stop fmt : Nat) : State :=
  let t (d p tag : Nat) : Tok := a.tok f d p tag lanes poison null stop fmt
  s.sendTwo a f t t

/-- An operand of a firing by its field (R49): a port's token, a constant in every lane, or zero. -/
def Site.operand (a : Site) (f : Firing) (v : BitVec 6) : Tok :=
  let n := v.toNat
  if n < 4 then (f.ports.getD n none).getD default
  else
    let k : Word := if 8 ≤ n ∧ n < 16 then (a.cfg.image.elems.get f.elem).consts.get (n - 8) else 0
    { (default : Tok) with width := 1, lanes := List.replicate 32 k, colour := f.colour, tag := f.tag }

/-! ### The Trellis-only words (R197) -/

/-- Whether a width can be granted now: the colour holds a grant, or a colour and a lane are free (R332). -/
def Grid.canGrant (g : Grid) (q : Cfg) (num : Nat) : Bool :=
  (g.grant q num).isSome || (decide (1 ≤ g.freeLanes) && g.freeColourNo.isSome)

/-- Grant `r` lanes, at most those free, to a configuration's colour; a colour that holds a grant keeps it (R332). -/
def State.grantWidth (s : State) (a : Site) (num r : Nat) : State × Nat :=
  let g := s.grids.get a.core
  match g.grant a.cfg num with
  | some e => (s, e.2.grant)
  | none =>
    match g.freeColourNo with
    | none => (s, 1)
    | some i => (s.modGrid a.core (fun g => g.giveColour a.cfg i num (min r g.freeLanes)), min r g.freeLanes)

/-- `calloc`: request a width for the operand's colour. -/
def fireCalloc (v : BitVec 6) (a : Site) (f : Firing) (s : State) : State :=
  let r := min 32 (max 1 (a.operand f v).lane0.toNat)
  let e := s.grantWidth a f.colour r
  e.1.sendAll a f (List.replicate e.2 (BitVec.ofNat 32 e.2)) (a.operand f v).poison false 0 0

/-- The lanes that a token carries. -/
def Tok.used (t : Tok) : List Word := t.lanes.take t.width

/-- `pack`: A's lanes and then B's; more than 32 are poisoned (R333). -/
def firePack (v w : BitVec 6) (a : Site) (f : Firing) (s : State) : State :=
  let x := a.operand f v
  let y := a.operand f w
  let l := x.used ++ y.used
  s.sendAll a f (l.take 32) (x.poison || y.poison || decide (32 < l.length)) false 0 x.fmt

/-- `unpack`: the first n lanes to DST0, the rest to DST1 in the static colour (R333). -/
def fireUnpack (t : TUnpack) (a : Site) (f : Firing) (s : State) : State :=
  let x := a.operand f t.a
  let n := (a.operand f t.b).lane0.toNat
  let p := x.poison || (a.operand f t.b).poison
  let v := f.word
  let tok (f : Firing) (d q tag : Nat) (l : List Word) : Tok := a.tok f d q tag l p false 0 x.fmt
  let tags := a.tags (s.grids.get a.core) f
  if n = 0 ∨ x.width ≤ n then s.sendToks a.core (tags.map (fun tag => tok f (slotDst0 v) (slotPort0 v) tag x.used))
  else s.sendToks a.core (tags.flatMap (fun tag =>
    [tok f (slotDst0 v) (slotPort0 v) tag (x.used.take n),
     tok { f with colour := t.c.toNat } (slotDst1 v) (slotPort1 v) tag (x.used.drop n)]))

/-- The predicate token of a firing: true where its lane 0 is not 0. -/
def Firing.predTok (f : Firing) : Tok := (f.ports.getD 3 none).getD default

/-- `merge`: the token that the predicate selects (R366). -/
def fireMerge (v w : BitVec 6) (a : Site) (f : Firing) (s : State) : State :=
  let x := a.operand f (if f.predTok.lane0 != 0 then v else w)
  s.sendAll a f x.used (x.poison || f.predTok.poison) x.null 0 x.fmt

/-- `steer`: to DST0 on true, to DST1 on false. -/
def fireSteer (v : BitVec 6) (a : Site) (f : Firing) (s : State) : State :=
  let x := a.operand f v
  let p := x.poison || f.predTok.poison
  let d := if f.predTok.lane0 != 0 then (slotDst0 f.word, slotPort0 f.word) else (slotDst1 f.word, slotPort1 f.word)
  s.sendToks a.core ((a.tags (s.grids.get a.core) f).map (fun tag => a.tok f d.1 d.2 tag x.used p x.null 0 x.fmt))

/-- Change the firing configuration. -/
def State.modSite (s : State) (a : Site) (h : Cfg → Cfg) : State :=
  s.modGrid a.core (fun g => g.modCfgs (fun q => !q.captured && q.name == a.cfg.name) h)

/-- The edge nodes that a slot word names (R51). -/
def slotNodes (v : DWord) : List Nat := if oneDst v then [slotDst0 v / 32] else [slotDst0 v / 32, slotDst1 v / 32]

/-- `red.cfg`: configure a reduction element, at once where it has no configuration, else after its next emission (R198);
a poisoned word configures nothing (R366). -/
def fireRedCfg (t : TRed) (a : Site) (f : Firing) (s : State) : State :=
  let b := (a.operand f t.b).lane0.toNat
  let c : RedCfg := ⟨t.o.toNat, t.l.toNat, bits b 0 10, bits b 10 2⟩
  if (a.operand f t.a).poison || (a.operand f t.b).poison then s
  else s.modSite a (fun q => { q with reds := (slotNodes f.word).foldl (fun m x =>
    m.modify x (fun r => if r.cfg.isNone then { r with cfg := some c } else { r with nextCfg := some c })) q.reds })

/-- A layout whose token is poisoned poisons every address (R199, R366). -/
def Tok.layout (t : Tok) : List Word := if t.poison then t.lanes.set 10 (t.lanes.getD 10 0 ||| 3) else t.lanes

/-- `agen`: send a layout to an address generator; one that runs takes it after its level-3 stop (R199, R334). -/
def fireAgen (v : BitVec 6) (a : Site) (f : Firing) (s : State) : State :=
  let x := a.operand f v
  let x := { x with lanes := x.layout }
  s.modSite a (fun q => { q with agens := (slotNodes f.word).foldl (fun m n =>
    m.modify n (fun g => if g.active then { g with nextL := some (f.colour, f.tag, x.lanes) }
      else ⟨true, f.colour, f.tag, x.lanes, [0, 0, 0, 0], none, false⟩)) q.agens })

/-- `eos`: a stop token of the level given, with A's tag and colour. -/
def fireEos (t : TEos) (a : Site) (f : Firing) (s : State) : State := s.sendAll a f [] false false t.l.toNat 0

/-- Send a token to the taps of an `emit` with the route word that its operand B holds: zero where that is no value (R338; DESIGN CHOICE,
notes/assumptions/48.md). -/
def State.sendEmit (s : State) (a : Site) (f : Firing) (w : BitVec 6) (lanes : List Word) (null : Bool) (stop fmt : Nat) : State :=
  let b := a.operand f w
  let route := DWord.mk (b.lanes.getD 1 0) (b.lanes.getD 0 0)
  s.sendToks a.core ((slotNodes f.word).map (fun x => { a.tok f (32 * x) 0 f.tag lanes false null stop fmt with route := some route }))

/-- `emit`: send A's token, a null or a stop too, to its taps (R316, R338); poisoned data sends nothing, and is recorded (R367). -/
def fireEmit (v w : BitVec 6) (a : Site) (f : Firing) (s : State) : State :=
  let x := a.operand f v
  let b := a.operand f w
  if x.poison || b.poison then
    (List.range x.width).foldl (fun s _ => s.cfgRecord a.core a.cfg codePoison f.elem f.slot f.tag f.colour 0) s
  else s.sendEmit a f w x.used (x.null || b.null) x.stop x.fmt

/-- `wadapt`: set the conversion of width adapters, and send them A's token (R201). -/
def fireWadapt (t : TWadapt) (a : Site) (f : Firing) (s : State) : State :=
  let x := a.operand f t.a
  let s1 := s.modSite a (fun q => { q with wads := (slotNodes f.word).foldl (fun m n => m.set n ⟨t.s, t.f.toNat⟩) q.wads })
  s1.sendAll a f x.used x.poison x.null 0 x.fmt

/-! ### Coordinate streams (R200, R339) -/

/-- A fibre's coordinate, taken: its position, and whether it is out of order. -/
def Fib.takeA (b : Fib) (x : Word) : Fib × Bool :=
  ({ b with posA := b.posA + 1, lastA := some x }, match b.lastA with | some l => !(l.ult x) | none => false)
def Fib.takeB (b : Fib) (x : Word) : Fib × Bool :=
  ({ b with posB := b.posB + 1, lastB := some x }, match b.lastB with | some l => !(l.ult x) | none => false)

/-- What one step of a coordinate node does: whether it consumes A and B, what it emits, and its state after. -/
structure CoordStep where
  useA : Bool
  useB : Bool
  out : Option (Word × Nat × Nat × Bool)
  stop : Nat
  fib : Fib
  deriving DecidableEq, Repr, Inhabited

/-- The position of a fibre that lacks a coordinate (R200). -/
def noPos : Nat := 0xFFFFFFFF

/-- One step over the oldest tokens of both fibres (R200). A coordinate out of order is emitted with poison, whether the other fibre has it
or not. -/
def coordStep (union : Bool) (b : Fib) (x y : Tok) : CoordStep :=
  if x.stop ≠ 0 ∧ y.stop ≠ 0 then
    let l := min x.stop y.stop
    ⟨x.stop == l, y.stop == l, none, l, ⟨0, 0, none, none⟩⟩
  else if y.stop ≠ 0 ∨ (x.stop = 0 ∧ x.lane0.ult y.lane0) then
    let r := b.takeA x.lane0
    ⟨true, false, if union || r.2 then some (x.lane0, b.posA, noPos, r.2 || x.poison) else none, 0, r.1⟩
  else if x.stop ≠ 0 ∨ y.lane0.ult x.lane0 then
    let r := b.takeB y.lane0
    ⟨false, true, if union || r.2 then some (y.lane0, noPos, b.posB, r.2 || y.poison) else none, 0, r.1⟩
  else
    let r := b.takeA x.lane0
    let r2 := r.1.takeB y.lane0
    ⟨true, true, some (x.lane0, b.posA, b.posB, r.2 || r2.2 || x.poison || y.poison), 0, r2.1⟩

/-- The key of a coordinate node's state: element, slot and colour. -/
def fibKey (f : Firing) : Nat := (f.elem * 16 + f.slot) * 16 + f.colour

/-- The step of the firing coordinate node. -/
def coordOf (union : Bool) (v w : BitVec 6) (a : Site) (f : Firing) : CoordStep :=
  coordStep union (a.cfg.fibs.get (fibKey f)) (a.operand f v) (a.operand f w)

/-- `isect` and `union`: coordinates to DST0, positions to DST1, and stops to both (R200). -/
def fireCoord (union : Bool) (v w : BitVec 6) (a : Site) (f : Firing) (s : State) : State :=
  let r := coordOf union v w a f
  let s1 := s.modSite a (fun q => { q with fibs := q.fibs.set (fibKey f) r.fib })
  if r.stop ≠ 0 then s1.sendAll a f [] false false r.stop 0
  else match r.out with
    | none => s1
    | some (c, p, q, bad) => s1.sendTwo a f (fun d k tag => a.tok f d k tag [c] bad false 0 0)
        (fun d k tag => a.tok f d k tag [BitVec.ofNat 32 p, BitVec.ofNat 32 q] bad false 0 0)

/-! ### A firing's own effect -/

/-- What `exec` runs a Trellis-only word on: the firing that SLOT_FIRE has set up. -/
def issueFire (body : Site → Firing → State → State) (s : State) : Host.Outcome State Fault Refusal :=
  match s.curFire with
  | none => .fault .noFiring
  | some f => .next (body ⟨s.curCore, (s.grids.get s.curCore).cfgs.getD f.cfg default⟩ f s)

/-- Meaning of `calloc` (R197, R332). -/
def execCalloc (a : BitVec 6) : State → Host.Outcome State Fault Refusal := issueFire (fireCalloc a)

/-- Meaning of `pack` (R197, R333). -/
def execPack (a b : BitVec 6) : State → Host.Outcome State Fault Refusal := issueFire (firePack a b)

/-- Meaning of `unpack` (R197, R333). -/
def execUnpack (f : TUnpack) : State → Host.Outcome State Fault Refusal := issueFire (fireUnpack f)

/-- Meaning of `merge` (R197, R366). -/
def execMerge (a b : BitVec 6) : State → Host.Outcome State Fault Refusal := issueFire (fireMerge a b)

/-- Meaning of `steer` (R197). -/
def execSteer (a : BitVec 6) : State → Host.Outcome State Fault Refusal := issueFire (fireSteer a)

/-- Meaning of `red.cfg` (R197, R198). -/
def execRedCfg (f : TRed) : State → Host.Outcome State Fault Refusal := issueFire (fireRedCfg f)

/-- Meaning of `agen` (R197, R199). -/
def execAgen (a : BitVec 6) : State → Host.Outcome State Fault Refusal := issueFire (fireAgen a)

/-- Meaning of `isect` (R197, R200). -/
def execIsect (a b : BitVec 6) : State → Host.Outcome State Fault Refusal := issueFire (fireCoord false a b)

/-- Meaning of `union` (R197, R200). -/
def execUnionCoord (a b : BitVec 6) : State → Host.Outcome State Fault Refusal := issueFire (fireCoord true a b)

/-- Meaning of `eos` (R197). -/
def execEos (f : TEos) : State → Host.Outcome State Fault Refusal := issueFire (fireEos f)

/-- Meaning of `emit` (R197, R338, R367). -/
def execEmit (a b : BitVec 6) : State → Host.Outcome State Fault Refusal := issueFire (fireEmit a b)

/-- Meaning of `wadapt` (R197, R201). -/
def execWadapt (f : TWadapt) : State → Host.Outcome State Fault Refusal := issueFire (fireWadapt f)

/-- The effect of a Trellis-only word, where the instruction is one. -/
def trellisBody (i : Instr) : Option (Site → Firing → State → State) :=
  match i with
  | .calloc a => some (fireCalloc a)
  | .pack a b => some (firePack a b)
  | .unpack f => some (fireUnpack f)
  | .merge a b => some (fireMerge a b)
  | .steer a => some (fireSteer a)
  | .redCfg f => some (fireRedCfg f)
  | .agen a => some (fireAgen a)
  | .isect a b => some (fireCoord false a b)
  | .unionCoord a b => some (fireCoord true a b)
  | .eos f => some (fireEos f)
  | .emit a b => some (fireEmit a b)
  | .wadapt f => some (fireWadapt f)
  | _ => none

end Sys2Proof.Machine
end

