-- ==== Sys2Proof/Machine/GridFire.lean ====
section
/-! DEFINITION. Firings of slots that hold thread-format words, and what every firing of a configuration does besides (01_words.md R49 to
R51, 05_cadence_microcode.md R212, 08_trellis.md R306, R314 to R324, R343, R345, R346, 09_numbers.md R364 to R367). -/

namespace Sys2Proof.Machine

/-! ### One lane of a firing -/

/-- The registers of lane `k` as an operation word sees them (R49): ports in 0 to 3, constants in 8 to 15, and every predicate that of
the port-3 token. A source of 64 bits thus reads two ports or two constants in a row (DESIGN CHOICE, notes/assumptions/102.md). -/
def laneThread (q : Cfg) (f : Firing) (k : Nat) : Thread :=
  let port (p : Nat) : Word := ((((f.ports.getD p none).getD default).lanes).getD k 0)
  let cs := (q.image.elems.get f.elem).consts
  { (default : Thread) with
    g := (List.range 8).foldl (fun m i => m.set (8 + i) (cs.get i)) ((List.range 4).foldl (fun m p => m.set p (port p)) [])
    p := if port 3 = 0 then 0 else BitVec.allOnes 7 }

/-- How many registers an operation writes. -/
def outRegs (i : Instr) : Nat :=
  ((shape i).fields.filterMap (fun e => match e.1 with
    | .dst n | .acc n | .nupGrp n => some n
    | .dstQuad => some 4
    | _ => none)).headD 1

/-- The result words of one lane (R138): the latch value, or the registers from 0 on of an operation that writes more than two. -/
def outWords (n : Nat) (r : Thread × DWord) : List Word :=
  if n ≤ 1 then [r.2.lo] else if n = 2 then [r.2.lo, r.2.hi] else (List.range n).map (fun j => r.1.g.get j)

/-- Whether an operation has raised `psn` in a thread that began without it (R365). -/
def Thread.poisoned (t : Thread) : Bool := t.fpsr &&& fPSN != 0

/-- The link-word format tag of an operation's result (R201). -/
def resultFmt (i : Instr) : Nat :=
  match i with
  | .npkE4m3 _ | .qntE4 _ | .qntE4o _ => 5
  | .npkE5m2 _ | .qntE5 _ => 6
  | .npkE3m2 _ => 3
  | .npkE2m3 _ => 4
  | .npkE2m1 _ | .qntF4 _ | .qntF4o _ => 1
  | .npkI8 _ => 7
  | .npkI4 _ => 2
  | _ => 0

/-- Send the result words of the lanes: one word of each lane to both destinations, or of several the first half to DST0 and the rest to
DST1 (DESIGN CHOICE, notes/assumptions/47.md). -/
def State.sendWords (s : State) (a : Site) (f : Firing) (n : Nat) (ls : List (List Word)) (poison : Bool) (fmt : Nat) : State :=
  let k := if n ≤ 1 ∨ oneDst f.word then n else (n + 1) / 2
  let x := ls.flatMap (fun w => w.take k)
  let y := if n ≤ 1 then x else ls.flatMap (fun w => w.drop k)
  let t (l : List Word) (d p tag : Nat) : Tok := a.tok f d p tag (l.take 32) (poison || decide (32 < l.length)) false 0 fmt
  s.sendTwo a f (t x) (t y)

/-- Whether some operand of a firing is poisoned (R366). -/
def Firing.bad (f : Firing) : Bool := f.ports.any (fun p => (p.getD default).poison)

/-- Whether a firing has a null operand (R316). -/
def Firing.null (f : Firing) : Bool := f.ports.any (fun p => (p.getD default).null)

/-- The stop level that a firing consumes. -/
def Firing.stopLevel (f : Firing) : Nat := f.ports.foldl (fun n p => max n (p.getD default).stop) 0

/-- What a firing comes to. -/
inductive FireRes where
  | done (s : State)
  | wait (s : State)
  | fault (s : State) (code : Nat) (addr : DWord)

/-- An operation that changes only registers, on every lane. -/
def fireAlu (op : Thread → Thread × DWord) (i : Instr) (a : Site) (f : Firing) (s : State) : FireRes :=
  let ks := List.range f.width
  if ks.any (fun k => gridFieldBad (laneThread a.cfg f k) i) then .fault s codeField 0
  else
    let rs := ks.map (fun k => op (laneThread a.cfg f k))
    .done (s.sendWords a f (outRegs i) (rs.map (outWords (outRegs i))) (f.bad || rs.any (fun r => r.1.poisoned)) (resultFmt i))

/-- A pure sequence on every lane (R212). A lane whose sequence commits nothing has a free value, and where none commits the result is null
(DESIGN CHOICE, notes/assumptions/47.md). -/
def firePure (ws : List Word) (x : FX) (a : Site) (f : Firing) (s : State) : FireRes :=
  let rs := (List.range f.width).map (fun k =>
    let t := laneThread a.cfg f k
    pureLane ws (t.src32 0 x.a) (t.src32 0 x.b) (t.src32 0 x.d))
  if rs.all (fun r => r.1.isNone) then .done (s.sendAll a f [] false true 0 0)
  else .done ({ s with free := s.free + f.width }.sendAll a f (rs.zipIdx.map (fun (r : (Option Word × Word) × Nat) => r.1.1.getD (Config.freeWord (s.free + r.2))))
    (f.bad || rs.any (fun r => r.2 &&& fPSN != 0)) false 0 0)

/-! ### Memory in the grid -/

/-- On whose behalf a configuration accesses memory (R323): its context, and no plot. -/
def State.whoCfg (s : State) (a : Site) : Who := ⟨a.cfg.ctx, 0, dieOf a.core, some a.core, false, (s.ctxs.get a.cfg.ctx).priv⟩

/-- Who asks for a page in the grid (R426). -/
def askCfg : Asker := ⟨0, 0xFFFFFFFF, 2, 0⟩

/-- Where a configuration makes an access: the node (64 + an edge node), slot, tag and colour number. -/
structure Spot where
  node : Nat
  slot : Nat
  tag : Nat
  colour : Nat
  deriving DecidableEq, Repr, Inhabited

/-- Where a firing makes its accesses. -/
def Firing.spot (f : Firing) : Spot := ⟨f.elem, f.slot, f.tag, f.colour⟩

/-- How access `k` of a spot is known while it waits. -/
def Site.key (a : Site) (p : Spot) (k : Nat) : AccId :=
  .node a.core a.cfg.name p.node (((p.slot * 2 ^ 16 + p.tag) * 16 + p.colour) * 64 + k)

/-- On whose account an access of a spot is made. -/
def State.nodeCause (s : State) (a : Site) (p : Spot) (va : DWord) : Cause :=
  ⟨0, 0, 0, va, gridBytes p.node p.slot p.tag a.core (s.vdieOf (dieOf a.core) a.cfg.ctx) p.colour, (a.core, a.cfg.name)⟩

/-- What the checks of the lanes answer: the parts of each access, none where a read meets an uncorrectable error. -/
inductive Chks where
  | ok (cs : List (Option (List Part)))
  | wait
  | bad (code : Nat) (va : DWord)

/-- Whether an atomic cannot be performed at the parts it names (R109). -/
def MemAct.hostBad (m : MemAct) (ps : List Part) : Bool :=
  match m with
  | .amo op n _ _ _ => ps.any (fun q => match q.loc with | .host _ => !hostAtomicOk op n | _ => false)
  | _ => false

/-- The checks of the accesses of every lane, in lane order (R94, R323). -/
def State.memChecks (s : State) (w : Who) (q : Asker) (refused : List (Nat × Nat)) : List MemOp → State × Chks
  | [] => (s, .ok [])
  | m :: ms =>
    if m.act.acc == .atomic && m.va.toNat % m.act.size != 0 then (s, .bad codeAlign m.va)
    else
      let r := s.engCheck w q refused m.act.acc m.va m.act.size (pageFuel m.act.size)
      let more (c : Option (List Part)) : State × Chks :=
        let t := State.memChecks r.1 w q refused ms
        match t.2 with
        | .ok cs => (t.1, .ok (c :: cs))
        | x => (t.1, x)
      match r.2 with
      | .wait => (r.1, .wait)
      | .bad c => if c = codeEcc ∧ m.act.acc = .read then more none else (r.1, .bad c m.va)
      | .ok ps => if m.act.hostBad ps then (r.1, .bad codeHostAtomic m.va) else more (some ps)

/-- `n` free words (DESIGN CHOICE, notes/assumptions/2.md). -/
def freeWords (k n : Nat) : List Word := (List.range n).map (fun i => Config.freeWord (k + i))

/-- An access of a node that has passed its checks: how it is known, what it does, and its parts, none where a read meets an uncorrectable
error. -/
structure NodeAcc where
  key : AccId
  op : MemOp
  ps : Option (List Part)
  deriving DecidableEq, Repr, Inhabited

/-- The parts of a node's access. -/
def NodeAcc.parts (x : NodeAcc) : List Part := x.ps.getD []

/-- What a node's accesses come to: they wait, one is refused, or the result words of each, and whether they are poisoned. -/
inductive NodeRes where
  | wait
  | bad (code : Nat) (va : DWord)
  | ok (ls : List (List Word × Bool))

/-- The results of one access before those of others; a refusal counts before a wait. -/
def NodeRes.join (r t : NodeRes) : NodeRes :=
  match r, t with
  | .bad c va, _ => .bad c va
  | .ok l, .ok ls => .ok (l ++ ls)
  | .ok _, t => t
  | .wait, .bad c va => .bad c va
  | .wait, _ => .wait

/-- The result words of a load's bytes. -/
def MemAct.loaded (m : MemAct) (bs : List Byte) : List Word :=
  match m with
  | .load (.regs d _ true) _ _ _ => [((default : Thread).landed (.regs d 1 true) bs).g.get d]
  | _ => loadWords bs ((m.size + 3) / 4)

/-- One load (R97, R271, R365). -/
def State.nodeLoad (s : State) (a : Site) (p : Spot) (x : NodeAcc) : State × NodeRes :=
  match x.ps with
  | none =>
    let n := (x.op.act.size + 3) / 4
    ({ s with free := s.free + n }, .ok [(freeWords s.free n, true)])
  | some ps => match s.fetchParts a.cfg.ctx 0 (s.nodeCause a p x.op.va) x.key ps with
    | (s1, .wait) => (s1, .wait)
    | (s1, .bad reason va) => (s1, .bad (refusalCode reason) va)
    | (s1, .ok bs) => (s1, .ok [(x.op.act.loaded bs, false)])

/-- The loads of the lanes, in lane order. -/
def State.nodeLoads (s : State) (a : Site) (p : Spot) : List NodeAcc → State × NodeRes
  | [] => (s, .ok [])
  | x :: xs =>
    let r := s.nodeLoad a p x
    let t := State.nodeLoads r.1 a p xs
    (t.1, r.2.join t.2)

/-- The bytes that a node's access stores. -/
def NodeAcc.bytes (x : NodeAcc) : List Byte :=
  match x.op.act with
  | .store bs _ => bs
  | _ => []

/-- Whether the bytes of an access have left for the other package that they go to. -/
def State.putSent (s : State) (x : NodeAcc) : Bool :=
  x.parts.all (fun p => match p.loc with
    | .rem pkg o => s.asking (.put x.key (pkg * 2 ^ 44 + o))
    | _ => true)

/-- The stores of the lanes: those to other packages are sent, and with a later event, which stands for the report that they were performed,
the others are performed at their homes (R266, R271). -/
def State.nodeStores (s : State) (a : Site) (p : Spot) (xs : List NodeAcc) : State × NodeRes :=
  if xs.all s.putSent then
    let r := s.homesTry (a.key p 0) (xs.flatMap (fun x => placesOf x.parts))
    if r.2 then (xs.foldl (fun s x => s.writeParts 0 x.bytes x.parts) r.1, .ok (xs.map (fun _ => ([], false)))) else (r.1, .wait)
  else (xs.foldl (fun s x =>
    if s.putSent x then s else (s.putRemote a.cfg.ctx (s.nodeCause a p x.op.va) x.key x.bytes x.parts).1) s, .wait)

/-- Ask another package for an atomic of a node, unless it has been asked (R271). -/
def State.nodeAsk (s : State) (a : Site) (p : Spot) (x : NodeAcc) : State :=
  match x.parts, x.op.act with
  | [⟨.rem pkg o, _, _, _⟩], .amo op n v w _ =>
    let off := pkg * 2 ^ 44 + o
    let kind : RemKind := .addTo x.key off
    if (s.gotAns x.key off).isSome || s.asking kind then s
    else match s.sendReq pkg kind (s.nodeCause a p x.op.va) (fun tag => packetTo 3 pkg a.cfg.ctx tag o (sizeLog n) op.num
        ((if op = .cas then leBytes n w.toNat else []) ++ leBytes n v.toNat)) with
      | (s1, some reason) => s1.noteAns x.key off reason []
      | (s1, none) => s1
  | _, _ => s

/-- The words of an atomic's old value. -/
def oldWords (n : Nat) (old : DWord) : List Word := if n = 8 then [old.lo, old.hi] else [old.lo]

/-- One atomic: its old value, as its other package has answered, or read now at its home, which takes the new one (R106, R326). -/
def State.nodeAmo (s : State) (x : NodeAcc) : State × List Word :=
  match x.op.act with
  | .amo op n v w _ =>
    match x.parts with
    | [⟨.rem pkg o, _, _, _⟩] => (s, oldWords n (BitVec.ofNat 64 (match s.gotAns x.key (pkg * 2 ^ 44 + o) with
        | some r => leNat (r.data.take n)
        | none => 0)))
    | ps =>
      let old := BitVec.ofNat 64 (leNat (s.readParts 0 ps))
      (s.writeParts 0 (leBytes n (atomNew op n old v w).toNat) ps, oldWords n old)
  | _ => (s, [])

/-- The atomics of the lanes, in lane order. -/
def State.nodeAmoAll (s : State) : List NodeAcc → State × List (List Word × Bool)
  | [] => (s, [])
  | x :: xs =>
    let r := s.nodeAmo x
    let t := State.nodeAmoAll r.1 xs
    (t.1, (r.2, false) :: t.2)

/-- The atomics of the lanes, once other packages have answered theirs and the homes of the rest are free (R106, R266, R271). -/
def State.nodeAmos (s : State) (a : Site) (p : Spot) (xs : List NodeAcc) : State × NodeRes :=
  let s1 := xs.foldl (fun s x => s.nodeAsk a p x) s
  let as := xs.flatMap (fun x => x.parts.filterMap (s1.partAns x.key))
  if as.any (·.isNone) then (s1, .wait)
  else match (as.filterMap id).find? (fun r => r.reason != 0) with
    | some r => (s1, .bad (refusalCode r.reason) (BitVec.ofNat 64 (3 * 2 ^ 60 + r.off)))
    | none =>
      let r := s1.homesTry (a.key p 0) (xs.flatMap (fun x => placesOf x.parts))
      if r.2 then
        let t := r.1.nodeAmoAll xs
        (t.1, .ok t.2)
      else (r.1, .wait)

/-- The accesses of a node, one for each lane, with their checks (R94, R316, R323, R326). -/
def State.nodeAccess (s : State) (a : Site) (p : Spot) (ms : List MemOp) : State × NodeRes :=
  match s.memChecks (s.whoCfg a) askCfg a.cfg.refused ms with
  | (s1, .wait) => (s1, .wait)
  | (s1, .bad c va) => (s1, .bad c va)
  | (s1, .ok cs) =>
    let xs := (ms.zip cs).zipIdx.map (fun e => (⟨a.key p e.2, e.1.1, e.1.2⟩ : NodeAcc))
    let r := match (ms.headD default).act.acc with
      | .write => s1.nodeStores a p xs
      | .atomic => s1.nodeAmos a p xs
      | _ => s1.nodeLoads a p xs
    match r.2 with
    | .wait => r
    | _ => (xs.foldl (fun s x => s.forgetSent x.key) r.1, r.2)

/-- Result words of a memory operation. -/
def MemAct.words (m : MemAct) : Nat :=
  match m with
  | .load _ n _ _ | .amo _ n _ _ _ => (n + 3) / 4
  | _ => 0

/-- The token of a firing, as trace records and breakpoints name it (R349, R350): its first operand, at the slot that fires. -/
def Site.head (a : Site) (f : Firing) : Tok :=
  { ((f.ports.filterMap id).headD default) with
    colour := f.colour, tag := f.tag, elem := f.elem, slot := f.slot, core := a.core, ctx := a.cfg.ctx }

/-- The trace record of a commit (R350), at a node and of the data `lane0`. -/
def State.traceCommit (s : State) (c node : Nat) (t : Tok) (lane0 : Nat) : State := s.trace c t.header t.ctx 5 node lane0 0

/-- The first word of what an operation stores, or adds. -/
def MemAct.data0 (m : MemAct) : Nat :=
  match m with
  | .store bs _ => leNat (bs.take 4)
  | .amo _ _ x _ _ => x.lo.toNat
  | _ => 0

/-- A memory operation on every lane (R316, R323, R346, R366, R367). A prefetch has no effect. -/
def fireMem (i : Instr) (m0 : MemOp) (a : Site) (f : Firing) (s : State) : FireRes :=
  let ks := List.range f.width
  let n := m0.act.words
  match m0.act with
  | .fetch => .done s
  | _ =>
    if f.bad then
      let s1 := if m0.act.acc = .read then s
        else ks.foldl (fun s _ => s.cfgRecord a.core a.cfg codePoison f.elem f.slot f.tag f.colour 0) s
      .done (if n = 0 then s1
        else ({ s1 with free := s1.free + n * ks.length }).sendWords a f n
          (ks.map (fun k => freeWords (s1.free + n * k) n)) true 0)
    else match s.nodeAccess a f.spot (ks.map (fun k => (gridMem (laneThread a.cfg f k) i).getD m0)) with
      | (s1, .wait) => .wait s1
      | (s1, .bad c va) => .fault s1 c va
      | (s1, .ok ls) =>
        let s2 := if m0.act.acc = .read then s1 else s1.traceCommit a.core f.elem (a.head f) m0.act.data0
        .done (if n = 0 then s2 else s2.sendWords a f n (ls.map (·.1)) (ls.any (·.2)) 0)

/-! ### Collectives, and the tables of the core -/

/-- A lane instruction over the lanes of one token (R306); an outlier form stores its entries first (R157). -/
def fireLane (op : LaneOp) (i : Instr) (a : Site) (f : Firing) (s : State) : FireRes :=
  let ms := (List.range f.width).map (fun k => (⟨k, k, laneThread a.cfg f k, op⟩ : Member))
  let rs := ms.map (laneResult ms)
  let send (s : State) : State :=
    s.sendWords a f (outRegs i) (rs.map (outWords (outRegs i))) (f.bad || rs.any (fun r => r.1.poisoned)) (resultFmt i)
  let es := if op.kind = .qntF4o ∨ op.kind = .qntE4o then outlierEntries ms else []
  match byLane ms with
  | [] => .done (send s)
  | l :: _ =>
    if es.isEmpty || f.bad then .done (send s)
    else match s.nodeAccess a f.spot [⟨listPointer l, .store (es.flatMap (fun e => leBytes 4 e.toNat)) none⟩] with
      | (s1, .wait) => .wait s1
      | (s1, .bad c va) => .fault s1 c va
      | (s1, .ok _) => .done (send s1)

/-- Read `n` bytes for a firing. -/
def State.fireRead (s : State) (a : Site) (f : Firing) (va : DWord) (n : Nat) (k : State → List Byte → FireRes) : FireRes :=
  let id := a.key f.spot 0
  match s.engCheck (s.whoCfg a) askCfg a.cfg.refused .read va n (pageFuel n) with
  | (s1, .wait) => .wait s1
  | (s1, .bad c) => .fault s1 c va
  | (s1, .ok ps) => match s1.fetchParts a.cfg.ctx 0 (s1.nodeCause a f.spot va) id ps with
    | (s2, .wait) => .wait s2
    | (s2, .bad reason va) => .fault (s2.forgetAns id) (refusalCode reason) va
    | (s2, .ok bs) => k (s2.forgetAns id) bs

/-- `cb.ld`, `tbl.ld` and `tbl.sw` as the operation of a slot: lane 0's operands, on the core's own tables (R161, R163, R164). -/
def fireTable (i : Instr) (a : Site) (f : Firing) (s : State) : FireRes :=
  let t := laneThread a.cfg f 0
  if f.bad then .done s
  else match i with
  | .cbLd x =>
    let b := (t.src32 x.lit x.b).toNat
    let n := bits b 8 8 + 1
    if 256 < bits b 0 8 + n then .fault s codeField 0
    else s.fireRead a f (t.src64 x.lit x.a) (4 * n) (fun s bs => .done (s.modCore a.core (fun c =>
      { c with codebooks := c.codebooks.modify a.cfg.ctx (fun m =>
          m.setMany (bits b 0 8) ((List.range n).map (fun i => BitVec.ofNat 32 (word32 bs (4 * i))))) })))
  | .tblLd x =>
    let va := t.src64 x.lit x.a
    if va.toNat % 16 ≠ 0 then .fault s codeAddr va
    else s.fireRead a f va 2064 (fun s bs => .done (s.modCore a.core (fun c =>
      { c with tblShd := Memory.write c.tblShd 0 bs, tblOwner := some a.cfg.ctx })))
  | .tblSw _ =>
    if s.tblLoading a.core then .wait s else .done (s.modCore a.core (fun c => { c with tblAct := c.tblShd, tblShd := c.tblAct }))
  | _ => .done s

/-- Whether a `calloc` waits for a width (R197, R332). -/
def callocWaits (i : Instr) (a : Site) (f : Firing) (s : State) : Bool :=
  match i with
  | .calloc _ => !(s.grids.get a.core).canGrant a.cfg f.colour
  | _ => false

/-- The effect of a slot's operation on operands that are values (R48, R49). -/
def fireValue (i : Instr) (a : Site) (f : Firing) (s : State) : FireRes :=
  match trellisBody i with
  | some body => if callocWaits i a f s then .wait s else .done (body a f s)
  | none =>
    match gridAlu (s.cores.get a.core) a.cfg.ctx i with
    | some op => fireAlu op i a f s
    | none =>
      match gridLane i with
      | some op => fireLane op i a f s
      | none =>
        match gridMem (laneThread a.cfg f 0) i with
        | some m => fireMem i m a f s
        | none =>
          match i with
          | .userMacro x => firePure (a.cfg.useqs.get ((wordSel (slotOpw f.word)).getD 0)) x a f s
          | _ => fireTable i a f s

/-- Whether an instruction is one of the coordinate words. -/
def isCoord (i : Instr) : Bool := anyTag i

/-- Whether a firing emits result tokens to its destinations of itself. -/
def emits (i : Instr) : Bool :=
  match i with
  | .redCfg _ | .agen _ => false
  | _ => !noResult i

/-- The stop level that a firing passes on: `pack` and `unpack` carry that of their first operand (R333). -/
def passLevel (i : Instr) (f : Firing) : Nat :=
  let at_ (v : BitVec 6) : Nat := if v.toNat < 4 then ((f.ports.getD v.toNat none).getD default).stop else f.stopLevel
  match i with
  | .pack v _ => at_ v
  | .unpack x => at_ x.a
  | _ => f.stopLevel

/-- A result without payload: a null, or a stop. `emit` sends it out of the grid as it sends a value (R338). -/
def sendEmpty (i : Instr) (a : Site) (f : Firing) (null : Bool) (stop : Nat) (s : State) : State :=
  match i with
  | .emit _ w => s.sendEmit a f w [] null stop 0
  | _ => if emits i then s.sendAll a f [] false null stop 0 else s

/-- A firing of a slot (R50, R316): a stop passes, a predicate that does not match suppresses or drops the result, a null operand gives a
null result, and otherwise the operation takes effect. `merge` chooses its operand before a null counts. -/
def fireBody (i : Instr) (a : Site) (f : Firing) (s : State) : FireRes :=
  let pm := slotPm f.word
  let pred := f.predTok.lane0 != 0 || f.predTok.poison
  let wrong := (pm == 1 || pm == 3) && !pred || (pm == 2 || pm == 4) && f.predTok.lane0 != 0 && !f.predTok.poison
  if !isCoord i && f.stopLevel != 0 then .done (sendEmpty i a f false (passLevel i f) s)
  else if pm != 0 && f.predTok.null then .done (sendEmpty i a f true 0 s)
  else if wrong then .done (if pm ≤ 2 then sendEmpty i a f true 0 s else s)
  else if f.null then .done (sendEmpty i a f true 0 s)
  else fireValue i a f s

/-! ### Firing -/

/-- The operands that a firing consumes: all of them, or for a coordinate word those that its step takes (R200). -/
def firedPorts (i : Instr) (a : Site) (f : Firing) (fnd : Found) : Found :=
  let pick (r : CoordStep) (v w : BitVec 6) : Found := fnd.zipIdx.map (fun e =>
    if (r.useA && e.2 == v.toNat) || (r.useB && e.2 == w.toNat) then e.1 else none)
  if f.null then fnd
  else match i with
    | .isect v w => pick (coordOf false v w a f) v w
    | .unionCoord v w => pick (coordOf true v w a f) v w
    | _ => fnd

/-- The slot words of a configuration at element `e`, as instructions. -/
def Cfg.slotsOf (q : Cfg) (e : Nat) : List (Nat × DWord × Instr) :=
  (q.image.elems.get e).slots.filterMap (fun v => (slotInstr (slotOpw v.2)).map (fun i => (v.1, v.2, i)))

/-- Whether a configuration may fire slot `sl` of element `e` in its stage, and in the phase that the element has reached (R341, R343,
R345). -/
def Cfg.open_ (q : Cfg) (e sl : Nat) : Bool :=
  !q.captured && q.stage != .clearing && !q.shared.contains e && (q.phases == 0 || sl * q.phases / 16 == q.phase.get e)

/-- An element without slot words, whose switches stay. -/
def Elem.emptied (x : Elem) : Elem := { x with slots := [] }

/-- A predecessor's level-3 stop has passed element `e` (R345): its slots go to the successor. Once every element with slots has swapped, the
successor has the others too, and the predecessor is freed as after a drop: when its last tokens are gone. -/
def State.splice (s : State) (c : Nat) (q : Cfg) (e : Nat) : State :=
  let g := s.grids.get c
  let succ (r : Cfg) : Bool := !r.captured && r.ctx == q.ctx && r.image.spred == q.handle && q.handle != 0
  let here (t : Tok) : Bool := q.owns t && !t.edge && t.elem == e
  if !g.cfgs.any succ || g.arb.any (fun a => here a.tok) || g.toks.any here then s
  else
    let over_ := q.image.elems.all (fun v => v.1 == e || v.2.slots.isEmpty)
    s.modGrid c (fun g => (g.modCfgs succ (fun r => { r with shared := if over_ then [] else r.shared.filter (· != e) })).modCfgs
      (fun r => !r.captured && r.name == q.name) (fun r => { r with
        image := { r.image with elems := r.image.elems.modify e Elem.emptied }
        stage := if over_ then .dropping else r.stage }))

/-- What a firing does besides its results (R322, R344, R345, R349, R350). -/
def State.afterFire (s : State) (a : Site) (f : Firing) (fnd : Found) : State :=
  let c := a.core
  let s1 := (s.modNamed c a.cfg.name (fun q => { q with lastFire := s.clk c })).countWait c a.cfg.ctx a.cfg.handle f.elem f.slot (fnd.last - fnd.first)
  let s2 := s1.fired c f.elem (a.head f) 0
  if f.stopLevel = 3 then s2.splice c a.cfg f.elem else s2

/-- The firing of a slot whose operands have been found; its results carry the grant of the colour, else the width of the widest operand
(R197, R332). -/
def Grid.mkFiring (g : Grid) (q : Cfg) (idx e sl num tag : Nat) (v : DWord) (fnd : Found) : Firing :=
  let ports := fnd.map (fun p => p.map (·.1.tok))
  ⟨idx, e, sl, v, num, tag, match g.grant q num with
    | some x => x.2.grant
    | none => max 1 ((ports.filterMap id).foldl (fun n t => max n t.width) 0), ports⟩

/-- What firing slot `sl` of element `e` of the `idx`-th configuration of core `c` on a colour number and tag comes to, with the arrival of
its last operand; none where the slot is not complete (R321). A fault clears the configuration (R343). -/
def State.cfgTry (s : State) (c idx num e sl tag : Nat) : Option (Nat × FireRes) :=
  let g := s.grids.get c
  match g.cfgs[idx]? with
  | none => none
  | some q =>
    let v := (q.image.elems.get e).slots.get sl
    if !q.open_ e sl then none
    else match slotInstr (slotOpw v) with
      | none => none
      | some i => (g.found q i (slotPm v) e sl num tag).map (fun fnd =>
        let f := g.mkFiring q idx e sl num tag v fnd
        let a : Site := ⟨c, q⟩
        let eat (s : State) : State := s.modGrid c (fun g => g.consume (firedPorts i a f fnd) e)
        (fnd.last, match fireBody i a f s with
          | .done s1 => .done ((eat s1).afterFire a f fnd)
          | .wait s1 => .wait s1
          | .fault s1 code va => .done ((eat s1).cfgFault c q ⟨code, e, sl, tag, num, va⟩)))

/-- The (colour number, tag) pairs of the operands at a slot. -/
def Grid.idsAt (g : Grid) (q : Cfg) (e sl : Nat) : List (Nat × Nat) :=
  ((g.arb.filter (fun a => q.owns a.tok && !a.tok.edge && a.tok.elem == e && a.tok.slot == sl)).map (fun a => (a.tok.colour, a.tok.tag))).eraseDups

/-- The complete slots of element `e` of core `c` that configurations hold: arrival of the last operand, slot, and what their firing comes
to. -/
def State.cfgTries (s : State) (c e : Nat) : List (Nat × Nat × FireRes) :=
  let g := s.grids.get c
  g.cfgs.zipIdx.flatMap (fun q => (q.1.slotsOf e).flatMap (fun v => (g.idsAt q.1 e v.1).filterMap (fun id =>
    (s.cfgTry c q.2 id.1 e v.1 id.2).map (fun r => (r.1, v.1, r.2)))))

/-- Whether a firing has to wait for something besides its operands. -/
def FireRes.stalls : FireRes → Bool
  | .wait _ => true
  | _ => false

end Sys2Proof.Machine
end

