-- ==== Sys2Proof/Machine/Capture.lean ====
section
/-! DEFINITION. Captured loops: placing a recorded body, entering the grid, firing, closing iterations, leaving and draining
(08_trellis.md R295 to R307, R324 to R332). Lane state stays in the threads' own records, and a captured peloton runs its body in program
order, one iteration after the other (DESIGN CHOICE, notes/assumptions/27.md). -/

namespace Sys2Proof.Machine

/-! ### Recording -/

/-- The words of a body from address `a` to `e` (R27, R296), with the offset from the head of each; none where a word cannot be fetched.
At most `fuel` instructions. -/
def State.bodyWords (s : State) (w : Who) (h e : DWord) : Nat → DWord → Option (List (Nat × Word × Word))
  | 0, a => if e.toNat < a.toNat then some [] else none
  | fuel + 1, a =>
    if e.toNat < a.toNat then some []
    else match s.fetch w a with
      | .word x =>
        let two := hasLiteral x
        match (if two then s.fetch w (a + 4) else .word 0) with
        | .word l => (State.bodyWords s w h e fuel (a + (if two then 8 else 4))).map (fun r => ((a - h).toNat, x, l) :: r)
        | _ => none
      | _ => none

/-- The target of a branch at offset `o` of a body, as an offset from the head. -/
def brTarget (o : Nat) (f : FJ) : Int := (o : Int) + 4 * f.o.toInt

/-- The instructions that keep a loop out of the grid though their majors would not (R297). -/
def bodyBars (i : Instr) : Bool :=
  match i with
  | .cbLd _ | .tblLd _ | .tblSw _ | .qntF4o _ | .qntE4o _ | .hot _ | .nocap _ | .capok _ => true
  | _ => false

/-- Whether an instruction may stand in a captured body (R297). -/
def bodyMay (w : Word) (i : Instr) : Bool :=
  let m := opMajor w
  !bodyBars i && (decide (m ≤ 0x29) || m == 0x2C || m == 0x2D || decide (0x3C ≤ m) || match i with
    | .br _ => true
    | _ => false)

/-- Whether the branches of a body are as R297 asks: the last instruction is the branch to the head, and every other goes forward, into
the body or beyond it. -/
def brOk (last : Nat) (e : Nat × Word × Word) (i : Instr) : Bool :=
  match i with
  | .br f => if e.1 = last then brTarget e.1 f == 0 else decide ((e.1 : Int) < brTarget e.1 f)
  | _ => e.1 != last

/-- Whether a recorded body passes R297, but for the room it needs. -/
def bodyOk (last : Nat) (code : List (Nat × Word × Word)) : Bool :=
  decide (code.length ≤ 1024)
  && code.all (fun e => match codeInstr e with
      | some i => bodyMay e.2.1 i && brOk last e i
      | none => false)
  && decide ((code.filter (fun e => match codeInstr e with
      | some i => isMem i
      | none => false)).length ≤ 16)

/-- The distinct targets after E, in body order (R297): the first four are mapped. -/
def exitsOf (last : Nat) (code : List (Nat × Word × Word)) : List Nat :=
  (code.filterMap (fun e => match codeInstr e with
    | some (.br f) => if (last : Int) < brTarget e.1 f then some (brTarget e.1 f).toNat else none
    | _ => none)).eraseDups

/-- The threads waiting at the end of a recorded body take the branch (R299). -/
def State.bodyGo (s : State) (b : Body) : State :=
  b.threads.foldl (fun s u => if (s.thr u).wait = .capture then s.modThr u (fun t => { t.breakLatches.goTo b.head with age := s.time }) else s) s

/-- What placing a recorded body finds. -/
inductive Placed where
  /-- It breaks a rule of R297. -/
  | broken
  /-- Its words cannot be read now. -/
  | unread
  | body (q : Cfg)

/-- The capture that a body becomes, where it passes R297 and its pure sequences are at hand (R302, R387). -/
def State.captureCfg (s : State) (b : Body) : Placed :=
  match b.threads with
  | [] => .unread
  | u :: _ =>
    match s.bodyWords (s.who (s.thr u)) b.head b.last 1025 b.head with
    | none => .unread
    | some code =>
      if bodyOk (b.last - b.head).toNat code then
        match (s.cores.get b.core).seqsFor b.ctx (code.map (fun e => e.2.1)) with
        | some m => .body { (default : Cfg) with
            ctx := b.ctx, captured := true, head := b.head, last := b.last, stage := .run, lastFire := s.clk b.core, code := code, useqs := m }
        | none => .broken
      else .broken

/-- Meaning of CAPTURE_PLACE (R297 to R299): the placement of a recorded body ends. A body that breaks a rule of R297 is marked; one that
finds no room, or whose words cannot be read, is not; in all these cases its threads run on. Otherwise they enter under CAPTURE_ENTRY. -/
def execCapturePlace (c x : Nat) (head : DWord) (s : State) : Host.Outcome State Fault Refusal :=
  .next (if !s.gridRuns c then s
    else match s.bodies.find? (fun b => b.core == c && b.ctx == x && b.head == head) with
    | none => s
    | some b =>
      let s1 := { s with bodies := s.bodies.filter (fun k => k != b) }
      match s.captureCfg b with
      | .unread => s1.bodyGo b
      | .broken => (s1.modCore c (fun k => { k with failed := if k.failed.contains (x, head) then k.failed else (x, head) :: k.failed })).bodyGo b
      | .body q => match (s.grids.get c).place q with
        | some q => s1.modGrid c (fun g => { g with cfgs := g.cfgs ++ [q] })
        | none => s1.bodyGo b)

/-! ### Entry -/

/-- The threads of core `c` that wait at the branch to `head` and whose body is not being placed, oldest first (R300). -/
def State.entrants (s : State) (c x : Nat) (head : DWord) : List Nat :=
  let us := s.threads.filter (fun e => e.2.live && e.2.ctx == x && e.2.wait == .capture && e.2.hotHead == some head && s.coreOf e.2 == c
    && !s.bodies.any (fun b => b.threads.contains e.1))
  (us.mergeSort (fun a b => decide (a.2.age < b.2.age) || (a.2.age == b.2.age && decide (a.1 ≤ b.1)))).map (·.1)

/-- Those of them that took the branch in one issue with the oldest (R217, R300). -/
def State.entrantGroup (s : State) (c x : Nat) (head : DWord) : List Nat :=
  match s.entrants c x head with
  | [] => []
  | u :: us => u :: us.filter (fun v => (s.thr v).packed == (s.thr u).packed)

/-- Whether a thread has a load, other than a prefetch, or an atomic in flight. -/
def Thread.inFlight (t : Thread) : Bool :=
  t.loads.any (fun l => l.dst != .line) || t.stores.any (fun h => match h.op with
    | .amo _ _ _ _ _ => true
    | .store _ => false)

/-- Whether thread `u` may enter beside the reference thread (R300). -/
def State.entersWith (s : State) (r u : Nat) : Bool :=
  let t := s.thr u
  t.mayEnter && t.plot == (s.thr r).plot && t.fpcr == (s.thr r).fpcr

/-- Keep the first thread of each home lane. -/
def State.onePerLane (s : State) (us : List Nat) : List Nat :=
  us.foldl (fun l u => if l.any (fun v => (s.thr v).slot % 32 == (s.thr u).slot % 32) then l else l ++ [u]) []

/-- The highest colour that nothing holds (DESIGN CHOICE, notes/assumptions/27.md). -/
def Grid.pickColour (g : Grid) : Option Nat := ((List.range 16).reverse).find? (fun i => !(g.colours.get i).taken)

/-- A thread that takes the branch to the loop's head in the front end. -/
def State.takeBranch (s : State) (u : Nat) (head : DWord) : State :=
  s.modThr u (fun t => { t.breakLatches.goTo head with age := s.time })

/-- Threads enter the grid as one captured peloton with a colour (R300, R301, R303). -/
def State.enterGrid (s : State) (c x col r : Nat) (q : Cfg) (us : List Nat) : State :=
  let n := s.nextPel
  let s1 := us.foldl (fun s u => s.modThr u (fun t => { t.breakLatches.goTo q.head with wait := .grid, pel := n, spec := some t.seq })) s
  let ck := us.map (fun u => (⟨u, (s1.thr u).snap, (s1.thr u).seq⟩ : Ckpt))
  let p : Pel := {
    (default : Pel) with
    live := true, core := c, ctx := x, plot := (s.thr r).plot, head := q.head, last := q.last, colour := col, lanes := us
    ckpts := FMap.set [] 0 ck, entered := s.clk c }
  { s1.modGrid c (fun g => { g with colours := g.colours.set col ⟨true, us.length, x, 0, col, n⟩ }) with
    nextPel := n + 1, pels := s1.pels.set n p }

/-- Meaning of CAPTURE_ENTRY (R300, R303, R332): of the threads of a peloton that wait at the branch, those that may enter beside the
reference thread do, once their lanes are free and what they have in flight has returned, so that their checkpoint is whole; the others
take the branch in the front end, and so do all of them where none can enter or no colour is free. -/
def execCaptureEntry (c x : Nat) (head : DWord) (s : State) : Host.Outcome State Fault Refusal :=
  let g := s.grids.get c
  let ws := s.entrantGroup c x head
  let go (us : List Nat) (s : State) : State := us.foldl (fun s u => s.takeBranch u head) s
  .next (if !s.gridRuns c then s
    else match g.captureOf x head with
    | none => go ws s
    | some q =>
      match ws.find? (fun u => (s.thr u).mayEnter) with
      | none => go ws s
      | some r =>
        let us := s.onePerLane (ws.filter (fun u => s.entersWith r u))
        let lanes := us.mergeSort (fun a b => decide ((s.thr a).slot % 32 ≤ (s.thr b).slot % 32))
        match g.pickColour with
        | none => go ws s
        | some col =>
          if (s.plotOf (s.thr r)).switching.isSome || q.stage != .run then go ws s
          else if decide (g.freeLanes < us.length) || us.any (fun u => (s.thr u).inFlight) then s
          else (go (ws.filter (fun u => !us.contains u)) s).enterGrid c x col r q lanes)

/-! ### Poison of a body -/

/-- The registers of the address of a memory operation. -/
def addrRegs (i : Instr) : List Nat :=
  match i with
  | .ld f | .lds f | .lda f | .st f | .stl f => fieldRegs (.src 2, f.a)
  | .ldNc f => fieldRegs (.src 2, f.a)
  | .ldq f | .stq f => fieldRegs (.src 2, f.a)
  | .pf f => fieldRegs (.src 2, f.a)
  | .amoAdd f | .amoMinS f | .amoMaxS f | .amoMinU f | .amoMaxU f | .amoAnd f | .amoOr f | .amoXor f | .amoXchg f | .amoCas f =>
    fieldRegs (.src 2, f.a)
  | .amoFadd f | .amoFaddB2 f | .amoFmax f | .amoIncW f | .amoDecW f => fieldRegs (.src 2, f.a)
  | _ => []

/-- Whether one of some registers is poisoned. -/
def Pel.tainted (p : Pel) (rs : List Nat) : Bool := rs.any (fun r => p.poison.contains r)

/-- The poison after an instruction with result poison `bad`; `all` says that every lane wrote. A producer moves the latches (R37). -/
def Pel.taint (p : Pel) (i : Instr) (prod bad all : Bool) : Pel :=
  let ds := dstRegs i
  let kept := p.poison.filter (fun r => !(ds.contains r && all))
  let regs := kept ++ (if bad then ds.filter (fun r => !kept.contains r) else [])
  { p with poison := if prod then
      (regs.filter (fun r => decide (r < 72))) ++ (if bad then [72] else []) ++ (if p.poison.contains 72 then [73] else [])
    else regs.filter (fun r => decide (r < 72)) }

/-! ### One instruction of a captured peloton -/

/-- What a firing of a captured peloton comes to: it takes effect, with poison raised or not, it must wait, or it gives a cause of
R328. -/
inductive Go where
  | ok (s : State) (bad : Bool)
  | stall
  | cause

/-- A lane past an instruction. -/
def Thread.gridNext (t q : Thread) (sh : Shape) (v : DWord) : Thread :=
  { ((if sh.producer then t.produce q.snap (q.nextChain sh) v else t.breakLatches).goTo (q.pc + BitVec.ofNat 64 sh.len)) with wait := .grid }

/-- A lane past an instruction at which it is inactive (R305). -/
def Thread.gridPass (q : Thread) (sh : Shape) : Thread :=
  { ((if sh.producer then q.pass (q.nextChain sh) else q.breakLatches).goTo (q.pc + BitVec.ofNat 64 sh.len)) with wait := .grid }

/-- A thread after an operation of the grid: `psn` stays as it was, and says that the result is poisoned (R365). -/
def Thread.unpoison (r t : Thread) : Thread := { r with fpsr := (r.fpsr &&& ~~~fPSN) ||| (t.fpsr &&& fPSN) }

/-- Each lane at an instruction whose effect on one active lane is `f`: its thread after, latch value, and whether it is poisoned. -/
def State.gridLanes (s : State) (us : List Nat) (sh : Shape) (f : Nat → Thread → Thread × DWord × Bool) : Go :=
  let r := us.foldl (fun (r : State × Bool) u =>
    let t := s.thr u
    if t.guard sh.g then
      let e := f u t
      (r.1.setThr u ((e.1.unpoison t).gridNext t sh e.2.1), r.2 || e.2.2)
    else (r.1.setThr u (t.gridPass sh), r.2)) (s, false)
  .ok r.1 r.2

/-- A thread that begins an operation without `psn`. -/
def Thread.clean (t : Thread) : Thread := { t with fpsr := t.fpsr &&& ~~~fPSN }

/-- The checks of one lane's access, with the walks it needs and no PAGE event (R325, R328). -/
def State.gridCheck (s : State) (w : Who) (a : Acc) (va : DWord) (n : Nat) : Nat → State × Option (List Part)
  | 0 => (s, none)
  | fuel + 1 =>
    match s.check w a va n with
    | .ok ps => (s, some ps)
    | .bad _ => (s, none)
    | .miss m =>
      let s1 := s.holdDesc w.die w.ctx
      match s1.walk w.die w.ctx m.toNat a with
      | .leaf e => State.gridCheck (s1.keepLeaf w e) w a va n fuel
      | .ending _ _ => (s1, none)

/-- The parts of a memory operation of lane thread `t` where it passes every check; none where it is a cause of R328. -/
def State.gridParts (s : State) (t : Thread) (m : MemOp) : State × Option (List Part) :=
  let n := m.act.size
  if m.act.acc == .atomic && m.va.toNat % n != 0 then (s, none)
  else
    let r := s.gridCheck (s.who t) m.act.acc m.va n (pageFuel n)
    match r.2 with
    | none => r
    | some ps => if !r.1.keysOk ps || m.act.hostBad ps then (r.1, none) else r

/-- Bytes 40 to 47 of the fault record of a memory operation in place `pos` of a body (R323, R346). -/
def State.pelBytes (s : State) (p : Pel) (pos : Nat) : Nat := gridBytes (64 + pos) 0 p.tag p.core (s.plots.get p.plot).vdie p.colour

/-- Held parts of a store of the grid (R325); a release store that leaves the package's memory acts as one of scope `sys` (R101, R326). -/
def heldParts (t : Thread) (va : DWord) (bs : List Byte) (rel : Option Nat) (grid : Nat) (ps : List Part) : List Held :=
  let rel' := if outside ps then rel.map (fun _ => 3) else rel
  ps.map (fun p => ⟨t.seq, va + BitVec.ofNat 64 p.off, p.loc, p.len, .store ((bs.drop p.off).take p.len), t.pc, false, rel', grid, 0⟩)

/-- The bytes of a part of a load of the grid that can be read at once: from a live copy in the L1, or from a scratchpad or weight store
whose bytes are full, open and free of errors (R264, R265, R276, R323). -/
def State.gridNow (s : State) (t : Thread) (direct : Bool) (p : Part) : Option (List Byte) :=
  match p.loc with
  | .scr o => if (s.plotOf t).fullAt o p.len && !s.badAt t.plot p.loc p.len then s.partNow t direct p else none
  | .wgt d o => if !(s.dies.get d).bankClosed (bits o 9 6) && !s.badAt t.plot p.loc p.len then s.partNow t direct p else none
  | _ => s.partNow t direct p

/-- The places below which the held accesses of a lane are committed (R325): those of an iteration that has closed already are so at
once. -/
def Pel.specAt (p : Pel) (spec : Option Nat) (seq : Nat) : Option Nat := if p.tag < p.open_ then some seq else spec

/-- One lane's access in a captured iteration (R324 to R326): a load is performed now or is under way, a store or atomic waits for the
iteration's close. -/
def State.gridAccess (s : State) (p : Pel) (pos u : Nat) (sh : Shape) (m : MemOp) : Go :=
  let t := s.thr u
  let n := m.act.size
  let done (s : State) (t' : Thread) : Go := .ok (s.setThr u (t'.gridNext t sh 0)) false
  match m.act with
  | .fetch => done s t
  | _ =>
    match s.gridParts t m with
    | (_, none) => .cause
    | (s1, some ps) =>
      let grid := s1.pelBytes p pos
      let hold (hs : List Held) : Go := done s1 { t with stores := t.stores ++ hs, seq := t.seq + 1, spec := p.specAt t.spec (t.seq + 1) }
      match m.act with
      | .fetch => done s1 t
      | .load dst _ direct acq =>
        let ps' := ps.map (fun q => { q with data := s1.gridNow t direct q })
        if ps'.all (fun q => q.data.isSome) then done s1 { t.landed dst (ps'.flatMap (fun q => q.data.getD [])) with seq := t.seq + 1 }
        else done s1 { t with loads := t.loads ++ [⟨t.seq, m.va, n, dst, ps', .dflt, direct, acq, t.pc, t.snap, 0⟩], seq := t.seq + 1 }
      | .store bs rel => hold (heldParts t m.va bs rel grid ps)
      | .amo op _ x y d => match ps with
        | [q] => hold [⟨t.seq, m.va, q.loc, n, .amo op x y d t.snap, t.pc, false, none, grid, 0⟩]
        | _ => .cause

/-- The accesses of the lanes in lane order. -/
def State.gridAccesses (s : State) (p : Pel) (pos : Nat) (sh : Shape) (i : Instr) : List Nat → Go
  | [] => .ok s false
  | u :: us =>
    let t := s.thr u
    if !t.guard sh.g then State.gridAccesses (s.setThr u (t.gridPass sh)) p pos sh i us
    else match gridMem t i with
      | none => .cause
      | some m =>
        match s.gridAccess p pos u sh m with
        | .ok s1 bad => match State.gridAccesses s1 p pos sh i us with
          | .ok s2 bad2 => .ok s2 (bad || bad2)
          | r => r
        | r => r

/-- A POISON.STORE record of a lane (R129, R346, R367). -/
def State.poisonStore (s : State) (p : Pel) (pos u : Nat) (va : DWord) : State :=
  s.imprecise u codePoison (s.thr u).pc va (s.pelBytes p pos)

/-- A store or atomic whose data is poisoned performs nothing in any lane (R367). -/
def State.gridSuppress (s : State) (p : Pel) (pos : Nat) (sh : Shape) (i : Instr) (us : List Nat) : State :=
  us.foldl (fun s u =>
    let t := s.thr u
    let s1 := if t.guard sh.g then s.poisonStore p pos u (match gridMem t i with | some m => m.va | none => 0) else s
    s1.setThr u (t.gridPass sh)) s

/-- The place of the `k`-th instruction of a body among its memory operations (R323, R324). -/
def Cfg.memPos (q : Cfg) (k : Nat) : Nat := ((q.code.take k).filter (fun e => match codeInstr e with
  | some i => isMem i
  | none => false)).length

/-- An instruction other than a branch, the `k`-th of the body, at the lanes `us` of a captured peloton. Its flags are those of R140 and
R205, whatever `pinv` says of a micro-operation. -/
def State.gridRun (s : State) (p : Pel) (q : Cfg) (k : Nat) (w : Word) (i : Instr) (us : List Nat) : Go :=
  let sh := shape i
  let c := s.cores.get p.core
  let act := us.filter (fun u => (s.thr u).guard sh.g)
  if p.tainted (guardReg sh.g) then .cause
  else if us.any (fun u => (s.thr u).hazard sh) then .stall
  else if us.any (fun u => (s.thr u).badLatch sh || (match (s.thr u).nextChain sh with | some k => decide (4 < k.len) | none => false)) then .cause
  else match gridAlu c p.ctx i with
    | some op =>
      if act.any (fun u => gridFieldBad (s.thr u) i) then .cause
      else s.gridLanes us sh (fun _ t => let r := op t.clean; (r.1, r.2, r.1.poisoned))
    | none =>
      match gridLane i with
      | some op =>
        let ms := act.map (fun u => (⟨u, (s.thr u).slot % 32, (s.thr u).clean, op⟩ : Member))
        s.gridLanes us sh (fun u t => match ms.find? (fun m => m.u == u) with
          | some m => let r := laneResult ms m; (r.1, r.2, r.1.poisoned)
          | none => (t, 0, false))
      | none =>
        if isMem i then
          if p.tainted (addrRegs i) then .cause
          else if p.tainted (srcRegs i) then .ok (s.gridSuppress p (q.memPos k) sh i us) true
          else s.gridAccesses p (q.memPos k) sh i us
        else match i with
          | .userMacro f =>
            let ws := q.useqs.get ((wordSel w).getD 0)
            s.gridLanes us sh (fun _ t =>
              let r := pureLane ws (t.src32 f.lit f.a) (t.src32 f.lit f.b) (t.src32 f.lit f.d)
              let t1 := match r.1 with | some v => t.clean.wr32 false f.d v | none => t.clean
              let t2 := { t1 with fpsr := t1.fpsr ||| r.2 }
              (t2, 0, t2.poisoned))
          | _ => .cause

/-! ### Leaving and closing -/

/-- Thread `u` goes on in the front end from where it stands (R304, R330). -/
def State.toFront (s : State) (u : Nat) : State :=
  s.modThr u (fun t => { t.breakLatches with wait := .none, pel := 0, spec := none, age := s.time, pend := none })

/-- A captured peloton without lanes is gone, and its colour with it (R304, R332). -/
def State.pelDone (s : State) (n : Nat) : State :=
  let p := s.pel n
  if p.lanes.isEmpty then
    { s.modGrid p.core (fun g => g.freeColour p.colour) with pels := s.pels.erase n }
  else s

/-- Whether a committed access of lane thread `t` to its scratchpad is still to be performed. -/
def Thread.scrOwed (t : Thread) : Bool :=
  t.stores.any (fun h => (match h.loc with
    | .scr _ => true
    | _ => false) && (match t.spec with
    | some q => decide (h.seq < q)
    | none => true))

/-- The lanes that left at closed tags go on in the front end (R304), once their scratchpads have taken what they stored. -/
def State.releaseLeft (s : State) (n : Nat) : State :=
  let p := s.pel n
  let outs := (p.left.filter (fun e => decide (e.2 < p.open_) && !(s.thr e.1).scrOwed)).map (·.1)
  ((outs.foldl (fun s u => s.toFront u) s).modPel n (fun p => { p with
    lanes := p.lanes.filter (fun u => !outs.contains u), left := p.left.filter (fun e => !outs.contains e.1) })).pelDone n

/-- The commit records of held accesses (R350): one for each memory operation, with its node, the data of its first lane and its
address. -/
def State.traceHeld (s : State) (p : Pel) (hs : List Held) : State :=
  ((hs.map (·.pc)).eraseDups).foldl (fun s a => match hs.find? (fun h => h.pc == a) with
    | some h => s.trace p.core ({ (default : Tok) with
        colour := p.colour, tag := bits h.grid 16 16, core := p.core, width := p.lanes.length } : Tok).header p.ctx 5 (bits h.grid 0 8)
        (match h.op with
          | .store bs => leNat (bs.take 4)
          | .amo _ x _ _ _ => x.lo.toNat) a
    | none => s) s

/-- The held accesses of lane `u` that become committed when its bound rises to place `q` (R325). -/
def State.newlyDue (s : State) (u q : Nat) : List Held :=
  (s.thr u).stores.filter (fun h => decide (h.seq < q) && h.grid != 0 && (match (s.thr u).spec with
    | some k => decide (k ≤ h.seq)
    | none => false))

/-- Place `q` up to which lane `u` commits when tag `o` closes. -/
def State.commitSeq (s : State) (p : Pel) (o u : Nat) : Nat :=
  match (p.ckpts.get (o + 1)).find? (fun k => k.thread == u) with
  | some k => k.seq
  | none => (s.thr u).seq

/-- Close the lowest open iteration (R304, R325): its stores and atomics are committed, and go to their homes by events of their own. The
checkpoint of an iteration that still runs is kept. -/
def State.closeTag (s : State) (n : Nat) : State :=
  let p := s.pel n
  let due := p.lanes.flatMap (fun u => s.newlyDue u (s.commitSeq p p.open_ u))
  let s1 := p.lanes.foldl (fun s u => s.modThr u (fun t => { t with spec := some (s.commitSeq p p.open_ u) })) s
  ((s1.modPel n (fun p => { p with
    open_ := p.open_ + 1, ckpts := if p.open_ < p.tag then p.ckpts.erase p.open_ else p.ckpts })).traceHeld p due).releaseLeft n

/-! ### What lies before a lane -/

/-- What a branch does to one lane: its new program counter, and whether it leaves. `none` is an unmapped exit. -/
def laneBranch (q : Cfg) (exits : List Nat) (o : Nat) (f : FJ) (t : Thread) : Option (DWord × Bool) :=
  let last := (q.last - q.head).toNat
  if t.guard f.g then
    let v := brTarget o f
    if v ≤ (last : Int) then some (q.head + BitVec.ofInt 64 v, false)
    else if (exits.take 4).contains v.toNat then some (q.head + BitVec.ofInt 64 v, true)
    else none
  else some (q.head + BitVec.ofNat 64 (o + 4), o == last)

/-- Registers, predicates and latches whose values a lane waits for. -/
def Thread.unknown (t : Thread) : List Nat :=
  t.loads.flatMap (fun l => l.dst.writes) ++ t.stores.flatMap (fun h => match h.op with
    | .amo _ _ _ d _ => if d < 60 then [d, d + h.len / 8] else []
    | .store _ => [])

/-- A lane that looks ahead: itself, and what it does not know. -/
abbrev Ahead := Thread × List Nat

/-- A lane's ignorance after an instruction with the result `bad` unknown; a producer moves the latches (R37). -/
def knownAfter (ks : List Nat) (i : Instr) (bad : Bool) : List Nat :=
  let regs := ks.filter (fun r => decide (r < 72) && !(dstRegs i).contains r) ++ (if bad then dstRegs i else [])
  if (shape i).producer then regs ++ (if bad then [72] else []) ++ (if ks.contains 72 then [73] else []) else regs

/-- A lane past the instruction `i` that stands before it, as far as its memory operations go (R325); none where one of them has not passed
its checks, or might not. Instructions that join lanes leave their results unknown. -/
def State.lookPast (s : State) (q : Cfg) (o : Nat) (i : Instr) (l : Ahead) : Option (List Ahead) :=
  let t := l.1
  let sh := shape i
  let dark (rs : List Nat) : Bool := rs.any (fun r => l.2.contains r)
  if dark (guardReg sh.g) then
    (if isMem i || (match i with | .br _ => true | _ => false) then none else some [(t.gridPass sh, knownAfter l.2 i true ++ [72, 73])])
  else match i with
    | .br f => match laneBranch q (exitsOf (q.last - q.head).toNat q.code) o f t with
      | none => none
      | some (pc, leaves) => some (if leaves || pc == q.head then [] else [(t.breakLatches.goTo pc, l.2.filter (· < 72))])
    | _ =>
      if !t.guard sh.g then some [(t.gridPass sh, l.2)]
      else if isMem i then
        if dark (addrRegs i) || t.loads.any (·.acq) then none
        else match gridMem t i with
          | none => none
          | some m => if m.act == .fetch || (s.gridParts t m).2.isSome then some [(t.gridNext t sh 0, knownAfter l.2 i true)] else none
      else match gridAlu (s.cores.get (s.coreOf t)) t.ctx i with
        | some op =>
          if dark (srcRegs i) then some [(t.gridNext t sh 0, knownAfter l.2 i true)]
          else some [(((op t.clean).1.unpoison t).gridNext t sh (op t.clean).2, knownAfter l.2 i false)]
        | none => some [(t.gridNext t sh 0, knownAfter l.2 i true)]

/-- Whether every memory operation that lies before the lanes in the body has passed its checks, as far as their values are known
(R325). -/
def State.pathPasses (s : State) (q : Cfg) (ls : List Ahead) : Bool :=
  (q.code.foldl (fun (r : Option (List Ahead)) x =>
    match r, codeInstr x with
    | some ls, some i => ls.foldl (fun (r : Option (List Ahead)) l =>
        match r with
        | none => none
        | some out => if (l.1.pc - q.head).toNat = x.1 then (s.lookPast q x.1 i l).map (out ++ ·) else some (out ++ [l])) (some [])
    | _, _ => none) (some ls)).isSome

/-- Whether lane `u` has passed every memory operation of its iteration. -/
def State.pastMem (s : State) (q : Cfg) (u : Nat) : Bool :=
  let o := ((s.thr u).pc - q.head).toNat
  q.code.all (fun e => decide (e.1 < o) || match codeInstr e with
    | some i => !isMem i
    | none => true)

/-- Whether lane `u` waits for a value. -/
def State.laneWaits (s : State) (q : Cfg) (u : Nat) : Bool :=
  match (q.code.find? (fun e => e.1 == ((s.thr u).pc - q.head).toNat)).bind codeInstr with
  | some i => (s.thr u).hazard (shape i)
  | none => false

/-- The captured peloton that holds colour `col` of core `c`. -/
def State.pelAt (s : State) (c col : Nat) : Nat := ((s.grids.get c).colours.get col).pel

/-- Whether a drain lets the lowest open iteration close (R329). -/
def Pel.mayClose (p : Pel) : Bool :=
  match p.drain with
  | none => true
  | some d => match d.b with
    | some b => decide (p.open_ < b)
    | none => decide (p.open_ < d.f)

/-- Whether the iteration that runs may close: its lanes have passed its memory operations, or one of them waits for a value and those that
lie before them all pass (R325). -/
def State.mayCloseRun (s : State) (p : Pel) (q : Cfg) : Bool :=
  p.running.all (fun u => s.pastMem q u)
    || (p.running.any (fun u => s.laneWaits q u) && s.pathPasses q (p.running.map (fun u => (s.thr u, (s.thr u).unknown))))

/-- Meaning of ITERATION_CLOSE (R304, R325). -/
def execIterationClose (c col : Nat) (s : State) : Host.Outcome State Fault Refusal :=
  let n := s.pelAt c col
  let p := s.pel n
  .next (if !s.gridRuns c || !p.live then s
    else match (s.grids.get c).captureOf p.ctx p.head with
    | none => s
    | some q =>
      if p.mayClose && (decide (p.open_ < p.tag) || (p.open_ == p.tag && s.mayCloseRun p q)) then s.closeTag n else s.releaseLeft n)

/-! ### Firing -/

/-- The registers that the body writes (R303). -/
def Cfg.writes (q : Cfg) : List Nat := q.code.flatMap (fun e => match codeInstr e with
  | some i => dstRegs i
  | none => [])

/-- The registers, predicates and latches that a slot of a body reads, its guard last. -/
def slotReads (i : Instr) : List Nat := (srcRegs i ++ guardReg (shape i).g).eraseDups

/-- When the last, and the first, of the operands of a slot arrived (R321, R322). -/
def Pel.lastAt (p : Pel) (i : Instr) : Nat := (slotReads i).foldl (fun n r => max n (p.arrived r)) p.entered
def Pel.firstAt (p : Pel) (i : Instr) : Nat := (slotReads i).foldl (fun n r => min n (p.arrived r)) (p.lastAt i)

/-- The bookkeeping of a firing of a captured peloton, the `k`-th instruction of its body (R322, R323, R344, R349, R350): a memory operation
fires at its address generator. -/
def State.pelFired (s : State) (n k : Nat) (q : Cfg) (i : Instr) (pc : DWord) (lane0 : List Word) : State :=
  let p := s.pel n
  let x := q.sites.getD k (0, 0)
  let t : Tok := { (default : Tok) with
    colour := p.colour, tag := p.tag, elem := x.1, slot := x.2, core := p.core, ctx := p.ctx, width := p.lanes.length, lanes := lane0 }
  let s1 := s.modGrid p.core (fun g => g.modCfgs (fun q => q.captured && q.ctx == p.ctx && q.head == p.head) (fun q => { q with lastFire := s.clk p.core }))
  ((s1.countWait p.core p.ctx 0x80000000 x.1 x.2 (p.lastAt i - p.firstAt i)).fired p.core (if isMem i then 64 + q.memPos k else x.1) t pc).pelProduced n
    (dstRegs i ++ (if (shape i).producer then [72] else []))

/-- The payload of the first operand of a slot that a captured peloton fires. -/
def State.firstOperand (s : State) (p : Pel) (i : Instr) : List Word :=
  match slotReads i with
  | [] => []
  | r :: _ => p.lanes.map (fun u => (s.thr u).tokenWord r)

/-- A branch at the lanes `us`, the `k`-th instruction of the body (R297, R301, R303, R304, R328). Lanes leave, and the iteration turns, once
what they have in flight has returned. -/
def State.pelBranch (s : State) (n k : Nat) (q : Cfg) (o : Nat) (f : FJ) (us : List Nat) : FireRes :=
  let p := s.pel n
  let last := (q.last - q.head).toNat
  let rs := us.map (fun u => (u, laneBranch q (exitsOf last q.code) o f (s.thr u)))
  let leave := rs.filterMap (fun r => match r.2 with
    | some (_, true) => some r.1
    | _ => none)
  let go := us.filter (fun u => !leave.contains u)
  let turns := o == last && !go.isEmpty
  if p.tainted (guardReg f.g) || rs.any (fun r => r.2.isNone) || ((turns || !leave.isEmpty) && p.tainted q.writes) then .done (s.pelCause n)
  else if (turns && decide (p.open_ + 4 ≤ p.tag + 1)) || (if turns then us else leave).any (fun u => (s.thr u).inFlight) then .wait s
  else
    let s1 := rs.foldl (fun s r => match r.2 with
      | some (pc, _) => s.modThr r.1 (fun t => { t.breakLatches.goTo pc with wait := .grid })
      | none => s) (s.pelFired n k q (.br f) (q.head + BitVec.ofNat 64 o) (s.firstOperand p (.br f)))
    let s2 := s1.modPel n (fun p => { p with left := p.left ++ leave.map (fun u => (u, p.tag)) })
    let s3 := if turns then s2.modPel n (fun p => { p with
        tag := p.tag + 1
        ckpts := (if p.tag < p.open_ then p.ckpts.erase p.tag else p.ckpts).set (p.tag + 1) (go.map (fun u => ⟨u, (s2.thr u).snap, (s2.thr u).seq⟩)) })
      else s2
    .done (s3.releaseLeft n)

/-- Whether a captured peloton may fire (R329): a drain stops the tags from B on, and before B is known those from that of its cause on. -/
def Pel.mayFire (p : Pel) : Bool :=
  match p.drain with
  | none => true
  | some d => decide (p.tag < d.b.getD d.f)

/-- What the slot that captured peloton `n` fires next comes to, with its place and the arrival of its last operand: the instruction at which
its hindmost lanes stand, at those lanes (R299, R305, R321). -/
def State.pelTry (s : State) (n : Nat) : Option ((Nat × Nat) × Nat × FireRes) :=
  let p := s.pel n
  if !p.live || !p.mayFire then none
  else match s.pelNext n with
    | none => none
    | some (q, k) =>
      let x := q.code.getD k default
      let us := p.running.filter (fun u => ((s.thr u).pc - q.head).toNat == x.1)
      match codeInstr x with
      | none => none
      | some i => some (q.sites.getD k (0, 0), p.lastAt i, match i with
        | .br f => s.pelBranch n k q x.1 f us
        | _ => match s.gridRun p q k x.2.1 i us with
          | .stall => .wait s
          | .cause => .done (s.pelCause n)
          | .ok s1 bad =>
            let all := us.length == p.running.length && us.all (fun u => (s.thr u).guard (shape i).g)
            let due := if p.tag < p.open_ then us.flatMap (fun u => (s1.thr u).stores.filter (fun h => !(s.thr u).stores.contains h && h.grid != 0)) else []
            .done (((s1.modPel n (fun p => p.taint i (shape i).producer (bad || p.tainted (srcRegs i)) all)).pelFired n k q i
              (q.head + BitVec.ofNat 64 x.1) (s.firstOperand p i)).traceHeld p due))

/-- The complete slots of element `e` of core `c`: arrival of the last operand, slot, and what firing them comes to (R321). -/
def State.elemTries (s : State) (c e : Nat) : List (Nat × Nat × FireRes) :=
  s.cfgTries c e ++ (s.pelsOf c).filterMap (fun n => match s.pelTry n with
    | some (x, last, r) => if x.1 = e then some (last, x.2, r) else none
    | none => none)

/-- The state after a firing, where its element chooses it: every slot that was complete earlier, or at the same time with a lower number, has
to wait for something besides its operands (R321; DESIGN CHOICE, notes/assumptions/27.md). -/
def State.fireChosen (s : State) (c e sl last : Nat) (r : FireRes) : State :=
  match r with
  | .done s1 | .fault s1 _ _ =>
    if (s.elemTries c e).all (fun k => !(decide (k.1 < last) || (k.1 == last && decide (k.2.1 < sl))) || k.2.2.stalls) then s1 else s
  | .wait s1 => s1

/-- Meaning of SLOT_FIRE (R321). A colour below 16 that a captured peloton holds names that peloton; 16 × (k + 1) + n names colour number n
of the core's k-th configuration (DESIGN CHOICE, notes/assumptions/41.md). -/
def execSlotFire (c col e sl tag : Nat) (s : State) : Host.Outcome State Fault Refusal :=
  .next (if !s.gridRuns c then s
    else if col < 16 then
      let n := s.pelAt c col
      match s.pelTry n with
      | some (x, last, r) => if x = (e, sl) ∧ tag = (s.pel n).tag % 2 ^ 16 then s.fireChosen c e sl last r else s
      | none => s
    else match s.cfgTry c (col / 16 - 1) (col % 16) e sl tag with
      | some (last, r) => s.fireChosen c e sl last r
      | none => s)

/-! ### Drain -/

/-- Meaning of DRAIN (R328, R329): after a cause at tag f, every iteration below f has closed and B is f. A captured peloton of a plot that is
being switched out, and which no drain has reached yet, begins one. -/
def execDrain (c col : Nat) (s : State) : Host.Outcome State Fault Refusal :=
  let n := s.pelAt c col
  let p := s.pel n
  .next (if !p.live || !s.gridRuns c then s
    else match p.drain with
    | none => if (s.plots.get p.plot).switching.isSome then s.askDrain (fun i _ => i == n) else s
    | some d =>
      if d.b.isNone && decide (d.f ≤ p.open_) then (s.modPel n (fun p => { p with drain := some { d with b := some d.f } })).traceDrain n
      else s)

/-- Meaning of DRAIN_CLOSE_LIMIT (R329). -/
def execDrainCloseLimit (c col : Nat) (s : State) : Host.Outcome State Fault Refusal :=
  let n := s.pelAt c col
  let p := s.pel n
  .next (match p.drain with
    | some d =>
      if p.live && d.b.isNone && s.gridRuns c && decide (d.since + 65536000 ≤ s.clk c) then
        (s.modPel n (fun p => { p with drain := some { d with b := some (min d.f p.open_) } })).traceDrain n
      else s
    | none => s)

/-- A lane is again as it was at the head before an iteration (R329, R330): its loads, and the stores and atomics that have not committed, of
that iteration and later are gone. -/
def State.restoreLane (s : State) (k : Ckpt) (head : DWord) : State :=
  s.modThr k.thread (fun t =>
    let kept (q : Nat) : Bool := decide (q < k.seq)
    { (t.restore k.snap).breakLatches with
      pc := head
      loads := t.loads.filter (fun l => kept l.seq)
      stores := t.stores.filter (fun h => kept h.seq || (match t.spec with
        | some q => decide (h.seq < q)
        | none => true))
      wait := .none, pel := 0, spec := none, age := s.time, pend := none })

/-- Meaning of DRAIN_COMPLETE (R329 to R331): once the iterations below B have closed and what they committed has been sent, the lanes that
left before B go on where they left, the others from the head at iteration B, in the front end, and the colour is released. -/
def execDrainComplete (c col : Nat) (s : State) : Host.Outcome State Fault Refusal :=
  let n := s.pelAt c col
  let p := s.pel n
  .next (match p.drain with
    | some ⟨_, _, some b⟩ =>
      if !p.live || !s.gridRuns c || decide (p.open_ < b) || decide (p.tag < b) || p.lanes.any (fun u => (s.thr u).scrOwed) then s
      else
        let early := (p.left.filter (fun e => decide (e.2 < b))).map (·.1)
        let s1 := early.foldl (fun s u => s.toFront u) s
        let s2 := (p.ckpts.get b).foldl (fun s k => if p.lanes.contains k.thread && !early.contains k.thread then s.restoreLane k p.head else s) s1
        (s2.modPel n (fun p => { p with lanes := [], left := [] })).pelDone n
    | _ => s)

end Sys2Proof.Machine
end

