-- ==== Sys2Proof/Machine/GridEdge.lean ====
section
/-! DEFINITION. Delivery of tokens, the edge nodes, circuits, and shrinking and saving a region (05_cadence_microcode.md R198, R199, R201,
06_threads.md R234, 08_trellis.md R314 to R320, R334 to R343). -/

namespace Sys2Proof.Machine

/-! ### Delivery -/

/-- The network that carries a token of configuration `q` (R317): 0 scalar, for coordinates; 2 control, for predicates; 1 vector, for every
other value (DESIGN CHOICE, notes/assumptions/101.md). -/
def Cfg.netOf (q : Cfg) (t : Tok) : Nat :=
  if t.edge then 1
  else if (match slotInstr (slotOpw ((q.image.elems.get t.elem).slots.get t.slot)) with
    | some i => isCoord i
    | none => false) then 0
  else if t.port = 3 then 2 else 1

/-- Whether two tokens of configuration `q` travel on one circuit, or between one source and one destination of the scalar network, so that
they arrive in the order sent (R319). -/
def Cfg.sameWay (q : Cfg) (t u : Tok) : Bool :=
  t.ctx == u.ctx && t.handle == u.handle && t.src == u.src && t.edge == u.edge && t.elem == u.elem && q.netOf t == q.netOf u

/-- The configuration that a token belongs to. -/
def Grid.cfgOf (g : Grid) (t : Tok) : Option Cfg := g.cfgs.find? (fun q => !q.captured && q.owns t)

/-- The token of a core that may arrive now: the `n`-th, when none before it travels the same way (R319). -/
def Grid.nextTok (g : Grid) (n : Nat) : Option Tok :=
  match g.toks[n]? with
  | none => none
  | some t => if (g.toks.take n).any (fun u => ((g.cfgOf t).getD default).sameWay t u) then none else some t

/-- Take the `n`-th token off its network. -/
def State.takeTok (s : State) (c n : Nat) : State := s.modGrid c (fun g => { g with toks := g.toks.eraseIdx n })

/-- Arbour entries of an element, and the entries that a context has spilled on the core (R320). -/
def Grid.arbAt (g : Grid) (e : Nat) : Nat := (g.arb.filter (fun a => a.tok.elem == e && !a.tok.edge && !a.spilled)).length
def Grid.spilt (g : Grid) (x : Nat) : Nat := (g.arb.filter (fun a => a.tok.ctx == x && a.spilled)).length

/-- Spilled entries that a spill area of 1 MiB holds, at 144 bytes each (R320, R348). -/
def spillRoom : Nat := 2 ^ 20 / 144

/-- An operand reaches its Arbour, or its context's spill area (R320); a full area holds the sender back. -/
def State.arrive (s : State) (c n : Nat) (t : Tok) : State :=
  let g := s.grids.get c
  let full := !t.edge && decide (64 ≤ g.arbAt t.elem)
  if full && decide (spillRoom ≤ g.spilt t.ctx) then s
  else
    let s1 := (s.takeTok c n).modGrid c (fun g => { g with arb := g.arb ++ [⟨t, full, s.clk c⟩] })
    if full then s1.trace c t.header t.ctx 1 t.elem t.lane0.toNat 0 else s1

/-- Fields of a route word (R315). -/
def routeVdie (v : DWord) : Nat := bits v.toNat 0 4
def routeRemote (v : DWord) : Bool := bit v.toNat 4
def routePkg (v : DWord) : Nat := bits v.toNat 5 16
def routeClass (v : DWord) : Nat := bits v.toNat 21 2
def routeCtx (v : DWord) : Nat := bits v.toNat 32 12
def routeHandle (v : DWord) : Nat := bits v.toNat 44 20

/-- A tap or edge node sends over a circuit to core `dst` (R318): the open one, or one that it reserves. -/
def Grid.useCircuit (g : Grid) (node dst xfers idle now : Nat) : Grid :=
  let cs := if g.circuits.any (fun q => q.node == node && q.dst == dst) then g.circuits else g.circuits ++ [⟨node, dst, xfers, idle, now⟩]
  let ds := cs.map (fun q => if q.node == node && q.dst == dst then { q with left := q.left - 1, since := now } else q)
  { g with circuits := ds.filter (fun q => q.left != 0) }

/-- XFERS and IDLE of an edge node (R311); a node whose record states none sends each token over a circuit of its own. -/
def Image.xfers (im : Image) (node : Nat) : Nat := max 1 (bits (im.edges.get node) 16 12)
def Image.idle (im : Image) (node : Nat) : Nat := bits (im.edges.get node) 32 8

/-- The lowest ingress tap of a configuration and the slot that it feeds (R311; DESIGN CHOICE, notes/assumptions/48.md). -/
def Cfg.tapSlot (q : Cfg) (node : Nat) : Option (Nat × Nat) :=
  (q.image.map.find? (fun v => bits v.toNat 0 3 == 0 && bits v.toNat 6 7 == node - 28)).map (fun v => (bits v.toNat 17 6, bits v.toNat 13 4))
def Cfg.inTap (q : Cfg) : Option Nat :=
  (q.image.edges.keys).find? (fun x => decide (28 ≤ x) && !bit (q.image.edges.get x) 0 && (q.tapSlot x).isSome)

/-- Where a token that names configuration `h` of context `x` and core `k` of die `d` is delivered: the slot that the configuration's lowest
ingress tap there feeds (R315; DESIGN CHOICE, notes/assumptions/48.md); none where it is not resident on that core. -/
def State.routeEnd (s : State) (d k x h : Nat) : Option (Nat × Nat × Nat) :=
  let c := 160 * d + k % 160
  match (s.grids.get c).cfgs.find? (fun q => !q.captured && q.ctx == x && q.handle == h) with
  | some q => match q.inTap with
    | some n => (q.tapSlot n).map (fun e => (c, e))
    | none => none
  | none => none

/-- A token as its destination configuration takes it in from source `src`. -/
def Tok.into (t : Tok) (c x h e sl src : Nat) : Tok :=
  { t with ctx := x, handle := h, core := c, edge := false, elem := e, slot := sl, port := 0, route := none, src := src }

/-- A token that cannot be delivered is discarded, with a fault record (R315). -/
def State.discardTok (s : State) (c n : Nat) (t : Tok) : State :=
  (s.takeTok c n).cfgRecord c { (default : Cfg) with ctx := t.ctx, handle := t.handle } codeAddr (64 + t.elem) 0 t.tag t.colour 0

/-- The payload of a token packet (R407): the header, and then the lanes. -/
def Tok.payload (t : Tok) : List Byte := leBytes 8 t.header ++ t.lanes.flatMap (fun w => leBytes 4 w.toNat)

/-- A token with a route word leaves the grid (R315, R338, R407, R409). -/
def State.sendOut (s : State) (c n : Nat) (t : Tok) (r : DWord) (im : Image) : State :=
  if bits r.toNat 23 9 ≠ 0 then s.discardTok c n t
  else if routeRemote r then
    match s.linkTo (routePkg r) with
    | none => s.discardTok c n t
    | some l =>
      if (s.links.get l).down then s.discardTok c n t
      else if (s.links.get l).retraining then s
      else
        let q := packetTo 5 (routePkg r) (routeCtx r) 0 (routeHandle r * 16 + routeVdie r) 0 0 t.payload
        ({ s.takeTok c n with outbox := s.outbox ++ [{ q with cls := routeClass r }] }).fired c (64 + t.elem) t 0
  else
    match s.boundDie (s.desc (dieOf c) (routeCtx r)).vd (routeVdie r) with
    | none => s.discardTok c n t
    | some (pd, _) =>
      match s.routeEnd pd t.core (routeCtx r) (routeHandle r) with
      | none => s.discardTok c n t
      | some (k, e, sl) =>
        (((s.takeTok c n).modGrid c (fun g => g.useCircuit t.elem k (im.xfers t.elem) (im.idle t.elem) (s.clk c))).sendToks k
          [t.into k (routeCtx r) (routeHandle r) e sl (128 * (c + 1) + t.elem)]).fired c (64 + t.elem) t 0

/-- Whether the networks of a configuration carry a token to its element (R52, R317); what comes from an edge node or from outside needs
none. -/
def Cfg.brings (q : Cfg) (t : Tok) : Bool := t.edge || decide (64 ≤ t.src) || q.image.carries (q.netOf t) t.src t.elem

/-- Meaning of TOKEN_DELIVER (R52, R315 to R320, R343): token `n` of core `c` arrives. Tokens of a region being cleared are consumed; tokens for
reduction elements and width adapters wait for events of their own; a tap sends a token without a route word as one whose route is 0. -/
def execTokenDeliver (c n : Nat) (s : State) : Host.Outcome State Fault Refusal :=
  let g := s.grids.get c
  .next (if !s.gridRuns c then s
    else match g.nextTok n with
    | none => s
    | some t =>
      match g.cfgOf t with
      | none => s.takeTok c n
      | some q =>
        if q.stage == .clearing then s.takeTok c n
        else if !t.edge || decide (t.elem < 16) then (if q.brings t then s.arrive c n t else s)
        else if t.elem < 28 then s
        else s.sendOut c n t (t.route.getD 0) q.image)

/-! ### Address generators (R199, R334) -/

/-- Lane `i` of a layout. -/
def Agen.lane (a : Agen) (i : Nat) : Word := a.layout.getD i 0

/-- The extent of dimension `d`. -/
def Agen.extent (a : Agen) (d : Nat) : Nat := bits (a.lane (6 + d)).toNat 0 16 + 1

/-- Operation and size of a layout. -/
def Agen.op (a : Agen) : Nat := bits (a.lane 10).toNat 0 2
def Agen.size (a : Agen) : Nat := 2 ^ bits (a.lane 10).toNat 2 2

/-- Index of dimension `d`. -/
def Agen.idx (a : Agen) (d : Nat) : Nat := a.it.getD d 0

/-- The address at index `i0` and the other indices of the iterator. -/
def Agen.addr (a : Agen) (i0 : Nat) : DWord :=
  DWord.mk (a.lane 1) (a.lane 0) + BitVec.ofInt 64 ((a.lane 2).toInt * i0 + (a.lane 3).toInt * a.idx 1 + (a.lane 4).toInt * a.idx 2
    + (a.lane 5).toInt * a.idx 3)

/-- The iterator `n` addresses further along the run of i0, and the levels of the stops that follow (R199). -/
def Agen.step (a : Agen) (n : Nat) : List Nat × List Nat :=
  let i0 := a.idx 0 + n
  if i0 < a.extent 0 then ([i0, a.idx 1, a.idx 2, a.idx 3], [])
  else if a.idx 1 + 1 < a.extent 1 then ([0, a.idx 1 + 1, a.idx 2, a.idx 3], [1])
  else if a.idx 2 + 1 < a.extent 2 then ([0, 0, a.idx 2 + 1, a.idx 3], [1, 2])
  else if a.idx 3 + 1 < a.extent 3 then ([0, 0, 0, a.idx 3 + 1], [1, 2])
  else ([0, 0, 0, 0], [1, 2, 3])

/-- The generator after `n` more addresses; the next layout takes over after the last (R199). -/
def Agen.after (a : Agen) (n : Nat) : Agen :=
  let r := a.step n
  if r.2.contains 3 then
    match a.nextL with
    | some (c, t, l) => ⟨true, c, t, l, [0, 0, 0, 0], none, false⟩
    | none => default
  else { a with it := r.1, tag := (a.tag + 1) % 2 ^ 16, bad := a.bad && r.2.isEmpty }

/-- The slot that takes what an address generator reads: the one that the map names for the node's memory position
(DESIGN CHOICE, notes/assumptions/49.md). -/
def Cfg.memSlot (q : Cfg) (node : Nat) : Option (Nat × Nat) :=
  (q.image.map.find? (fun v => bits v.toNat 0 3 == 4 && bits v.toNat 24 4 == bits (q.image.edges.get node) 4 4)).map
    (fun v => (bits v.toNat 17 6, bits v.toNat 13 4))

/-- A token from an edge node to a slot of its configuration, with the colour and tag of `t`; one without payload has width `w` (R314). -/
def edgeTok (c : Nat) (q : Cfg) (t : Tok) (node w dst port : Nat) (lanes : List Word) (poison null : Bool) (stop fmt : Nat) : Tok where
  handle := q.handle
  ctx := q.ctx
  colour := t.colour
  tag := t.tag
  edge := false
  elem := dst / 16
  slot := dst % 16
  port := port
  core := c
  width := if null ∨ stop ≠ 0 then w else max 1 lanes.length
  poison := poison
  null := null
  stop := stop
  fmt := fmt
  lanes := lanes
  route := none
  src := 64 + node

/-- The lanes that a colour number of a configuration holds; `n` where it holds no grant. -/
def Grid.widthOf (g : Grid) (q : Cfg) (num n : Nat) : Nat :=
  match g.grant q num with
  | some e => e.2.grant
  | none => n

/-- Send tokens of an address generator to its slot. -/
def State.agenSend (s : State) (c : Nat) (q : Cfg) (node : Nat) (a : Agen) (ts : List (List Word × Bool × Nat)) : State :=
  match q.memSlot node with
  | none => s
  | some (e, sl) =>
    let t : Tok := { (default : Tok) with colour := a.colour, tag := a.tag }
    let w := (s.grids.get c).widthOf q a.colour 1
    s.sendToks c (ts.map (fun x => edgeTok c q t node w (e * 16 + sl) 0 x.1 x.2.1 false x.2.2 0))

/-- Whether an address generator feeds a coordinate word (R339). -/
def Cfg.feedsCoord (q : Cfg) (node : Nat) : Bool :=
  match q.memSlot node with
  | none => false
  | some (e, sl) => match slotInstr (slotOpw ((q.image.elems.get e).slots.get sl)) with
    | some i => isCoord i
    | none => false

/-- Put an address generator. -/
def State.setAgen (s : State) (c : Nat) (q : Cfg) (node : Nat) (a : Agen) : State :=
  s.modNamed c q.name (fun q => { q with agens := q.agens.set node a, lastFire := s.clk c })

/-- The stops that follow `n` addresses. -/
def Agen.stops (a : Agen) (n : Nat) : List (List Word × Bool × Nat) := (a.step n).2.map (fun l => ([], false, l))

/-- Where an address generator makes its accesses. -/
def Agen.spot (a : Agen) (node : Nat) : Spot := ⟨64 + node, 0, a.tag, a.colour⟩

/-- A fault of an address generator clears its configuration (R343). -/
def State.agenFault (s : State) (c : Nat) (q : Cfg) (node code : Nat) (a : Agen) (va : DWord) : State :=
  s.cfgFault c q ⟨code, 64 + node, 0, a.tag, a.colour, va⟩

/-- The token that an address generator's firing is traced with. -/
def Agen.head (a : Agen) (c : Nat) (q : Cfg) (lanes : List Word) : Tok :=
  { (default : Tok) with ctx := q.ctx, handle := q.handle, colour := a.colour, tag := a.tag, core := c, width := max 1 lanes.length, lanes := lanes }

/-- A load or poisoned step of an address generator: `n` addresses for a token of `g` lanes (R199, R339, R340). -/
def State.agenLoad (s : State) (c : Nat) (q : Cfg) (node : Nat) (a : Agen) (n g : Nat) : State :=
  let fit (l : List Word) : List Word := (l ++ List.replicate (g - l.length) 0).take g
  let vas := (List.range n).map (fun k => a.addr (a.idx 0 + k))
  let send (s : State) (a' : Agen) (lanes : List Word) (bad last : Bool) : State :=
    (((s.setAgen c q node a').agenSend c q node a ((lanes, bad, 0) :: a.stops n)).agenSend c q node a
      (if last then [([], false, 3)] else [])).fired c (64 + node) (a.head c q lanes) 0
  if a.op = 3 ∨ a.bad then send s (a.after n) (List.replicate g 0) true (a.bad && !(a.step n).2.isEmpty)
  else match s.nodeAccess ⟨c, q⟩ (a.spot node) (vas.map (fun va => ⟨va, .load .none a.size false false⟩)) with
    | (s1, .wait) => s1
    | (s1, .bad code va) => s1.agenFault c q node code a va
    | (s1, .ok ls) =>
      let bad := ls.any (·.2)
      let meta_ := bad && q.feedsCoord node
      let ends := !(a.step n).2.isEmpty
      let s2 := if meta_ then s1.cfgRecord c q codeMeta (64 + node) 0 a.tag a.colour (a.addr (a.idx 0)) else s1
      send s2 { (a.after n) with bad := meta_ && !ends } (fit (ls.flatMap (·.1))) bad (meta_ && ends)

/-- Whether the address generators of a configuration go on in its stage: at a boundary only those that store do (R341, R342). -/
def Cfg.generates (q : Cfg) (a : Agen) : Bool :=
  match q.stage with
  | .run | .dropping => true
  | .halted _ => a.op == 1
  | .clearing => false

/-- A store step of an address generator: the oldest data token at the node is stored. -/
def State.agenStore (s : State) (c : Nat) (q : Cfg) (node : Nat) (a : Agen) (t : Tok) (i : Nat) : State :=
  let eat (s : State) : State := s.modGrid c (fun g => { g with arb := g.arb.eraseIdx i })
  if t.stop ≠ 0 then eat s
  else
    let k := min (max 1 (if a.size = 8 then t.width / 2 else t.width)) (a.extent 0 - a.idx 0)
    let head := { t with core := c }
    let done (s : State) : State :=
      (((eat s).setAgen c q node (a.after k)).agenSend c q node a (a.stops k)).fired c (64 + node) head 0
    if t.null then done s
    else if t.poison then done ((List.range k).foldl (fun s _ => s.cfgRecord c q codePoison (64 + node) 0 t.tag t.colour 0) s)
    else
      let data (j : Nat) : List Byte := if a.size = 8 then leBytes 4 (t.lanes.getD (2 * j) 0).toNat ++ leBytes 4 (t.lanes.getD (2 * j + 1) 0).toNat
        else leBytes a.size (t.lanes.getD j 0).toNat
      match s.nodeAccess ⟨c, q⟩ (a.spot node) ((List.range k).map (fun j => (⟨a.addr (a.idx 0 + j), .store (data j) none⟩ : MemOp))) with
      | (s1, .wait) => s1
      | (s1, .bad code va) => (eat s1).agenFault c q node code a va
      | (s1, .ok _) => (done s1).traceCommit c (64 + node) head t.lane0.toNat

/-- Meaning of AGEN_STEP (R126, R199, R323, R327, R334, R339, R340): the next addresses of a layout. A load fills one token of the colour's
grant, or of one lane where the token is a coordinate, from one run of i0; a store takes the oldest data token at the node; a slot free and
a poisoned address take one address. -/
def execAgenStep (c h node : Nat) (s : State) : Host.Outcome State Fault Refusal :=
  let g := s.grids.get c
  .next (match g.cfgNamed h with
    | none => s
    | some q =>
      let a := q.agens.get node
      if !a.active || !q.generates a || !s.gridRuns c then s
      else
        let width := if q.feedsCoord node then 1 else g.widthOf q a.colour 1
        let per := max 1 (if a.size = 8 then width / 2 else width)
        if a.op = 0 ∨ a.op = 3 then s.agenLoad c q node a (min per (a.extent 0 - a.idx 0)) (if a.size = 8 ∧ !q.feedsCoord node then 2 * per else per)
        else if a.op = 2 then
          let hd := (a.addr (a.idx 0)).lo.toNat
          let m := (s.cores.get c).streams.get hd
          let s1 := if m.ctx = q.ctx then s.freeSlot m.plot c hd else s
          ((s1.setAgen c q node (a.after 1)).agenSend c q node a (a.stops 1)).fired c (64 + node) (a.head c q []) 0
        else match g.arb.zipIdx.find? (fun o => q.owns o.1.tok && o.1.tok.edge && o.1.tok.elem == node) with
          | none => s
          | some (o, i) => s.agenStore c q node a o.tok i)

/-! ### Reduction elements (R198, R335) -/

/-- The combination of two values under a reduction's operation. -/
def redOp (op : Nat) (x y : Word) : Word :=
  if op = 0 then x + y
  else if op = 1 then BitVec.ofNat 32 (f32.add .ne x.toNat y.toNat).1
  else if op = 2 then (if x.slt y then y else x)
  else if op = 3 then BitVec.ofNat 32 (f32.minmax true x.toNat y.toNat).1
  else if op = 4 then (if y.slt x then y else x)
  else if op = 5 then BitVec.ofNat 32 (f32.minmax false x.toNat y.toNat).1
  else if op = 6 then x ||| y
  else x &&& y

/-- Two lists of lanes combined lane by lane; an absent lane leaves the other. -/
def redLanes (op : Nat) : List Word → List Word → List Word
  | [], ys => ys
  | xs, [] => xs
  | x :: xs, y :: ys => redOp op x y :: redLanes op xs ys

/-- A value token reaches a reduction element. -/
def Red.take (r : Red) (c : RedCfg) (t : Tok) : Red :=
  { r with
    parts := r.parts.modify (r.j % 4) (fun p => redLanes c.op p t.used)
    j := r.j + 1
    poison := r.poison || t.poison }

/-- What a reduction element emits (R198). -/
def Red.emit (r : Red) (c : RedCfg) : List Word :=
  redLanes c.op (redLanes c.op (r.parts.get 0) (r.parts.get 1)) (redLanes c.op (r.parts.get 2) (r.parts.get 3))

/-- Put a reduction element. -/
def State.setRed (s : State) (c : Nat) (q : Cfg) (x : Nat) (r : Red) : State :=
  s.modNamed c q.name (fun q => { q with reds := q.reds.set x r })

/-- A token at reduction element `x` (R198): a value joins a partial, and a stop of the configured level or higher emits the result, then
the stop. Lower stops and nulls are absorbed. -/
def State.redArrive (s : State) (c : Nat) (q : Cfg) (x : Nat) (k : RedCfg) (t : Tok) : State :=
  let r := q.reds.get x
  if t.null then s
  else if t.stop = 0 then s.setRed c q x (r.take k t)
  else if t.stop < k.level then s
  else
    let v := r.emit k
    let w := (s.grids.get c).widthOf q t.colour t.width
    (s.setRed c q x ⟨r.nextCfg.or r.cfg, none, [], 0, false⟩).sendToks c
      [edgeTok c q t x w k.dst k.port v (r.poison && r.j != 0) (r.j == 0) 0 0, edgeTok c q t x w k.dst k.port [] false false t.stop 0]

/-- Meaning of REDUCTION_ARRIVAL (R198): token `n` of core `c` arrives at its reduction element. -/
def execReductionArrival (c n : Nat) (s : State) : Host.Outcome State Fault Refusal :=
  let g := s.grids.get c
  .next (if !s.gridRuns c then s
    else match g.nextTok n with
    | none => s
    | some t =>
      if !t.edge || decide (t.elem < 16) || decide (24 ≤ t.elem) then s
      else match g.cfgs.find? (fun q => !q.captured && q.owns t && q.stage != .clearing) with
        | none => s
        | some q => match (q.reds.get t.elem).cfg with
          | none => s
          | some k => ((s.takeTok c n).redArrive c q t.elem k t).fired c (64 + t.elem) t 0)

/-! ### Width adapters (R201, R336) -/

/-- The narrow format of a link-word format tag; none for plain lanes. -/
def fmtNf (fmt : Nat) : Option Nf :=
  if fmt = 1 then some .e2m1 else if fmt = 2 then some .i4 else if fmt = 3 then some .e3m2 else if fmt = 4 then some .e2m3
  else if fmt = 5 then some .e4m3 else if fmt = 6 then some .e5m2 else if fmt = 7 then some .i8 else none

/-- The elements of a token as exact values, and whether one is an invalid code (R152, R201). -/
def Tok.elements (t : Tok) : List (Fp × Bool) :=
  match fmtNf t.fmt with
  | none => t.used.map (fun w => (f32.decode w.toNat, false))
  | some n => t.used.flatMap (fun w => (List.range (perLane t.fmt)).map (fun i =>
      let k := laneField w n.width i
      if k = n.invalid ∧ n ≠ .e4m3 ∧ n ≠ .e5m2 then (.nan false, true) else (n.decode k, false)))

/-- Group codes into lane words. -/
def packLanes (w k : Nat) : Nat → List Nat → List Word
  | 0, _ => []
  | n + 1, cs => if cs.isEmpty then [] else BitVec.ofNat 32 (packFields w (cs.take k)) :: packLanes w k n (cs.drop k)

/-- The lanes of a token after a width adapter's conversion, and whether it is poisoned (R150, R201). -/
def Tok.adapt (t : Tok) (a : Wad) : List Word × Bool :=
  let es := t.elements
  let bad := t.poison || es.any (·.2)
  match fmtNf a.target with
  | none => (es.map (fun e => BitVec.ofNat 32 (f32.round .ne e.1).1), bad)
  | some n =>
    let cs := es.map (fun e => n.convert a.sat .ne e.1)
    (packLanes n.width (perLane a.target) cs.length (cs.map (·.1)), bad || cs.any (fun c => c.2.2))

/-- The parts of lanes, 32 to a token (R336). -/
def partsOf : Nat → List Word → List (List Word)
  | 0, _ => []
  | n + 1, l => if l.isEmpty then [] else l.take 32 :: partsOf n (l.drop 32)

/-- Meaning of WIDTH_ADAPT (R201, R336): token `n` of core `c` is converted and sent on in parts; a stop or null goes to the first slot. -/
def execWidthAdapt (c n : Nat) (s : State) : Host.Outcome State Fault Refusal :=
  let g := s.grids.get c
  .next (if !s.gridRuns c then s
    else match g.nextTok n with
    | none => s
    | some t =>
      if !t.edge || decide (t.elem < 24) || decide (28 ≤ t.elem) then s
      else match g.cfgs.find? (fun q => !q.captured && q.owns t && q.stage != .clearing) with
        | none => s
        | some q =>
          let a := q.wads.get t.elem
          let dst := adaptDst t.elem
          let w := g.widthOf q t.colour t.width
          let s1 := s.takeTok c n
          let s2 := if t.stop ≠ 0 ∨ t.null then s1.sendToks c [edgeTok c q t t.elem w dst 0 [] t.poison t.null t.stop 0]
            else
              let r := t.adapt a
              s1.sendToks c ((partsOf 8 r.1).zipIdx.map (fun e => edgeTok c q t t.elem w (dst + e.2) 0 e.1 r.2 false 0 a.target))
          s2.fired c (64 + t.elem) t 0)

/-! ### Ingress taps (R234, R337) -/

/-- The configuration that an ingress port's open data stream feeds: its core, and itself (R234). -/
def State.fedCfg (s : State) (n : Nat) : Option (Nat × Cfg) :=
  match (s.ports.get n).open_ with
  | none => none
  | some (v, _) =>
    if headMode v ≠ 1 then none
    else match (s.cfgCores (portDie n) (headCtx v) (headHandle v)).head? with
      | none => none
      | some c => ((s.grids.get c).cfgNamed (headCtx v * 2 ^ 20 + headHandle v)).map (fun q => (c, q))

/-- The first ingress tap of an image. -/
def Image.inTap (im : Image) : Option Nat := (im.edges.keys).find? (fun x => decide (28 ≤ x) && !bit (im.edges.get x) 0)

/-- Meaning of INGRESS_TAP_FEED (R234): the ingress tap accepts the data token at the front of the port's buffer; the last of LEN closes
the stream. A tap takes no token of the next stream before it has sent the last one; a configuration being cleared consumes what it is
fed. -/
def execIngressTapFeed (n : Nat) (s : State) : Host.Outcome State Fault Refusal :=
  let p := s.ports.get n
  .next (match p.open_, p.buf, s.fedCfg n with
    | some (v, left), w :: rest, some (c, q) =>
      match q.image.inTap with
      | none => s
      | some x =>
        if !s.portLive n || !s.gridRuns c || (q.tapEnd.get x) || !(q.stage == .run || q.stage == .clearing) then s
        else
          let s1 := s.modPort n (fun p => { p with
            buf := rest, loadWait := false, open_ := if left ≤ 1 then none else some (v, left - 1) })
          let s2 := if q.stage == .clearing then s1 else s1.modNamed c q.name (fun q => { q with
            tapBuf := q.tapBuf.modify x (fun b => b ++ [w]), tapEnd := q.tapEnd.set x (decide (left ≤ 1)) })
          if left ≤ 1 then s2.portRun n 514 else s2
    | _, _, _ => s)

/-- Meaning of INGRESS_TAP_INJECT (R337): an ingress tap sends a token of its colour's grant, and after the last a level-3 stop. A tap of a
configuration that stands at a boundary, is dropped or is cleared sends none (R313, R341 to R343). -/
def execIngressTapInject (c h node : Nat) (s : State) : Host.Outcome State Fault Refusal :=
  .next (match (s.grids.get c).cfgNamed h with
    | none => s
    | some q =>
      let g := (s.grids.get c).widthOf q 0 2
      let k := max 1 (g / 2)
      let b := q.tapBuf.get node
      let fin := q.tapEnd.get node
      let tag := q.tapTag.get node
      match q.tapSlot node with
      | none => s
      | some (e, sl) =>
        if !s.gridRuns c || q.stage != .run || !(decide (k ≤ b.length) || fin) then s
        else
          let l := (b.take k).flatMap (fun v => [v.lo, v.hi])
          let lanes := (l ++ List.replicate g 0).take g
          let t : Tok := { (default : Tok) with tag := tag }
          let over_ := fin && decide (b.length ≤ k)
          let one := edgeTok c q t node g (e * 16 + sl) 0 lanes false false 0 0
          let stop := edgeTok c q t node g (e * 16 + sl) 0 [] false false 3 0
          ((s.modNamed c h (fun q => { q with
            tapBuf := q.tapBuf.set node (b.drop k), tapEnd := q.tapEnd.set node (fin && !over_), lastFire := s.clk c
            tapTag := q.tapTag.set node ((tag + 1) % 2 ^ 16) })).sendToks c
            ((if b.isEmpty then [] else [one]) ++ (if over_ then [stop] else []))).fired c (64 + node) one 0)

/-! ### Circuits (R318) -/

/-- Meaning of CIRCUIT_SETUP (R318). -/
def execCircuitSetup (c node dst xfers : Nat) (s : State) : Host.Outcome State Fault Refusal :=
  let g := s.grids.get c
  .next (if !s.gridRuns c || xfers == 0 || decide (4095 < xfers) || decide (32 ≤ node) || decide (serviceBase ≤ dst)
      || g.circuits.any (fun q => q.node == node && q.dst == dst) then s
    else s.modGrid c (fun g => { g with circuits := g.circuits ++
      [⟨node, dst, xfers, ((g.cfgs.find? (fun q => q.image.edges.get node != 0)).map (fun q => q.image.idle node)).getD 0, s.clk c⟩] }))

/-- Close circuit `k` of a core. -/
def State.dropCircuit (s : State) (c k : Nat) : State := s.modGrid c (fun g => { g with circuits := g.circuits.eraseIdx k })

/-- Meaning of CIRCUIT_IDLE (R311, R318). -/
def execCircuitIdle (c k : Nat) (s : State) : Host.Outcome State Fault Refusal :=
  .next (match (s.grids.get c).circuits[k]? with
    | none => s
    | some q => if s.gridRuns c && decide (q.since + 16000 * (q.idle + 1) ≤ s.clk c) then s.dropCircuit c k else s)

/-- Meaning of CIRCUIT_RELEASE (R318). -/
def execCircuitRelease (c k : Nat) (s : State) : Host.Outcome State Fault Refusal :=
  .next (if s.gridRuns c then s.dropCircuit c k else s)

/-! ### Shrinking and saving -/

/-- How the read of an image by configuration `a` is known while it waits. -/
def Site.imageSpot : Spot := ⟨255, 0, 0, 0⟩

/-- Read `n` bytes for a configuration: none while a page or another package is awaited, nothing where they cannot be read. -/
def State.cfgBytes (s : State) (a : Site) (va : DWord) (n : Nat) : State × Option (List Byte) :=
  let id := a.key Site.imageSpot 0
  match s.engCheck (s.whoCfg a) askCfg a.cfg.refused .read va n (pageFuel n) with
  | (s1, .wait) => (s1, none)
  | (s1, .bad _) => (s1, some [])
  | (s1, .ok ps) => match s1.fetchParts a.cfg.ctx 0 (s1.nodeCause a Site.imageSpot va) id ps with
    | (s2, .wait) => (s2, none)
    | (s2, .bad _ _) => (s2.forgetAns id, some [])
    | (s2, .ok bs) => (s2, some bs)

/-- Read the image at `va` for a configuration (R308): the header first, then its length. -/
def State.cfgImage (s : State) (a : Site) (va : DWord) : State × Option (List Byte) :=
  let r := s.cfgBytes a va 128
  match r.2 with
  | none => r
  | some hd =>
    if headerOk hd then
      let r2 := r.1.cfgBytes a va (hdrLength hd)
      (if r2.2.isNone then r2.1 else r2.1.forgetAns (a.key Site.imageSpot 0), r2.2)
    else (r.1, some [])

/-- Stop a region at a boundary (R341, R342). -/
def State.haltCfg (s : State) (c h : Nat) (shrink : Bool) : State := s.modNamed c h (fun q => { q with stage := .halted shrink })

/-- A region goes on from its boundary; faults that it met meanwhile take effect (R331, R341). -/
def State.resumeCfg (s : State) (c h : Nat) : State := (s.modNamed c h (fun q => { q with stage := .run })).lateFaults c h

/-- The elements that a shrunk region keeps (R341): columns 0 to 3, or all but rows 4 to 7 of columns 4 to 7. -/
def keptBy (quarter : Bool) (e : Nat) : Bool := if quarter then !(decide (4 ≤ e / 8) && decide (4 ≤ e % 8)) else decide (e % 8 < 4)

/-- A configuration with another image in `phases` phases, each element in its first (R341); none where the image fails its checks, needs
a sequence that the core lacks, or does not fit. -/
def State.withImage (s : State) (c : Nat) (q : Cfg) (bs : List Byte) (phases : Nat) (keeps : Nat → Bool) : Option Cfg :=
  let im := parseImage bs
  let g := s.grids.get c
  if !(headerOk bs && areasOk bs && im.ok && im.elems.keys.all keeps) then none
  else match (s.cores.get c).seqsFor q.ctx im.words with
    | none => none
    | some m => { g with cfgs := g.cfgs.filter (fun r => r != q) }.place { q with
        image := { im with althalf := q.image.althalf, altqtr := q.image.altqtr }, useqs := m, phases := phases, phase := []
        phaseSince := im.elems.keys.foldl (fun m e => m.set e (s.clk c)) [] }

/-- Meaning of REGION_SHRINK (R341): the region stops at a boundary, and, once it holds no token, takes its half or quarter alternative; the
same event grows a shrunk region back. An alternative that fails its checks, or uses an element that the region vacates, leaves the
region as it was. -/
def execRegionShrink (c h : Nat) (quarter : Bool) (s : State) : Host.Outcome State Fault Refusal :=
  let g := s.grids.get c
  .next (match g.cfgNamed h with
    | none => s
    | some q =>
      let alt := if q.phases ≠ 0 then q.addr else if quarter then q.image.altqtr else q.image.althalf
      if alt = 0 ∨ !s.gridRuns c then s
      else if q.stage == .run then s.haltCfg c h true
      else if q.stage == .halted true && !g.occupied q then
        match s.cfgImage ⟨c, q⟩ alt with
        | (s1, none) => s1
        | (s1, some bs) =>
          match s1.withImage c q bs (if q.phases ≠ 0 then 0 else if quarter then 4 else 2) (fun e => q.phases != 0 || keptBy quarter e) with
          | some q2 => (s1.modNamed c h (fun _ => q2)).resumeCfg c h
          | none => s1.resumeCfg c h
      else s)

/-- Whether some slot of the phase that element `e` is in is complete. -/
def Grid.phaseBusy (g : Grid) (q : Cfg) (e : Nat) : Bool :=
  (q.slotsOf e).any (fun v => q.open_ e v.1 && (g.idsAt q e v.1).any (fun id => (g.found q v.2.2 (slotPm v.2.1) e v.1 id.1 id.2).isSome))

/-- Meaning of PHASE_SWITCH (R341): an element of a shrunk region goes to its next phase after 256 cycles, or when no slot of the phase is
complete. -/
def execPhaseSwitch (c h : Nat) (s : State) (e : Nat := 0) : Host.Outcome State Fault Refusal :=
  let g := s.grids.get c
  .next (match g.cfgNamed h with
    | none => s
    | some q =>
      if q.phases ≠ 0 && q.image.elems.keys.contains e && s.gridRuns c
          && (decide (q.phaseSince.get e + 256000 ≤ s.clk c) || !g.phaseBusy q e) then
        s.modNamed c h (fun q => { q with phase := q.phase.set e ((q.phase.get e + 1) % q.phases), phaseSince := q.phaseSince.set e (s.clk c) })
      else s)

/-- The saved image of a configuration (R342): its image with SAVED and ORIG set, and its edge area moved to the end, with its state after
it (DESIGN CHOICE, notes/assumptions/46.md). -/
def Cfg.savedImage (q : Cfg) (g : Grid) (bs : List Byte) : List Byte :=
  let n := (bs.length + 15) / 16 * 16
  let edges := (bs.drop (hdrEdgeoff bs)).take (16 * ((List.range 32).filter (fun i => bit (hdrEdgemask bs) i)).length)
  let tail := edges ++ (q.stateNats g).flatMap (leBytes 4)
  let put (o k v : Nat) (l : List Byte) : List Byte := l.take o ++ leBytes k v ++ l.drop (o + k)
  put 4 4 (word32 bs 4 % 2 + 2) (put 48 8 q.addr.toNat (put 64 4 n (put 68 4 (n + tail.length)
    (bs ++ List.replicate (n - bs.length) 0)))) ++ tail

/-- Meaning of REGION_SAVE (R342): the region stops at a boundary, and, once it holds no token, its saved image is written at `va` and it is
freed. One whose own image can no longer be read goes on. -/
def execRegionSave (c h : Nat) (va : DWord) (s : State) : Host.Outcome State Fault Refusal :=
  let g := s.grids.get c
  .next (match g.cfgNamed h with
    | none => s
    | some q =>
      let a : Site := ⟨c, q⟩
      if !s.gridRuns c then s
      else if q.stage == .run then s.haltCfg c h false
      else if q.stage == .halted false && !g.occupied q then
        match s.cfgImage a q.addr with
        | (s1, none) => s1
        | (s1, some bs) =>
          if bs.length < 128 then s1.resumeCfg c h
          else match s1.nodeAccess a Site.imageSpot [⟨va, .store (q.savedImage g bs) none⟩] with
            | (s2, .wait) => s2
            | (s2, .bad code va) => s2.cfgFault c q ⟨code, 0, 0, 0, 0, va⟩
            | (s2, .ok _) => s2.freeCfg c h
      else s)

end Sys2Proof.Machine
end

