-- ==== Sys2Proof/Machine/HostEvents.lean ====
section
/-! DEFINITION. What the host does to device memory and device register space (07_memory.md R294, 11_package.md R399, R411). It reaches
device memory under key slot 0 (DESIGN CHOICE, notes/assumptions/34.md). -/

namespace Sys2Proof.Machine

/-- Offset in BAR 0 of an address of a host access, where it is one of the ports' window (R230, R411): the events name BAR 0 by addresses
from 2^63 on (DESIGN CHOICE, notes/assumptions/100.md). -/
def bar0 (pa : Nat) : Option Nat := if 2 ^ 63 ≤ pa ∧ pa < 2 ^ 63 + 0x40000 then some (pa - 2 ^ 63) else none

/-- Where a host access of `n` bytes at a physical address lies: device memory or device register space. -/
def hostLoc (pa n : Nat) : Option Loc :=
  if n = 0 then none
  else if inDevice pa && inDevice (pa + n - 1) then some (.dev pa 0)
  else if inRegs pa && inRegs (pa + n - 1) then some (.reg pa)
  else none

/-- Whether a register page takes a host access of `n` bytes (R398 to R400). -/
def hostRegOk (pa n : Nat) : Bool := (splitParts (n / 8 + 2) pa 0 n).all (fun q => regOk 2 (pa + q.1) q.2 n)

/-- Meaning of HOST_WRITE (R230, R294, R411): performed at the home once its leases have ended. -/
def execHostWrite (pa : Nat) (data : List Byte) (s : State) : Host.Outcome State Fault Refusal :=
  let n := data.length
  .next (match bar0 pa, hostLoc pa n with
    | some o, _ => s.portWrite o data
    | none, some (.reg a) => if hostRegOk a n then s.regBytes a data else s
    | none, some l =>
      let r := s.homesTry (.host pa) [(l, n)]
      if r.2 then (r.1.homeWrite 0 l data).notePerformed l n else r.1
    | none, none => s)

/-- Meaning of HOST_READ (R230, R294): the home answers with the bytes it holds. -/
def execHostRead (pa n : Nat) (s : State) : Host.Outcome State Fault Refusal :=
  .next (match bar0 pa, hostLoc pa n with
    | some o, _ => { s with hostData := s.portBytes o n }
    | none, some (.reg a) => if hostRegOk a n then { s with hostData := s.regRead a n } else s
    | none, some l => { s with hostData := s.homeBytes 0 l n }
    | none, none => s)

/-- The operations that a host AtomicOp may ask for (R411). -/
def hostAop (op : Nat) : Option AOp := if op = 0 then some .add else if op = 1 then some .xchg else if op = 2 then some .cas else none

/-- Meaning of HOST_ATOMICOP (R411): performed as the 64-bit atomic at the home; the old value goes back. -/
def execHostAtomicop (pa op : Nat) (x y : DWord) (s : State) : Host.Outcome State Fault Refusal :=
  .next (match hostAop op, hostLoc pa 8 with
    | some o, some (.dev a k) =>
      let r := s.homesTry (.host pa) [(.dev a k, 8)]
      if a % 8 ≠ 0 then s
      else if r.2 then
        let old := s.homeBytes 0 (.dev a k) 8
        let s1 := (r.1.homeWrite 0 (.dev a k) (leBytes 8 (atomNew o 8 (BitVec.ofNat 64 (leNat old)) x y).toNat)).notePerformed (.dev a k) 8
        { s1 with hostData := old }
      else r.1
    | _, _ => s)

end Sys2Proof.Machine
end

