-- ==== Sys2Proof/Machine/Tarnil.lean ====
section
/-! DEFINITION. The Tarnil fabric: packets from other packages, circuits, links, and time-outs (11_package.md R406 to R410; what the rules
leave open is in notes/assumptions/50.md). -/

namespace Sys2Proof.Machine

/-! ### Arrival -/

/-- The link that a packet's answer goes back on. -/
def State.backLink (s : State) (q : Packet) : Nat := (s.linkTo q.src).getD 0

/-- Change a link. -/
def State.modLink (s : State) (n : Nat) (f : Link → Link) : State := { s with links := s.links.modify n f }

/-- A malformed packet is discarded and counted (R407). -/
def State.linkError (s : State) (q : Packet) : State := s.modLink (s.backLink q) (fun l => { l with errors := l.errors + 1 })

/-- Whether a packet is one that this package takes in: of the type given and for this package, over a link that is neither down nor
retraining. -/
def State.takes (s : State) (typ : Nat) (q : Packet) : Bool :=
  q.typ == typ && q.dst == Config.packageId.toNat && !(s.links.get (s.backLink q)).down && !(s.links.get (s.backLink q)).retraining

/-- The effect of a packet of type `typ` (R407): a set reserved field makes it a link error, and a packet that gets through ends a row of
replays. -/
def onPacket (typ : Nat) (q : Packet) (f : State → State) (s : State) : Host.Outcome State Fault Refusal :=
  .next (
    if !s.takes typ q then s
    else if q.rsvd then s.linkError q
    else f (s.modLink (s.backLink q) (fun l => { l with replays := 0 })))

/-- Send an answer to a packet. -/
def State.answer (s : State) (q : Packet) (typ reason : Nat) (data : List Byte) : State :=
  let a := packetTo typ q.src q.ctx q.tag q.offset q.size q.aop data
  { s with outbox := s.outbox ++ [{ a with cls := q.cls, reason := reason }] }

/-- On whose behalf a packet's access is made: context CTX, through die 0's translations. -/
def State.whoPacket (s : State) (q : Packet) : Who := ⟨q.ctx, 0, 0, none, false, (s.ctxs.get q.ctx).priv⟩

/-- Who asks for the page of a packet's access (R426). -/
def askPacket : Asker := ⟨0, 0xFFFFFFFF, 5, 0⟩

/-- Whether a context is admitted at this package (R289, R410). -/
def State.admits (s : State) (x : Nat) : Bool := decide (x < 4096) && bit (s.desc 0 x).root.toNat 0

/-- The pages of context `x` that the runtime has refused to packets. -/
def State.fabRefused (s : State) (x : Nat) : List (Nat × Nat) :=
  (s.fabPages.filter (fun e => e.1 == x && e.2.2)).map (fun e => (65536 * e.2.1, 65536))

/-- The check of a packet's access of `n` bytes at `off` (R410): it waits, is refused with a reason, or has its parts. -/
inductive PkChk where
  | wait
  | refuse (reason : Nat)
  | ok (ps : List Part)

/-- Check a packet's access. A page without a leaf goes to die 0's runtime, and the packet waits until it is resolved or refused. -/
def State.packetCheck (s : State) (q : Packet) (a : Acc) (off n : Nat) : State × PkChk :=
  if !s.admits q.ctx then (s, .refuse 2)
  else
    let va := BitVec.ofNat 64 off
    let pg := off / 65536
    let w := s.whoPacket q
    let r := if a = .read then s.engCheck w askPacket (s.fabRefused q.ctx) a va n (pageFuel n)
      else s.engCheckPut (.packet q.src q.tag q.typ) w askPacket (s.fabRefused q.ctx) a va n (pageFuel n)
    match r.2 with
    | .ok ps => (r.1, .ok ps)
    | .wait =>
      let s1 := r.1
      (if (s1.dies.get 0).pages.any (fun e => e.covers q.ctx va) && !s1.fabPages.any (fun e => e.1 == q.ctx && e.2.1 == pg) then
        { s1 with fabPages := s1.fabPages ++ [(q.ctx, pg, false)] } else s1, .wait)
    | .bad c =>
      ({ r.1 with fabPages := r.1.fabPages.filter (fun e => !(e.1 == q.ctx && e.2.1 == pg && e.2.2)) }, .refuse (if c = codeFenced then 4 else 3))

/-- Do `f` with the parts of a packet's access, or wait, or refuse it (R410). -/
def State.atHome (s : State) (q : Packet) (a : Acc) (off n : Nat) (f : State → List Part → State) : State :=
  let r := s.packetCheck q a off n
  match r.2 with
  | .wait => r.1
  | .refuse k => r.1.answer q 9 k [BitVec.ofNat 8 k]
  | .ok ps => f r.1 ps

/-- Meaning of TARNIL_READ (R407): the bytes go back as read data. -/
def execTarnilRead (q : Packet) : State → Host.Outcome State Fault Refusal :=
  onPacket 0 q (fun s => s.atHome q .read q.offset (2 ^ q.size) (fun s ps =>
    s.answer q 1 0 (s.readParts 0 ps)))

/-- Meaning of TARNIL_WRITE (R407). -/
def execTarnilWrite (q : Packet) : State → Host.Outcome State Fault Refusal :=
  onPacket 2 q (fun s => s.atHome q .write q.offset (2 ^ q.size) (fun s ps => s.writeParts 0 (q.data.take (2 ^ q.size)) ps))

/-- The operands of an atomic packet: compare value and operand. -/
def packetOperands (q : Packet) (op : AOp) : DWord × DWord :=
  let n := 2 ^ q.size
  let w (l : List Byte) : DWord := BitVec.ofNat 64 (leNat (l.take n))
  if op = .cas then (w q.data, w (q.data.drop n)) else (0, w q.data)

/-- Meaning of TARNIL_ATOMIC (R106, R115, R283, R407): the old value goes back as atomic data. An addition of a scatter may have 1 or 2 bytes. -/
def execTarnilAtomic (q : Packet) : State → Host.Outcome State Fault Refusal :=
  onPacket 3 q (fun s =>
    let n := 2 ^ q.size
    match aopOf q.aop with
    | none => s.linkError q
    | some op =>
      if n ≠ 4 ∧ n ≠ 8 ∧ op ≠ .add then s.answer q 9 3 [3]
      else s.atHome q .atomic q.offset n (fun s ps =>
        if (⟨0, .amo op n 0 0 0⟩ : MemOp).act.hostBad ps then s.answer q 9 3 [3]
        else
          let old := BitVec.ofNat 64 (leNat (s.readParts 0 ps))
          let o := packetOperands q op
          (s.writeParts 0 (leBytes n (atomNew op n old o.2 o.1).toNat) ps).answer q 4 0 (leBytes n old.toNat)))

/-! ### Answers -/

/-- The request that an answer belongs to. -/
def State.reqOf (s : State) (q : Packet) : Option RemReq := s.remReqs.find? (fun r => r.tag == q.tag && r.pkg == q.src)

/-- A request that has had its answer. -/
def State.dropReq (s : State) (r : RemReq) : State := { s with remReqs := s.remReqs.filter (fun k => k != r) }

/-- Meaning of TARNIL_READ_DATA (R407, R410): the bytes of one part of a load, or those that an engine, a sequencer or a node waits for; a late
answer is discarded. -/
def execTarnilReadData (q : Packet) : State → Host.Outcome State Fault Refusal :=
  onPacket 1 q (fun s =>
    match s.reqOf q with
    | none => s
    | some r =>
      match r.kind with
      | .load seq off =>
        if r.late then s.dropReq r
        else (s.dropReq r).fillRemote r.thread seq off q.data
      | .fetch k off n => if r.late then s.dropReq r else (s.dropReq r).noteAns k off 0 ((q.data ++ List.replicate n 0).take n)
      | _ => s)

/-- Meaning of TARNIL_ATOMIC_DATA (R407, R410): the old value of an atomic. -/
def execTarnilAtomicData (q : Packet) : State → Host.Outcome State Fault Refusal :=
  onPacket 4 q (fun s =>
    match s.reqOf q with
    | none => s
    | some r =>
      match r.kind with
      | .amo seq =>
        let s1 := s.dropReq r
        if r.late then s1
        else match (s1.thr r.thread).stores.find? (fun h => h.seq == seq) with
          | some h => match h.op with
            | .amo _ _ _ d _ => s1.atomDone r.thread h d (BitVec.ofNat 64 (leNat (q.data.take h.len)))
            | .store _ => s1
          | none => s1
      | .addTo k off => if r.late then s.dropReq r else (s.dropReq r).noteAns k off 0 q.data
      | _ => s)

/-- Meaning of TARNIL_REFUSAL (R129, R410): the requesting access raises its code; a late refusal is discarded. A refused circuit is closed,
and everything under way on it is refused (DESIGN CHOICE, notes/assumptions/50.md). -/
def execTarnilRefusal (q : Packet) : State → Host.Outcome State Fault Refusal :=
  onPacket 9 q (fun s =>
    let mine (r : RemReq) : Bool := r.tag == q.tag && r.pkg == q.src
    let s1 := { s with
      remReqs := s.remReqs.filter (fun r => !mine r)
      fabCircs := s.fabCircs.filter (fun f => !(f.outward && f.peer == q.src && f.tag == q.tag)) }
    (s.remReqs.filter (fun r => mine r && !r.late)).foldl (fun s r => s.refuse r q.reason) s1)

/-! ### Tokens and circuits -/

/-- The token of a packet's payload: its header and its lanes (R314, R407). -/
def tokOf (bs : List Byte) : Tok :=
  let h := word64 bs 0
  let n := bits h 40 5 + 1
  { (default : Tok) with
    colour := bits h 0 4, tag := bits h 4 16, slot := bits h 20 4, elem := bits h 24 6, core := bits h 30 8, port := bits h 38 2
    width := n, poison := bit h 45, null := bit h 46, stop := bits h 47 2, fmt := bits h 49 4
    lanes := if bit h 46 || bits h 47 2 != 0 then [] else (List.range n).map (fun i => BitVec.ofNat 32 (word32 bs (8 + 4 * i))) }

/-- Meaning of TARNIL_TOKEN (R315, R407): the token is delivered under its route, or discarded with a fault record. -/
def execTarnilToken (q : Packet) : State → Host.Outcome State Fault Refusal :=
  onPacket 5 q (fun s =>
    let t := tokOf q.data
    let h := bits q.offset 4 20
    let lost : State := s.cfgRecord 0 { (default : Cfg) with ctx := q.ctx, handle := h } codeAddr t.elem t.slot t.tag t.colour 0
    if q.offset / 2 ^ 24 ≠ 0 then s.linkError q
    else match s.boundDie (s.desc 0 q.ctx).vd (bits q.offset 0 4) with
      | none => lost
      | some (pd, _) =>
        match s.routeEnd pd t.core q.ctx h with
        | none => lost
        | some (k, e, sl) => s.sendToks k [t.into k q.ctx h e sl (2 ^ 20 + q.src)])

/-- Meaning of TARNIL_CIRCUIT_SETUP (R408): the payload's first two bytes count the data packets to come. -/
def execTarnilCircuitSetup (q : Packet) : State → Host.Outcome State Fault Refusal :=
  onPacket 6 q (fun s =>
    if !s.admits q.ctx then s.answer q 9 2 [2]
    else { s with fabCircs := (s.fabCircs.filter (fun f => f.outward || f.peer != q.src || f.tag != q.tag)) ++
      [⟨false, q.src, q.ctx, q.tag, q.offset, min 4095 (leNat (q.data.take 2)), s.clk serviceBase⟩] })

/-- A circuit after one data packet of `n` bytes; the last one closes it. -/
def State.circStep (s : State) (f : FabCirc) (n : Nat) : State :=
  let cs := s.fabCircs.map (fun g => if g = f then { g with addr := g.addr + n, left := g.left - 1, since := s.clk serviceBase } else g)
  { s with fabCircs := cs.filter (fun g => g.left != 0) }

/-- Meaning of TARNIL_CIRCUIT_DATA (R408): the bytes are written where the last ones ended; where they are refused, the circuit closes
(DESIGN CHOICE, notes/assumptions/50.md). -/
def execTarnilCircuitData (q : Packet) : State → Host.Outcome State Fault Refusal :=
  onPacket 7 q (fun s =>
    match s.fabCircs.find? (fun f => !f.outward && f.peer == q.src && f.tag == q.tag) with
    | none => s
    | some f =>
      if q.data.isEmpty then s.circStep f 0
      else
        let q1 := { q with ctx := f.ctx }
        match s.packetCheck q1 .write f.addr q.data.length with
        | (s1, .wait) => s1
        | (s1, .refuse k) => { s1.answer q1 9 k [BitVec.ofNat 8 k] with fabCircs := s1.fabCircs.filter (fun g => g != f) }
        | (s1, .ok ps) => (s1.writeParts 0 q.data ps).circStep f q.data.length)

/-- Meaning of TARNIL_CIRCUIT_RELEASE (R408). -/
def execTarnilCircuitRelease (q : Packet) : State → Host.Outcome State Fault Refusal :=
  onPacket 8 q (fun s => { s with fabCircs := s.fabCircs.filter (fun f => f.peer != q.src || f.tag != q.tag) })

/-- Meaning of FABRIC_CIRCUIT_IDLE (R408): a circuit idle for 4,096 cycles closes; the end that opened it says so. The cycles are those of
the service cores' clock, since the spec names none (DESIGN CHOICE, notes/assumptions/90.md). -/
def execFabricCircuitIdle (k : Nat) (s : State) : Host.Outcome State Fault Refusal :=
  .next (match s.fabCircs[k]? with
    | none => s
    | some f =>
      if f.since + 4096000 ≤ s.clk serviceBase then
        { s with
          fabCircs := s.fabCircs.eraseIdx k
          outbox := if f.outward then s.outbox ++ [packetTo 8 f.peer f.ctx f.tag 0 0 0 []] else s.outbox }
      else s)

/-! ### Links -/

/-- Links of the package (R406). -/
def linkCount : Nat := 128

/-- Meaning of LINK_REPLAY (R409). -/
def execLinkReplay (n : Nat) (s : State) : Host.Outcome State Fault Refusal :=
  .next (if decide (n < linkCount) && !(s.links.get n).down && !(s.links.get n).retraining then
      s.modLink n (fun l => { l with replays := l.replays + 1, errors := l.errors + 1 })
    else s)

/-- Meaning of LINK_RETRAIN (R409). -/
def execLinkRetrain (n : Nat) (s : State) : Host.Outcome State Fault Refusal :=
  .next (if decide (n < linkCount) && !(s.links.get n).down && decide (16 ≤ (s.links.get n).replays) then
      s.modLink n (fun l => { l with retraining := true, replays := 0 })
    else s)

/-- Meaning of LINK_RETRAIN_COMPLETE (R409). -/
def execLinkRetrainComplete (n : Nat) (s : State) : Host.Outcome State Fault Refusal :=
  .next (if (s.links.get n).retraining then s.modLink n (fun l => { l with retraining := false }) else s)

/-- Refuse an outstanding request with reason 5: its answer, should it still come, is discarded (R410). -/
def State.lateReq (s : State) (r : RemReq) : State :=
  let s1 := s.refuse r 5
  { s1 with remReqs := s1.remReqs.filterMap (fun k => if k = r then (match r.kind with
      | .store _ _ | .put _ _ => none
      | _ => some { k with late := true }) else some k) }

/-- Meaning of TARNIL_LINK_DOWN (R410): the requests over the link are refused with reason 5, and its circuits are gone. -/
def execTarnilLinkDown (n : Nat) (s : State) : Host.Outcome State Fault Refusal :=
  .next (if decide (n < linkCount) && !(s.links.get n).down then
      let s1 := s.modLink n (fun l => { l with down := true, retraining := false })
      let over_ (pkg : Nat) : Bool := s.linkTo pkg == some n
      let s2 := { s1 with fabCircs := s1.fabCircs.filter (fun f => !over_ f.peer) }
      (s.remReqs.filter (fun r => over_ r.pkg && !r.late)).foldl (fun s r => s.lateReq r) s2
    else s)

/-- Meaning of REMOTE_TIMEOUT (R410): no response within 10 ms. -/
def execRemoteTimeout (tag : Nat) (s : State) : Host.Outcome State Fault Refusal :=
  .next (match s.remReqs.find? (fun r => r.tag == tag && !r.late) with
    | none => s
    | some r => if r.issued + 10000000 ≤ s.time then s.lateReq r else s)

end Sys2Proof.Machine
end

