-- ==== Sys2Proof/Machine/Dispatch.lean ====
section
/-! DEFINITION. One arm for each constructor of `Instr`: a direct call of its meaning. -/

namespace Sys2Proof.Machine

/-- The meaning of every instruction and event of the opcode table. -/
def exec (i : Instr) (s : State) : Host.Outcome State Fault Refusal :=
  match i with
  | .add f => Sys2Proof.Machine.execAdd f s
  | .sub f => Sys2Proof.Machine.execSub f s
  | .and f => Sys2Proof.Machine.execAnd f s
  | .or f => Sys2Proof.Machine.execOr f s
  | .xor f => Sys2Proof.Machine.execXor f s
  | .andn f => Sys2Proof.Machine.execAndn f s
  | .orn f => Sys2Proof.Machine.execOrn f s
  | .xnor f => Sys2Proof.Machine.execXnor f s
  | .shl f => Sys2Proof.Machine.execShl f s
  | .shr f => Sys2Proof.Machine.execShr f s
  | .sra f => Sys2Proof.Machine.execSra f s
  | .rol f => Sys2Proof.Machine.execRol f s
  | .ror f => Sys2Proof.Machine.execRor f s
  | .clz f => Sys2Proof.Machine.execClz f s
  | .popc f => Sys2Proof.Machine.execPopc f s
  | .brev f => Sys2Proof.Machine.execBrev f s
  | .minS f => Sys2Proof.Machine.execMinS f s
  | .maxS f => Sys2Proof.Machine.execMaxS f s
  | .minU f => Sys2Proof.Machine.execMinU f s
  | .maxU f => Sys2Proof.Machine.execMaxU f s
  | .abs f => Sys2Proof.Machine.execAbs f s
  | .neg f => Sys2Proof.Machine.execNeg f s
  | .sextB f => Sys2Proof.Machine.execSextB f s
  | .sextH f => Sys2Proof.Machine.execSextH f s
  | .mul f => Sys2Proof.Machine.execMul f s
  | .mulhiS f => Sys2Proof.Machine.execMulhiS f s
  | .mulhiU f => Sys2Proof.Machine.execMulhiU f s
  | .mad f => Sys2Proof.Machine.execMad f s
  | .divS f => Sys2Proof.Machine.execDivS f s
  | .divU f => Sys2Proof.Machine.execDivU f s
  | .remS f => Sys2Proof.Machine.execRemS f s
  | .remU f => Sys2Proof.Machine.execRemU f s
  | .addD f => Sys2Proof.Machine.execAddD f s
  | .subD f => Sys2Proof.Machine.execSubD f s
  | .madD f => Sys2Proof.Machine.execMadD f s
  | .mulwS f => Sys2Proof.Machine.execMulwS f s
  | .mulwU f => Sys2Proof.Machine.execMulwU f s
  | .shlD f => Sys2Proof.Machine.execShlD f s
  | .shrD f => Sys2Proof.Machine.execShrD f s
  | .sraD f => Sys2Proof.Machine.execSraD f s
  | .cmpEq f => Sys2Proof.Machine.execCmpEq f s
  | .cmpNe f => Sys2Proof.Machine.execCmpNe f s
  | .cmpLtS f => Sys2Proof.Machine.execCmpLtS f s
  | .cmpLeS f => Sys2Proof.Machine.execCmpLeS f s
  | .cmpLtU f => Sys2Proof.Machine.execCmpLtU f s
  | .cmpLeU f => Sys2Proof.Machine.execCmpLeU f s
  | .cmpTst f => Sys2Proof.Machine.execCmpTst f s
  | .cmpTstn f => Sys2Proof.Machine.execCmpTstn f s
  | .sel f => Sys2Proof.Machine.execSel f s
  | .bfxU f => Sys2Proof.Machine.execBfxU f s
  | .bfxS f => Sys2Proof.Machine.execBfxS f s
  | .bfi f => Sys2Proof.Machine.execBfi f s
  | .mov f => Sys2Proof.Machine.execMov f s
  | .lea2 f => Sys2Proof.Machine.execLea2 f s
  | .lea4 f => Sys2Proof.Machine.execLea4 f s
  | .lea8 f => Sys2Proof.Machine.execLea8 f s
  | .lea16 f => Sys2Proof.Machine.execLea16 f s
  | .addi f => Sys2Proof.Machine.execAddi f s
  | .andi f => Sys2Proof.Machine.execAndi f s
  | .ori f => Sys2Proof.Machine.execOri f s
  | .xori f => Sys2Proof.Machine.execXori f s
  | .shli f => Sys2Proof.Machine.execShli f s
  | .shri f => Sys2Proof.Machine.execShri f s
  | .srai f => Sys2Proof.Machine.execSrai f s
  | .roli f => Sys2Proof.Machine.execRoli f s
  | .cmpiEq f => Sys2Proof.Machine.execCmpiEq f s
  | .cmpiNe f => Sys2Proof.Machine.execCmpiNe f s
  | .cmpiLtS f => Sys2Proof.Machine.execCmpiLtS f s
  | .cmpiLeS f => Sys2Proof.Machine.execCmpiLeS f s
  | .cmpiLtU f => Sys2Proof.Machine.execCmpiLtU f s
  | .cmpiLeU f => Sys2Proof.Machine.execCmpiLeU f s
  | .cmpiGtS f => Sys2Proof.Machine.execCmpiGtS f s
  | .cmpiGtU f => Sys2Proof.Machine.execCmpiGtU f s
  | .movi f => Sys2Proof.Machine.execMovi f s
  | .movhi f => Sys2Proof.Machine.execMovhi f s
  | .fadd f => Sys2Proof.Machine.execFadd f s
  | .fsub f => Sys2Proof.Machine.execFsub f s
  | .fmul f => Sys2Proof.Machine.execFmul f s
  | .fmin f => Sys2Proof.Machine.execFmin f s
  | .fmax f => Sys2Proof.Machine.execFmax f s
  | .fabs f => Sys2Proof.Machine.execFabs f s
  | .fneg f => Sys2Proof.Machine.execFneg f s
  | .fcpsgn f => Sys2Proof.Machine.execFcpsgn f s
  | .fma f => Sys2Proof.Machine.execFma f s
  | .fms f => Sys2Proof.Machine.execFms f s
  | .fnma f => Sys2Proof.Machine.execFnma f s
  | .fnms f => Sys2Proof.Machine.execFnms f s
  | .fmulH2 f => Sys2Proof.Machine.execFmulH2 f s
  | .faddH2 f => Sys2Proof.Machine.execFaddH2 f s
  | .fmaH2 f => Sys2Proof.Machine.execFmaH2 f s
  | .fmaB2 f => Sys2Proof.Machine.execFmaB2 f s
  | .fcmpEq f => Sys2Proof.Machine.execFcmpEq f s
  | .fcmpNe f => Sys2Proof.Machine.execFcmpNe f s
  | .fcmpLt f => Sys2Proof.Machine.execFcmpLt f s
  | .fcmpLe f => Sys2Proof.Machine.execFcmpLe f s
  | .fcmpGe f => Sys2Proof.Machine.execFcmpGe f s
  | .fcmpGt f => Sys2Proof.Machine.execFcmpGt f s
  | .fcmpUn f => Sys2Proof.Machine.execFcmpUn f s
  | .fcmpOrd f => Sys2Proof.Machine.execFcmpOrd f s
  | .cvtF32S f => Sys2Proof.Machine.execCvtF32S f s
  | .cvtSF32 f => Sys2Proof.Machine.execCvtSF32 f s
  | .cvtF32U f => Sys2Proof.Machine.execCvtF32U f s
  | .cvtUF32 f => Sys2Proof.Machine.execCvtUF32 f s
  | .cvtF32F16 f => Sys2Proof.Machine.execCvtF32F16 f s
  | .cvtF16F32 f => Sys2Proof.Machine.execCvtF16F32 f s
  | .cvtF32Bf16 f => Sys2Proof.Machine.execCvtF32Bf16 f s
  | .cvtBf16F32 f => Sys2Proof.Machine.execCvtBf16F32 f s
  | .frndNe f => Sys2Proof.Machine.execFrndNe f s
  | .frndZ f => Sys2Proof.Machine.execFrndZ f s
  | .frndDn f => Sys2Proof.Machine.execFrndDn f s
  | .frndUp f => Sys2Proof.Machine.execFrndUp f s
  | .fcls f => Sys2Proof.Machine.execFcls f s
  | .fldexp f => Sys2Proof.Machine.execFldexp f s
  | .fgetexp f => Sys2Proof.Machine.execFgetexp f s
  | .fgetman f => Sys2Proof.Machine.execFgetman f s
  | .addB2 f => Sys2Proof.Machine.execAddB2 f s
  | .subB2 f => Sys2Proof.Machine.execSubB2 f s
  | .mulB2 f => Sys2Proof.Machine.execMulB2 f s
  | .minB2 f => Sys2Proof.Machine.execMinB2 f s
  | .maxB2 f => Sys2Proof.Machine.execMaxB2 f s
  | .subH2 f => Sys2Proof.Machine.execSubH2 f s
  | .minH2 f => Sys2Proof.Machine.execMinH2 f s
  | .maxH2 f => Sys2Proof.Machine.execMaxH2 f s
  | .npkE4m3 f => Sys2Proof.Machine.execNpkE4m3 f s
  | .npkE5m2 f => Sys2Proof.Machine.execNpkE5m2 f s
  | .npkE3m2 f => Sys2Proof.Machine.execNpkE3m2 f s
  | .npkE2m3 f => Sys2Proof.Machine.execNpkE2m3 f s
  | .npkE2m1 f => Sys2Proof.Machine.execNpkE2m1 f s
  | .npkI8 f => Sys2Proof.Machine.execNpkI8 f s
  | .npkI4 f => Sys2Proof.Machine.execNpkI4 f s
  | .nupE4m3 f => Sys2Proof.Machine.execNupE4m3 f s
  | .nupE5m2 f => Sys2Proof.Machine.execNupE5m2 f s
  | .nupE3m2 f => Sys2Proof.Machine.execNupE3m2 f s
  | .nupE2m3 f => Sys2Proof.Machine.execNupE2m3 f s
  | .nupE2m1 f => Sys2Proof.Machine.execNupE2m1 f s
  | .nupI8 f => Sys2Proof.Machine.execNupI8 f s
  | .nupI4 f => Sys2Proof.Machine.execNupI4 f s
  | .dot4E4 f => Sys2Proof.Machine.execDot4E4 f s
  | .dot4E5 f => Sys2Proof.Machine.execDot4E5 f s
  | .dot8F4 f => Sys2Proof.Machine.execDot8F4 f s
  | .dot4I8 f => Sys2Proof.Machine.execDot4I8 f s
  | .dot8I4 f => Sys2Proof.Machine.execDot8I4 f s
  | .dot2B2 f => Sys2Proof.Machine.execDot2B2 f s
  | .dot2H2 f => Sys2Proof.Machine.execDot2H2 f s
  | .dot2B2f f => Sys2Proof.Machine.execDot2B2f f s
  | .vmxF4 f => Sys2Proof.Machine.execVmxF4 f s
  | .vmxE4 f => Sys2Proof.Machine.execVmxE4 f s
  | .vmxE5 f => Sys2Proof.Machine.execVmxE5 f s
  | .qntF4 f => Sys2Proof.Machine.execQntF4 f s
  | .qntE4 f => Sys2Proof.Machine.execQntE4 f s
  | .qntE5 f => Sys2Proof.Machine.execQntE5 f s
  | .qntF4o f => Sys2Proof.Machine.execQntF4o f s
  | .qntE4o f => Sys2Proof.Machine.execQntE4o f s
  | .amaxL f => Sys2Proof.Machine.execAmaxL f s
  | .scl f => Sys2Proof.Machine.execScl f s
  | .kc2DecLo f => Sys2Proof.Machine.execKc2DecLo f s
  | .kc2DecHi f => Sys2Proof.Machine.execKc2DecHi f s
  | .cbLd f => Sys2Proof.Machine.execCbLd f s
  | .exp f => Sys2Proof.Machine.execExp f s
  | .exp2 f => Sys2Proof.Machine.execExp2 f s
  | .ln f => Sys2Proof.Machine.execLn f s
  | .log2 f => Sys2Proof.Machine.execLog2 f s
  | .rcp f => Sys2Proof.Machine.execRcp f s
  | .rsqrt f => Sys2Proof.Machine.execRsqrt f s
  | .sqrt f => Sys2Proof.Machine.execSqrt f s
  | .erf f => Sys2Proof.Machine.execErf f s
  | .tanh f => Sys2Proof.Machine.execTanh f s
  | .sigm f => Sys2Proof.Machine.execSigm f s
  | .gelu f => Sys2Proof.Machine.execGelu f s
  | .silu f => Sys2Proof.Machine.execSilu f s
  | .sin f => Sys2Proof.Machine.execSin f s
  | .cos f => Sys2Proof.Machine.execCos f s
  | .tbl f => Sys2Proof.Machine.execTbl f s
  | .rsMax f => Sys2Proof.Machine.execRsMax f s
  | .rsSexp f => Sys2Proof.Machine.execRsSexp f s
  | .rsMean f => Sys2Proof.Machine.execRsMean f s
  | .rsDev f => Sys2Proof.Machine.execRsDev f s
  | .rsFin f => Sys2Proof.Machine.execRsFin f s
  | .smxFin f => Sys2Proof.Machine.execSmxFin f s
  | .mask f => Sys2Proof.Machine.execMask f s
  | .shflIdx f => Sys2Proof.Machine.execShflIdx f s
  | .shflUp f => Sys2Proof.Machine.execShflUp f s
  | .shflDn f => Sys2Proof.Machine.execShflDn f s
  | .shflXor f => Sys2Proof.Machine.execShflXor f s
  | .ballot f => Sys2Proof.Machine.execBallot f s
  | .laneMatch f => Sys2Proof.Machine.execLaneMatch f s
  | .laneAny f => Sys2Proof.Machine.execLaneAny f s
  | .laneAll f => Sys2Proof.Machine.execLaneAll f s
  | .redAdd f => Sys2Proof.Machine.execRedAdd f s
  | .redMin f => Sys2Proof.Machine.execRedMin f s
  | .redMax f => Sys2Proof.Machine.execRedMax f s
  | .redAnd f => Sys2Proof.Machine.execRedAnd f s
  | .redOr f => Sys2Proof.Machine.execRedOr f s
  | .redFadd f => Sys2Proof.Machine.execRedFadd f s
  | .scanAdd f => Sys2Proof.Machine.execScanAdd f s
  | .scanFadd f => Sys2Proof.Machine.execScanFadd f s
  | .tblLd f => Sys2Proof.Machine.execTblLd f s
  | .tblSw f => Sys2Proof.Machine.execTblSw f s
  | .tblRd f => Sys2Proof.Machine.execTblRd f s
  | .ld f => Sys2Proof.Machine.execLd f s
  | .lds f => Sys2Proof.Machine.execLds f s
  | .st f => Sys2Proof.Machine.execSt f s
  | .ldq f => Sys2Proof.Machine.execLdq f s
  | .stq f => Sys2Proof.Machine.execStq f s
  | .ldNc f => Sys2Proof.Machine.execLdNc f s
  | .pf f => Sys2Proof.Machine.execPf f s
  | .lda f => Sys2Proof.Machine.execLda f s
  | .stl f => Sys2Proof.Machine.execStl f s
  | .amoAdd f => Sys2Proof.Machine.execAmoAdd f s
  | .amoMinS f => Sys2Proof.Machine.execAmoMinS f s
  | .amoMaxS f => Sys2Proof.Machine.execAmoMaxS f s
  | .amoMinU f => Sys2Proof.Machine.execAmoMinU f s
  | .amoMaxU f => Sys2Proof.Machine.execAmoMaxU f s
  | .amoAnd f => Sys2Proof.Machine.execAmoAnd f s
  | .amoOr f => Sys2Proof.Machine.execAmoOr f s
  | .amoXor f => Sys2Proof.Machine.execAmoXor f s
  | .amoXchg f => Sys2Proof.Machine.execAmoXchg f s
  | .amoCas f => Sys2Proof.Machine.execAmoCas f s
  | .amoFadd f => Sys2Proof.Machine.execAmoFadd f s
  | .amoFaddB2 f => Sys2Proof.Machine.execAmoFaddB2 f s
  | .amoFmax f => Sys2Proof.Machine.execAmoFmax f s
  | .amoIncW f => Sys2Proof.Machine.execAmoIncW f s
  | .amoDecW f => Sys2Proof.Machine.execAmoDecW f s
  | .br f => Sys2Proof.Machine.execBr f s
  | .userMacro f => Sys2Proof.Machine.execUserMacro f s
  | .calloc a => Sys2Proof.Machine.execCalloc a s
  | .pack a b => Sys2Proof.Machine.execPack a b s
  | .unpack f => Sys2Proof.Machine.execUnpack f s
  | .merge a b => Sys2Proof.Machine.execMerge a b s
  | .steer a => Sys2Proof.Machine.execSteer a s
  | .redCfg f => Sys2Proof.Machine.execRedCfg f s
  | .agen a => Sys2Proof.Machine.execAgen a s
  | .isect a b => Sys2Proof.Machine.execIsect a b s
  | .unionCoord a b => Sys2Proof.Machine.execUnionCoord a b s
  | .eos f => Sys2Proof.Machine.execEos f s
  | .emit a b => Sys2Proof.Machine.execEmit a b s
  | .wadapt f => Sys2Proof.Machine.execWadapt f s
  | .feClr f => Sys2Proof.Machine.execFeClr f s
  | .feSet f => Sys2Proof.Machine.execFeSet f s
  | .feTst f => Sys2Proof.Machine.execFeTst f s
  | .feWt f => Sys2Proof.Machine.execFeWt f s
  | .gat f => Sys2Proof.Machine.execGat f s
  | .sct f => Sys2Proof.Machine.execSct f s
  | .otkNew f => Sys2Proof.Machine.execOtkNew f s
  | .otkWt f => Sys2Proof.Machine.execOtkWt f s
  | .fenceCore f => Sys2Proof.Machine.execFenceCore f s
  | .fenceDie f => Sys2Proof.Machine.execFenceDie f s
  | .fencePkg f => Sys2Proof.Machine.execFencePkg f s
  | .fenceSys f => Sys2Proof.Machine.execFenceSys f s
  | .xfence f => Sys2Proof.Machine.execXfence f s
  | .gwct f => Sys2Proof.Machine.execGwct f s
  | .leaseDrop f => Sys2Proof.Machine.execLeaseDrop f s
  | .barArr f => Sys2Proof.Machine.execBarArr f s
  | .barWt f => Sys2Proof.Machine.execBarWt f s
  | .barSync f => Sys2Proof.Machine.execBarSync f s
  | .nbarArr f => Sys2Proof.Machine.execNbarArr f s
  | .nbarWt f => Sys2Proof.Machine.execNbarWt f s
  | .bwait f => Sys2Proof.Machine.execBwait f s
  | .bobjInit f => Sys2Proof.Machine.execBobjInit f s
  | .kick f => Sys2Proof.Machine.execKick f s
  | .cpySt f => Sys2Proof.Machine.execCpySt f s
  | .free f => Sys2Proof.Machine.execFree f s
  | .ringInit f => Sys2Proof.Machine.execRingInit f s
  | .send f => Sys2Proof.Machine.execSend f s
  | .recvAdv f => Sys2Proof.Machine.execRecvAdv f s
  | .call f => Sys2Proof.Machine.execCall f s
  | .brx f => Sys2Proof.Machine.execBrx f s
  | .callx f => Sys2Proof.Machine.execCallx f s
  | .ret f => Sys2Proof.Machine.execRet f s
  | .exit f => Sys2Proof.Machine.execExit f s
  | .yield f => Sys2Proof.Machine.execYield f s
  | .sleep f => Sys2Proof.Machine.execSleep f s
  | .nop f => Sys2Proof.Machine.execNop f s
  | .hot f => Sys2Proof.Machine.execHot f s
  | .spawn f => Sys2Proof.Machine.execSpawn f s
  | .spawnW f => Sys2Proof.Machine.execSpawnW f s
  | .regroup f => Sys2Proof.Machine.execRegroup f s
  | .nocap f => Sys2Proof.Machine.execNocap f s
  | .capok f => Sys2Proof.Machine.execCapok f s
  | .trap f => Sys2Proof.Machine.execTrap f s
  | .lnch f => Sys2Proof.Machine.execLnch f s
  | .srd f => Sys2Proof.Machine.execSrd f s
  | .crd f => Sys2Proof.Machine.execCrd f s
  | .cwr f => Sys2Proof.Machine.execCwr f s
  | .tret f => Sys2Proof.Machine.execTret f s
  | .wfi f => Sys2Proof.Machine.execWfi f s
  | .halt f => Sys2Proof.Machine.execHalt f s
  | .vdhop f => Sys2Proof.Machine.execVdhop f s
  | .cfgld f => Sys2Proof.Machine.execCfgld f s
  | .cfgDrop f => Sys2Proof.Machine.execCfgDrop f s
  | .wcsld f => Sys2Proof.Machine.execWcsld f s
  | .wcsbind f => Sys2Proof.Machine.execWcsbind f s
  | .accRd f => Sys2Proof.Machine.execAccRd f s
  | .accWr f => Sys2Proof.Machine.execAccWr f s
  | .tileRd f => Sys2Proof.Machine.execTileRd f s
  | .tileWr f => Sys2Proof.Machine.execTileWr f s
  | .olRd f => Sys2Proof.Machine.execOlRd f s
  | .olWr f => Sys2Proof.Machine.execOlWr f s
  | .olCnt f => Sys2Proof.Machine.execOlCnt f s
  | .mmaBf16 f => Sys2Proof.Machine.execMmaBf16 f s
  | .mmaF16 f => Sys2Proof.Machine.execMmaF16 f s
  | .mmaE4m3 f => Sys2Proof.Machine.execMmaE4m3 f s
  | .mmaE5m2 f => Sys2Proof.Machine.execMmaE5m2 f s
  | .mmaMxe4 f => Sys2Proof.Machine.execMmaMxe4 f s
  | .mmaMxe5 f => Sys2Proof.Machine.execMmaMxe5 f s
  | .mmaMxf6 f => Sys2Proof.Machine.execMmaMxf6 f s
  | .mmaMxf4 f => Sys2Proof.Machine.execMmaMxf4 f s
  | .mmaI8 f => Sys2Proof.Machine.execMmaI8 f s
  | .mmaI4 f => Sys2Proof.Machine.execMmaI4 f s
  | .mmaBf16T f => Sys2Proof.Machine.execMmaBf16T f s
  | .tld f => Sys2Proof.Machine.execTld f s
  | .tstRaw f => Sys2Proof.Machine.execTstRaw f s
  | .tstBf16 f => Sys2Proof.Machine.execTstBf16 f s
  | .tstF16 f => Sys2Proof.Machine.execTstF16 f s
  | .tstE4m3 f => Sys2Proof.Machine.execTstE4m3 f s
  | .tstE5m2 f => Sys2Proof.Machine.execTstE5m2 f s
  | .tzT d => Sys2Proof.Machine.execTzT d s
  | .tzA d => Sys2Proof.Machine.execTzA d s
  | .tsetW d a => Sys2Proof.Machine.execTsetW d a s
  | .tsetH d a => Sys2Proof.Machine.execTsetH d a s
  | .tsetC d a => Sys2Proof.Machine.execTsetC d a s
  | .tsetEsc d a => Sys2Proof.Machine.execTsetEsc d a s
  | .kadd d a b => Sys2Proof.Machine.execKadd d a b s
  | .ksub d a b => Sys2Proof.Machine.execKsub d a b s
  | .kmul d a b => Sys2Proof.Machine.execKmul d a b s
  | .kand d a b => Sys2Proof.Machine.execKand d a b s
  | .kor d a b => Sys2Proof.Machine.execKor d a b s
  | .kshl d a b => Sys2Proof.Machine.execKshl d a b s
  | .kshr d a b => Sys2Proof.Machine.execKshr d a b s
  | .kmov d a => Sys2Proof.Machine.execKmov d a s
  | .kaddi d imm => Sys2Proof.Machine.execKaddi d imm s
  | .kmovi d imm => Sys2Proof.Machine.execKmovi d imm s
  | .krep a o => Sys2Proof.Machine.execKrep a o s
  | .kbnz a o => Sys2Proof.Machine.execKbnz a o s
  | .kend => Sys2Proof.Machine.execKend s
  | .cadNbarArr a => Sys2Proof.Machine.execCadNbarArr a s
  | .cadNbarWt a => Sys2Proof.Machine.execCadNbarWt a s
  | .cend => Sys2Proof.Machine.execCend s
  | .olClr d => Sys2Proof.Machine.execOlClr d s
  | .olLim d a => Sys2Proof.Machine.execOlLim d a s
  | .packerCycle c => Sys2Proof.Machine.execPackerCycle c s
  | .laneEvent p blk => Sys2Proof.Machine.execLaneEvent p blk s
  | .barrierTimeout seq k => Sys2Proof.Machine.execBarrierTimeout seq k s
  | .sleepEnd t => Sys2Proof.Machine.execSleepEnd t s
  | .spawnQueueRoom t => Sys2Proof.Machine.execSpawnQueueRoom t s
  | .spawnWaitLimit t => Sys2Proof.Machine.execSpawnWaitLimit t s
  | .spawnBinRelease p entry => Sys2Proof.Machine.execSpawnBinRelease p entry s
  | .spawnBinTimer p entry => Sys2Proof.Machine.execSpawnBinTimer p entry s
  | .regroupBinRelease p pc v => Sys2Proof.Machine.execRegroupBinRelease p pc v s
  | .regroupBinTimer p pc v => Sys2Proof.Machine.execRegroupBinTimer p pc v s
  | .launchTake l => Sys2Proof.Machine.execLaunchTake l s
  | .groupTableReread l => Sys2Proof.Machine.execGroupTableReread l s
  | .launchPromotion l => Sys2Proof.Machine.execLaunchPromotion l s
  | .plotPlace d => Sys2Proof.Machine.execPlotPlace d s
  | .plotRetire p => Sys2Proof.Machine.execPlotRetire p s
  | .contextSwitch p => Sys2Proof.Machine.execContextSwitch p s
  | .plotRestore p => Sys2Proof.Machine.execPlotRestore p s
  | .contextKill x => Sys2Proof.Machine.execContextKill x s
  | .threadResume t => Sys2Proof.Machine.execThreadResume t s
  | .translationWalk d x va acc => Sys2Proof.Machine.execTranslationWalk d x va acc s
  | .pageResolve d x va => Sys2Proof.Machine.execPageResolve d x va s
  | .pageRefuse d x va => Sys2Proof.Machine.execPageRefuse d x va s
  | .invWrite d v => Sys2Proof.Machine.execInvWrite d v s
  | .invalidationComplete d => Sys2Proof.Machine.execInvalidationComplete d s
  | .ctxsyncWrite d v => Sys2Proof.Machine.execCtxsyncWrite d v s
  | .ctxsyncComplete d => Sys2Proof.Machine.execCtxsyncComplete d s
  | .registerWrite pa v => Sys2Proof.Machine.execRegisterWrite pa v s
  | .homeRead t n => Sys2Proof.Machine.execHomeRead t n s
  | .storePerform t n => Sys2Proof.Machine.execStorePerform t n s
  | .atomicPerform t n => Sys2Proof.Machine.execAtomicPerform t n s
  | .loadReturn t n => Sys2Proof.Machine.execLoadReturn t n s
  | .fenceWaitEnd t => Sys2Proof.Machine.execFenceWaitEnd t s
  | .copyBytesPerform c n k => Sys2Proof.Machine.execCopyBytesPerform c n k s
  | .copyRetire c n => Sys2Proof.Machine.execCopyRetire c n s
  | .copyCancel c => Sys2Proof.Machine.execCopyCancel c s
  | .streamSlotFill c h => Sys2Proof.Machine.execStreamSlotFill c h s
  | .freedSlotNotice c h => Sys2Proof.Machine.execFreedSlotNotice c h s
  | .gsElementPerform p n imm => Sys2Proof.Machine.execGsElementPerform p n imm s
  | .sendSpaceAvailable t => Sys2Proof.Machine.execSendSpaceAvailable t s
  | .sendTimeout t => Sys2Proof.Machine.execSendTimeout t s
  | .wfiWake t => Sys2Proof.Machine.execWfiWake t s
  | .weightBankRefresh d b => Sys2Proof.Machine.execWeightBankRefresh d b s
  | .weightStoreLoad d off data => Sys2Proof.Machine.execWeightStoreLoad d off data s
  | .ingressTokenWrite port off data => Sys2Proof.Machine.execIngressTokenWrite port off data s
  | .ingressRecordEnqueue port => Sys2Proof.Machine.execIngressRecordEnqueue port s
  | .ingressTapFeed port => Sys2Proof.Machine.execIngressTapFeed port s
  | .ingressStatusClear port v => Sys2Proof.Machine.execIngressStatusClear port v s
  | .ingressReset port => Sys2Proof.Machine.execIngressReset port s
  | .hostWrite pa data => Sys2Proof.Machine.execHostWrite pa data s
  | .hostRead pa n => Sys2Proof.Machine.execHostRead pa n s
  | .hostAtomicop pa op x y => Sys2Proof.Machine.execHostAtomicop pa op x y s
  | .ptmExchange ns link => Sys2Proof.Machine.execPtmExchange ns s link
  | .fabricTimeWord ns link => Sys2Proof.Machine.execFabricTimeWord ns s link
  | .capturePlace c x head => Sys2Proof.Machine.execCapturePlace c x head s
  | .captureEntry c x head => Sys2Proof.Machine.execCaptureEntry c x head s
  | .slotFire c col e sl tag => Sys2Proof.Machine.execSlotFire c col e sl tag s
  | .tokenDeliver c n => Sys2Proof.Machine.execTokenDeliver c n s
  | .iterationClose c col => Sys2Proof.Machine.execIterationClose c col s
  | .drain c col => Sys2Proof.Machine.execDrain c col s
  | .drainCloseLimit c col => Sys2Proof.Machine.execDrainCloseLimit c col s
  | .drainComplete c col => Sys2Proof.Machine.execDrainComplete c col s
  | .agenStep c h node => Sys2Proof.Machine.execAgenStep c h node s
  | .reductionArrival c n => Sys2Proof.Machine.execReductionArrival c n s
  | .widthAdapt c n => Sys2Proof.Machine.execWidthAdapt c n s
  | .ingressTapInject c h node => Sys2Proof.Machine.execIngressTapInject c h node s
  | .circuitSetup c node dst xfers => Sys2Proof.Machine.execCircuitSetup c node dst xfers s
  | .circuitIdle c k => Sys2Proof.Machine.execCircuitIdle c k s
  | .circuitRelease c k => Sys2Proof.Machine.execCircuitRelease c k s
  | .regionShrink c h quarter => Sys2Proof.Machine.execRegionShrink c h quarter s
  | .phaseSwitch c h e => Sys2Proof.Machine.execPhaseSwitch c h s e
  | .regionSave c h va => Sys2Proof.Machine.execRegionSave c h va s
  | .regionClear c h => Sys2Proof.Machine.execRegionClear c h s
  | .regionRelease c h => Sys2Proof.Machine.execRegionRelease c h s
  | .hangDetect c h => Sys2Proof.Machine.execHangDetect c h s
  | .cfgDropDone c h => Sys2Proof.Machine.execCfgDropDone c h s
  | .kctlStop c => Sys2Proof.Machine.execKctlStop c s
  | .kctlResume c => Sys2Proof.Machine.execKctlResume c s
  | .kctlTrace c on => Sys2Proof.Machine.execKctlTrace c on s
  | .hvalClear c second => Sys2Proof.Machine.execHvalClear c second s
  | .kclrWrite c v => Sys2Proof.Machine.execKclrWrite c v s
  | .mmaComplete c => Sys2Proof.Machine.execMmaComplete c s
  | .arrayIdle c => Sys2Proof.Machine.execArrayIdle c s
  | .sequencerResume p pc => Sys2Proof.Machine.execSequencerResume p pc s
  | .wcsUpdateApply c => Sys2Proof.Machine.execWcsUpdateApply c s
  | .macroCommit t => Sys2Proof.Machine.execMacroCommit t s
  | .bankdoneWrite d v => Sys2Proof.Machine.execBankdoneWrite d v s
  | .htrWrite k n v => Sys2Proof.Machine.execHtrWrite k n v s
  | .ringAcquisitionDone k n locked drive => Sys2Proof.Machine.execRingAcquisitionDone k n locked drive s
  | .bankSubSet k b z => Sys2Proof.Machine.execBankSubSet k b z s
  | .bankSubClear k b => Sys2Proof.Machine.execBankSubClear k b s
  | .laneRetire k b imm => Sys2Proof.Machine.execLaneRetire k b imm s
  | .laneReturn k b imm => Sys2Proof.Machine.execLaneReturn k b imm s
  | .pavilionStart k => Sys2Proof.Machine.execPavilionStart k s
  | .lgoWrite k => Sys2Proof.Machine.execLgoWrite k s
  | .lstatClear k v => Sys2Proof.Machine.execLstatClear k v s
  | .lkillWrite k => Sys2Proof.Machine.execLkillWrite k s
  | .tarnilRead q => Sys2Proof.Machine.execTarnilRead q s
  | .tarnilReadData q => Sys2Proof.Machine.execTarnilReadData q s
  | .tarnilWrite q => Sys2Proof.Machine.execTarnilWrite q s
  | .tarnilAtomic q => Sys2Proof.Machine.execTarnilAtomic q s
  | .tarnilAtomicData q => Sys2Proof.Machine.execTarnilAtomicData q s
  | .tarnilToken q => Sys2Proof.Machine.execTarnilToken q s
  | .tarnilCircuitSetup q => Sys2Proof.Machine.execTarnilCircuitSetup q s
  | .tarnilCircuitData q => Sys2Proof.Machine.execTarnilCircuitData q s
  | .tarnilCircuitRelease q => Sys2Proof.Machine.execTarnilCircuitRelease q s
  | .tarnilRefusal q => Sys2Proof.Machine.execTarnilRefusal q s
  | .fabricCircuitIdle k => Sys2Proof.Machine.execFabricCircuitIdle k s
  | .linkReplay link => Sys2Proof.Machine.execLinkReplay link s
  | .linkRetrain link => Sys2Proof.Machine.execLinkRetrain link s
  | .remoteTimeout tag => Sys2Proof.Machine.execRemoteTimeout tag s
  | .pwinWrite v => Sys2Proof.Machine.execPwinWrite v s
  | .prsvWrite v => Sys2Proof.Machine.execPrsvWrite v s
  | .pancrWrite v => Sys2Proof.Machine.execPancrWrite v s
  | .pcapWrite v => Sys2Proof.Machine.execPcapWrite v s
  | .plimsetWrite v => Sys2Proof.Machine.execPlimsetWrite v s
  | .energyWindow m => Sys2Proof.Machine.execEnergyWindow m s
  | .opPointSettled d => Sys2Proof.Machine.execOpPointSettled d s
  | .dieWake d => Sys2Proof.Machine.execDieWake d s
  | .columnStart d => Sys2Proof.Machine.execColumnStart d s
  | .dieGate d => Sys2Proof.Machine.execDieGate d s
  | .drstWrite d v => Sys2Proof.Machine.execDrstWrite d v s
  | .dieFence d => Sys2Proof.Machine.execDieFence d s
  | .dieResetDeadline d => Sys2Proof.Machine.execDieResetDeadline d s
  | .dieResetWake d => Sys2Proof.Machine.execDieResetWake d s
  | .errorDetect u => Sys2Proof.Machine.execErrorDetect u s
  | .selfTestDone u outcome => Sys2Proof.Machine.execSelfTestDone u outcome s
  | .keySlotLoad n => Sys2Proof.Machine.execKeySlotLoad n s
  | .keySlotEmpty n => Sys2Proof.Machine.execKeySlotEmpty n s
  | .packageReset => Sys2Proof.Machine.execPackageReset s
  | .coreReset c => Sys2Proof.Machine.execCoreReset c s
  | .illegalOp => Sys2Proof.Machine.execIllegalOp s
  | .cadenceIllegalOp => Sys2Proof.Machine.execCadenceIllegalOp s
  | .ringLockLost k n err => Sys2Proof.Machine.execRingLockLost k n err s
  | .ringLockRegained k n err => Sys2Proof.Machine.execRingLockRegained k n err s
  | .linkRetrainComplete link => Sys2Proof.Machine.execLinkRetrainComplete link s
  | .tarnilLinkDown link => Sys2Proof.Machine.execTarnilLinkDown link s
  | .hostLinkDown link => Sys2Proof.Machine.execHostLinkDown s link
  | .hostLinkUp link => Sys2Proof.Machine.execHostLinkUp s link
  | .platformMessage d => Sys2Proof.Machine.execPlatformMessage d s

end Sys2Proof.Machine
end

