-- ==== Sys2Proof/Machine/Round.lean ====
section
/-! DEFINITION. What a turn of a thread or of a sequencer finds (01_words.md R27 and R35, 05_cadence_microcode.md R168 and R169), the
round of turns that the machine takes when nothing else has been put on its agenda, and the places where a word is put to be run next
(DESIGN CHOICE, notes/assumptions/1.md and 10.md). -/

namespace Sys2Proof.Machine

/-! ### Turns of threads and sequencers -/

/-- What a turn finds: an instruction to run, or a state in which the turn ends. -/
inductive Issue where
  | run (i : Instr) (s : State)
  | stop (s : State)

/-- Thread `u` waits for the translation of `va`, to fetch there (R27, R286); `c` is the start of the chain that its instruction ends. -/
def State.fetchWait (s : State) (u : Nat) (va : DWord) (c : Option Snap) : State :=
  s.modThr u (fun t => t.waitFor s.time (.walk va .fetch) c)

/-- The instruction that thread `u` issues: the word at its program counter, and the next word where it calls for a literal (R27, R33).
A word that does not decode takes the fault of the check it fails (R35); as a member of a chain it takes the chain back with it (R39). A word
that cannot be fetched is a member of none (DEDUCED, notes/assumptions/97.md). -/
noncomputable def State.issueThread (s : State) (u : Nat) : Issue :=
  if !s.canTurn u then .stop s
  else
    let s := { s with cur := u }
    let t := s.thr u
    match s.fetch (s.who t) t.pc with
    | .miss va => .stop (s.fetchWait u va none)
    | .bad c => .stop (s.faultAt u none c 0 t.pc)
    | .word w =>
      let ch := t.chainOf (threadShape w 0)
      match (if hasLiteral w then s.fetch (s.who t) (t.pc + 4) else .word 0) with
      | .miss va => .stop (s.fetchWait u va ch)
      | .bad c => .stop (s.faultAt u ch c 0 (t.pc + 4))
      | .word l =>
        match decodeThread w l with
        | .ok i => .run i s
        | .error .op => .run .illegalOp s
        | .error .field => .stop (s.faultAt u (t.chainOf (threadShape w l)) codeField 0 0)

/-- The word that the sequencer of plot `p` runs (R168, R169): its address is aligned, and its own earlier stores to the word are
performed. A page that is absent is walked to, and where the walk fails the sequencer waits for the runtime (R170). -/
noncomputable def State.issueSequencer (s : State) (p : Nat) : Issue :=
  if !s.canSeq p then .stop s
  else
    let pc := (s.plots.get p).seq.pc
    let s := { s with curPlot := p }
    if pc.toNat % 4 ≠ 0 then .stop (s.seqFault p codeAddr 0 pc)
    else match s.checkNow (s.whoSeq p) (s.askSeq p) .fetch pc 4 (pageFuel 4) with
    | (s1, .miss va) => .stop (s1.settleSeq p (.wait s1 (.page va .fetch)))
    | (s1, .bad c) => .stop (s1.seqFault p c 0 pc)
    | (s1, .ok ps) =>
      if (s1.plots.get p).seq.owes ps then .stop (s1.settleSeq p (.wait s1 .stores))
      else match s1.fetch (s1.whoSeq p) pc with
      | .word w =>
        match decodeCadence w with
        | .ok i => .run i s1
        | .error .op => .run .cadenceIllegalOp s1
        | .error .field => .stop (s1.seqFault p codeField 0 0)
      | .bad c => .stop (s1.seqFault p c 0 pc)
      | .miss _ => .stop s1

/-! ### One access of a peloton to one line (R9, R275) -/

/-- The address of a word access that may be part of a coalesced one, its kind, and whether it may use the L1 (R275). -/
def wordAccess (t : Thread) (i : Instr) : Option (DWord × Acc × Bool) :=
  let m (f : FM) (a : Acc) (l1 : Bool) : Option (DWord × Acc × Bool) :=
    if f.z = 2 ∧ t.guard f.g then some (t.mAddr f.lit f.a f.o 4, a, l1) else none
  match i with
  | .ld f => m f .read true
  | .lda f => m f .read false
  | .st f | .stl f => m f .write false
  | _ => none

/-- The physical address of the aligned word of device memory that thread `u` accesses next, with whether its L1 holds a copy that the access
may hit. -/
noncomputable def State.nextWord (s : State) (u : Nat) : Option (Nat × Bool) :=
  let t := s.thr u
  match s.nextWords u with
  | none => none
  | some (w, l) => match decodeThread w l with
    | .error _ => none
    | .ok i => match wordAccess t i with
      | none => none
      | some (va, a, l1) => match s.check (s.who t) a va 4 with
        | .ok [⟨.dev pa k, _, _, _⟩] => if pa % 4 = 0 then some (pa, l1 && s.l1Hit t pa && !t.earlierOpen t.seq (.dev pa k) 4) else none
        | _ => none

/-- The line that an issue of 32 threads covers with one word each, with whether each of them may hit a copy of it (R275). -/
noncomputable def State.lineOfIssue (s : State) (us : List Nat) : Option (Nat × Bool) :=
  let ws := us.map s.nextWord
  let ps := ws.filterMap id
  match ps with
  | [] => none
  | p :: _ =>
    if us.length = 32 ∧ ps.length = 32 ∧ (ps.map (·.1)).eraseDups.length = 32 ∧ ps.all (fun q => lineOf q.1 == lineOf p.1) then
      some (lineOf p.1, ps.all (·.2)) else none

/-- Before such an issue: a copy that not every one of its threads may hit serves none of them (R275). -/
noncomputable def State.alignLine (s : State) (us : List Nat) : State :=
  match s.lineOfIssue us with
  | some (line, false) => us.foldl (fun s u => s.modCore (s.coreOf (s.thr u)) (fun c => { c with l1 := c.l1.set line default })) s
  | _ => s

/-- Number the accesses of thread `u` from place `q` on as one of a peloton. -/
def Thread.group (t : Thread) (q grp : Nat) : Thread :=
  { t with
    loads := t.loads.map (fun l => if q ≤ l.seq then { l with grp := grp } else l)
    stores := t.stores.map (fun h => if q ≤ h.seq then { h with grp := grp } else h) }

/-- After such an issue from state `s0`: the accesses that its threads have begun have one instant, where every one of them has begun one
(R275; DESIGN CHOICE, notes/assumptions/68.md). -/
noncomputable def State.joinLine (s s0 : State) (us : List Nat) : State :=
  let begun (u : Nat) : Nat := ((s.thr u).loads.filter (fun l => decide ((s0.thr u).seq ≤ l.seq))).length
    + ((s.thr u).stores.filter (fun h => decide ((s0.thr u).seq ≤ h.seq))).length
  match us with
  | [] => s
  | v :: _ =>
    if (s0.lineOfIssue us).isSome && us.all (fun u => begun u == 1) then
      us.foldl (fun s u => s.modThr u (fun t => t.group (s0.thr u).seq (v * 2 ^ 32 + (s0.thr v).seq + 1))) s
    else s

/-! ### The round -/

/-- The events of the accesses that thread `u` has in flight, and of the wait it stands in. -/
noncomputable def State.threadRound (s : State) (u : Nat) : List Instr :=
  let t := s.thr u
  t.loads.zipIdx.flatMap (fun l => (List.range l.1.parts.length).map (fun i => Instr.homeRead u (l.2 * 512 + i)))
    ++ (List.range t.loads.length).reverse.map (fun n => Instr.loadReturn u n)
    ++ t.stores.map (fun h => match h.op with
        | .store _ => Instr.storePerform u 0
        | .amo _ _ _ _ _ => Instr.atomicPerform u 0)
    ++ (match t.wait with
        | .walk va a => [Instr.translationWalk (dieOf (s.coreOf t)) t.ctx va a.num]
        | .sleep _ => [Instr.sleepEnd u]
        | .queue _ _ => [Instr.spawnQueueRoom u, Instr.spawnWaitLimit u]
        | .space _ _ => [Instr.sendSpaceAvailable u, Instr.sendTimeout u]
        | .wfi _ => [Instr.wfiWake u]
        | _ => [])
    ++ (if t.mrun.isSome then [Instr.macroCommit u] else [])
    ++ (if t.wait.isBarrier then [Instr.barrierTimeout false u] else [])

/-- The events of a plot: its lane blocks, its sequencer's stores, its gathers and scatters, its bins, and its end. -/
noncomputable def State.plotRound (s : State) (p : Nat) : List Instr :=
  let q := s.plots.get p
  q.blocks.map (fun b => Instr.laneEvent p b)
    ++ q.seq.stores.map (fun _ => Instr.storePerform (2 ^ 32 + p) 0)
    ++ q.gss.flatMap (fun g => (List.range g.count).map (fun i => Instr.gsElementPerform p g.seq i))
    ++ q.bins.flatMap (fun b => [Instr.spawnBinRelease p b.entry, Instr.spawnBinTimer p b.entry])
    ++ q.rbins.flatMap (fun b => [Instr.regroupBinRelease p b.pc b.val, Instr.regroupBinTimer p b.pc b.val])
    ++ (if q.seq.wait = .nbar then [Instr.barrierTimeout true p] else [])
    ++ (if q.switching.isSome then [Instr.contextSwitch p] else [])
    ++ (if q.resident then q.savedStreams.map (fun e => Instr.streamSlotFill q.core e.1) else [])
    ++ [Instr.plotRetire p]

/-- The events of a core's engine, matrix array and control store. -/
noncomputable def State.coreRound (s : State) (c : Nat) : List Instr :=
  let k := s.cores.get c
  k.copies.flatMap (fun q => q.desc.pieces.map (fun i => Instr.copyBytesPerform c q.id i) ++ [Instr.copyRetire c q.id])
    ++ k.streams.keys.flatMap (fun h => [Instr.streamSlotFill c h, Instr.freedSlotNotice c h])
    ++ (if k.mmaBusy.isSome then [Instr.mmaComplete c] else [])
    ++ k.updates.map (fun _ => Instr.wcsUpdateApply c)

/-- The name of the configuration that a token in an Arbour belongs to, as SLOT_FIRE is given it (DESIGN CHOICE, notes/assumptions/41.md). -/
def Grid.firesAs (g : Grid) (t : Tok) : List Nat :=
  g.cfgs.zipIdx.filterMap (fun q => if !q.1.captured && q.1.owns t then some (16 * (q.2 + 1) + t.colour % 16) else none)

/-- The events of the captured pelotons of a core: closing, draining where a cause or a switch calls for it, and firing the slot of the
instruction at which the hindmost lane stands. -/
noncomputable def State.pelRound (s : State) (c : Nat) : List Instr :=
  (s.pelsOf c).flatMap (fun n =>
    let p := s.pel n
    Instr.iterationClose c p.colour
      :: (if p.drain.isSome || (s.plots.get p.plot).switching.isSome then
          [Instr.drain c p.colour, Instr.drainCloseLimit c p.colour, Instr.drainComplete c p.colour] else [])
      ++ (match s.pelNext n with
          | none => []
          | some (q, k) => [Instr.slotFire c p.colour (q.sites.getD k (0, 0)).1 (q.sites.getD k (0, 0)).2 (p.tag % 2 ^ 16)]))

/-- The loops of a core at whose branch threads wait to enter (R300). -/
def State.entries (s : State) (c : Nat) : List (Nat × DWord) :=
  (s.threads.filterMap (fun e => if e.2.live && e.2.wait == .capture && s.coreOf e.2 == c then e.2.hotHead.map (fun h => (e.2.ctx, h)) else none)).eraseDups

/-- The events of a core's Trellis. -/
noncomputable def State.gridRound (s : State) (c : Nat) : List Instr :=
  let g := s.grids.get c
  (s.bodies.filter (fun b => b.core == c)).map (fun b => Instr.capturePlace c b.ctx b.head)
    ++ (s.entries c).map (fun e => Instr.captureEntry c e.1 e.2)
    ++ s.pelRound c
    ++ g.arb.flatMap (fun a => (g.firesAs a.tok).map (fun col => Instr.slotFire c col a.tok.elem a.tok.slot a.tok.tag))
    ++ (List.range g.toks.length).reverse.flatMap (fun n => [Instr.reductionArrival c n, Instr.widthAdapt c n, Instr.tokenDeliver c n])
    ++ g.cfgs.zipIdx.flatMap (fun e =>
        let q := e.1
        if q.captured then [Instr.hangDetect c (captureName e.2)]
        else q.agens.keys.map (fun n => Instr.agenStep c q.name n)
          ++ (q.tapBuf.keys ++ q.tapEnd.keys).eraseDups.map (fun n => Instr.ingressTapInject c q.name n)
          ++ (if q.phases = 0 then [] else q.image.elems.keys.map (fun x => Instr.phaseSwitch c q.name x))
          ++ [Instr.cfgDropDone c q.name, Instr.regionRelease c q.name, Instr.hangDetect c q.name])
    ++ (List.range g.circuits.length).reverse.map (fun k => Instr.circuitIdle c k)

/-- The events of the scheduler: launches taken and promoted, plots placed; and of the dies. -/
noncomputable def State.packageRound (s : State) : List Instr :=
  s.ports.keys.flatMap (fun n => [Instr.ingressRecordEnqueue n, Instr.ingressTapFeed n])
    ++ s.launches.keys.flatMap (fun k => [Instr.launchTake k, Instr.launchPromotion k])
    ++ (List.range 8).map (fun d => Instr.plotPlace d)
    ++ s.dies.keys.flatMap (fun d => [Instr.invalidationComplete d, Instr.ctxsyncComplete d, Instr.opPointSettled d, Instr.columnStart d, Instr.dieFence d,
        Instr.dieResetDeadline d])

/-- One round: every event that may be pending, each of which changes nothing where its condition does not hold; then every thread, or latch
chain, that can take a turn, every sequencer that can, and the passing of 1 ns. -/
noncomputable def State.round (s : State) : List Turn :=
  (s.threads.keys.flatMap s.threadRound ++ s.plots.keys.flatMap s.plotRound ++ s.cores.keys.flatMap s.coreRound
    ++ s.grids.keys.flatMap s.gridRound ++ s.packageRound).map .event
    ++ (s.threads.keys.filter s.canTurn).map s.turnOf
    ++ (s.plots.keys.filter s.canSeq).map .seq
    ++ [.wait 1]

/-! ### Placing a word -/

/-- The plot for which Cadence words are placed: `curPlot` where its sequencer can run, else a fresh plot of core 0 with 64 tiles, 32
accumulators and a sequencer at address 0x1_0000 (DESIGN CHOICE, notes/assumptions/10.md). -/
def State.withSequencer (s : State) : State :=
  if s.canSeq s.curPlot then s
  else
    let p := s.nextPlot
    { s with
      curPlot := p
      nextPlot := p + 1
      plots := s.plots.set p { (default : Plot) with
        live := true, resident := true, ntiles := 64, naccs := 32,
        seq := { (default : Seq) with present := true, running := true, pc := 0x10000 } }
      dies := s.dies.modify 0 (fun d => { d with tlb := placedPage :: d.tlb }) }

/-- Store a word where the sequencer of `curPlot` fetches next. -/
def State.storeAtSeq (s : State) (bs : List Byte) : State :=
  match s.check (s.whoSeq s.curPlot) .fetch (s.plots.get s.curPlot).seq.pc bs.length with
  | .ok ps => ps.foldl (fun s p => match p.loc with
      | .dev pa key => s.devWrite pa key ((bs.drop p.off).take p.len)
      | _ => s) s
  | _ => s

/-- The firing of a slot of `curCore` that executes the word `w`, each port holding the item 0 (DESIGN CHOICE, notes/assumptions/10.md). -/
def placedFiring (w : Word) : Firing := ⟨0, 0, 0, w.setWidth 64, 0, 0, 1, List.replicate 4 (some { (default : Tok) with width := 1, lanes := [0] })⟩

end Sys2Proof.Machine
end

