-- ==== Sys2Proof/Machine/Step.lean ====
section
/-! DEFINITION. One step of the package: the turn at the head of the agenda, or, when the agenda is empty, the first turn of a round
(DESIGN CHOICE, notes/assumptions/1.md). -/

namespace Sys2Proof.Machine

/-- Run what a turn finds. -/
noncomputable def runIssue (x : Issue) : Host.Outcome State Fault Refusal :=
  match x with
  | .run i s => exec i s
  | .stop s => .next s

/-- Threads issue one after another. -/
noncomputable def issueAll : List Nat → State → Host.Outcome State Fault Refusal
  | [], s => .next s
  | u :: us, s =>
    match runIssue (s.issueThread u) with
    | .next s' => issueAll us s'
    | r => r

/-- The threads of a peloton issue together (R217): their accesses to one line are one (R275). -/
noncomputable def pelotonTurn (us : List Nat) (s : State) : Host.Outcome State Fault Refusal :=
  let s0 := s.alignLine us
  match issueAll us s0 with
  | .next s1 => .next (s1.joinLine s0 us)
  | r => r

/-- A slot executes the Trellis-only word of a firing (R197, R321). -/
def fireTurn (c : Nat) (f : Firing) (s : State) : Host.Outcome State Fault Refusal :=
  match decodeTrellis (slotOpw f.word) with
  | .ok i => exec i { s with curCore := c, curFire := some f }
  | .error _ => .next s

/-- One turn. Words are run by threads, sequencers and slots, never as events. -/
noncomputable def runTurn (q : Turn) (s : State) : Host.Outcome State Fault Refusal :=
  match q with
  | .thread u => runIssue (({ s with counted := [] }.packThreads [u]).issueThread u)
  | .peloton us => pelotonTurn us ({ s with counted := [] }.packThreads us)
  | .seq p => runIssue (s.issueSequencer p)
  | .fire c f => fireTurn c f s
  | .event i => if (encodeWord i).isSome then .next s else exec i s
  | .wait ns => .next (s.advance ns).drainPhys

/-- One step. -/
noncomputable def step (s : State) : Host.Outcome State Fault Refusal :=
  match s.agenda with
  | q :: rest => runTurn q { s with agenda := rest }
  | [] =>
    match s.round with
    | q :: rest => runTurn q { s with agenda := rest }
    | [] => .next s

/-- `s` with the instruction `w` of `nbits` bits where the turn that comes next fetches it (DESIGN CHOICE, notes/assumptions/10.md): in the memory at the
program counter of a thread or of a sequencer, or, for a Trellis-only word, in a slot whose operands are present. -/
noncomputable def State.withFetchWord (s : State) (nbits w : Nat) : State :=
  let x := w % 2 ^ nbits
  match streamOf (BitVec.ofNat 32 x) (BitVec.ofNat 32 (x / 2 ^ 32)) with
  | .thread =>
    let s := s.withThread
    { s.storeAtPc (wordBytes x) with agenda := .thread s.cur :: s.agenda }
  | .cadence =>
    let s := s.withSequencer
    { s.storeAtSeq (wordBytes x) with agenda := .seq s.curPlot :: s.agenda }
  | .trellis => { s with agenda := .fire s.curCore (placedFiring (BitVec.ofNat 32 x)) :: s.agenda }

end Sys2Proof.Machine
end

