-- ==== Sys2Proof/Safety.lean ====
section
/-! DEFINITION. What counts as a safe run: a step that answers a next state, memories in their canonical form, and the conditions under
which an instruction executes normally. -/

namespace Sys2Proof.Machine

/-- The outcome is a next state. -/
def Goes (o : Host.Outcome State Fault Refusal) : Prop := ∃ s, o = .next s

/-- Device memory and host memory in canonical form (R257, R96). -/
def State.MemOk (s : State) : Prop := s.mem.wf = true ∧ s.hostMem.wf = true

/-- When a thread word of shape `sh` executes normally for the thread `cur` (R35 steps 5 to 8): the thread is live, its operands are
available (R216), the latches it reads are valid (R40), its latch chain has at most four members (R38), and it has the privilege (R12). -/
def State.Issues (s : State) (sh : Shape) : Prop :=
  let t := s.thr s.cur
  t.live = true ∧ t.hazard sh = false ∧ t.badLatch sh = false ∧ (∀ c, t.nextChain sh = some c → c.len ≤ 4) ∧ sh.priv ≤ s.privOf t

/-- It executes normally and its guard is true (R29). -/
def State.Runs (s : State) (sh : Shape) : Prop := s.Issues sh ∧ (s.thr s.cur).guard sh.g = true

/-- When a Cadence word executes for the plot `curPlot` (R168, R170): it has a sequencer that runs and is not stopped by a fault. -/
def State.SeqRuns (s : State) : Prop :=
  let q := (s.plots.get s.curPlot).seq
  q.present = true ∧ q.running = true ∧ q.faulted = false

end Sys2Proof.Machine
end

