-- ==== Sys2Proof/Certificates/Slice0/Obligations.lean ====
section
/-! DEFINITION. The statements for the provers. What they say in common stands first, in the namespace `Sys2Proof.Stmt`. -/

namespace Sys2Proof.Stmt

open Sys2Proof Sys2Proof.Machine

/-! ### Results of producer instructions -/

/-- What a producer instruction writes (R61): a register, a pair, a predicate, or consecutive registers. -/
inductive Res where
  | word (nw : Bool) (d : BitVec 6) (v : Word)
  | pair (nw : Bool) (d : BitVec 6) (v : DWord)
  | pred (nw : Bool) (p : BitVec 3) (v : Bool)
  | words (nw : Bool) (d : BitVec 6) (vs : List Word)

/-- General register `n` after the write; fields 60 and above name no register (R30, R31), and NW writes none. -/
def Res.reg (r : Res) (old : FMap Word) (n : Nat) : Word :=
  match r with
  | .word nw d v => if nw = false ∧ n < 60 ∧ n = d.toNat then v else old.get n
  | .pair nw d v =>
    if nw = false ∧ n < 60 ∧ n = d.toNat then v.extractLsb' 0 32
    else if nw = false ∧ n < 60 ∧ n = d.toNat + 1 then v.extractLsb' 32 32
    else old.get n
  | .pred _ _ _ => old.get n
  | .words nw d vs => if nw = false ∧ n < 60 ∧ d.toNat ≤ n ∧ n < d.toNat + vs.length then vs.getD (n - d.toNat) 0 else old.get n

/-- Predicate `k` of p0 to p6 after the write (R23, R31). -/
def Res.prd (r : Res) (old : BitVec 7) (k : Nat) : Bool :=
  match r with
  | .pred nw p v => if nw = false ∧ k = p.toNat then v else old.getLsbD k
  | _ => old.getLsbD k

/-- The latch value (R36, R138). -/
def Res.latch (r : Res) : DWord :=
  match r with
  | .word _ _ v => v.setWidth 64
  | .pair _ _ v => v
  | .pred _ _ v => BitVec.ofNat 64 v.toNat
  | .words _ _ vs => (vs.getD 1 0) ++ (vs.getD 0 0)

/-- Nothing of the state but the threads differs, and of the threads only `cur`. -/
def onlyCur (s s' : State) : Prop := s' = { s with threads := s'.threads } ∧ ∀ u, u ≠ s.cur → s'.thr u = s.thr u

/-- A producer of shape `sh` has completed with result `r`, leaving `fpsr` and `lfsr` as given: registers, predicates, latches (R37) and
program counter are as stated, and the thread is otherwise as before but for the record of its chain and of its wait. -/
def Produced (s s' : State) (sh : Shape) (r : Res) (fpsr lfsr : Word) : Prop :=
  let t := s.thr s.cur
  let t' := s'.thr s.cur
  onlyCur s s'
  ∧ (∀ n, t'.g.get n = r.reg t.g n)
  ∧ (∀ k, k < 7 → t'.p.getLsbD k = r.prd t.p k)
  ∧ t'.fpsr = fpsr ∧ t'.lfsr = lfsr
  ∧ t'.b0.map (·.val) = some r.latch ∧ t'.b1.map (·.val) = t.b0.map (·.val)
  ∧ t'.pc = t.pc + BitVec.ofNat 64 sh.len ∧ t'.wait = .none
  ∧ t' = { t with
      g := t'.g, p := t'.p, fpsr := t'.fpsr, lfsr := t'.lfsr, b0 := t'.b0, b1 := t'.b1, chain := t'.chain, pend := none,
      wait := .none, bulk := none, mrun := none, barArr := false, pc := t'.pc, age := t'.age }

/-- Result of an instruction that raises no flag and draws nothing. -/
def Plain (s : State) (i : Instr) (r : Res) : Prop :=
  ∃ s', exec i s = .next s' ∧ Produced s s' (shape i) r (s.thr s.cur).fpsr (s.thr s.cur).lfsr

/-! ### How the words of the result statements are coded (R28) -/

/-- The major opcode and FN of a thread word. -/
def majorOf (w : Word) : Nat := (w.extractLsb' 26 6).toNat
def fnOf (w : Word) : Nat := (w.extractLsb' 0 3).toNat

/-- A word that decodes to `c` has major `m` and FN `n`, and gives it the fields of the A format. -/
def CodedA (c : FA → Instr) (m n : Nat) : Prop :=
  ∀ (w l : Word) (f : FA), decodeIn .thread w l = .ok (c f) →
    majorOf w = m ∧ fnOf w = n ∧ f.g = w.extractLsb' 22 4 ∧ f.d = w.extractLsb' 16 6 ∧ f.a = w.extractLsb' 10 6 ∧ f.b = w.extractLsb' 4 6
    ∧ f.nw = w.getLsbD 3

/-- The same of a unary form, whose B field is 0. -/
def CodedU (c : FU → Instr) (m n : Nat) : Prop :=
  ∀ (w l : Word) (f : FU), decodeIn .thread w l = .ok (c f) →
    majorOf w = m ∧ fnOf w = n ∧ f.g = w.extractLsb' 22 4 ∧ f.d = w.extractLsb' 16 6 ∧ f.a = w.extractLsb' 10 6 ∧ w.extractLsb' 4 6 = 0
    ∧ f.nw = w.getLsbD 3

/-- The same of a form that writes a predicate: D[5:3] is 0, and with NW = 1 all of D. -/
def CodedP (c : FP → Instr) (m n : Nat) : Prop :=
  ∀ (w l : Word) (f : FP), decodeIn .thread w l = .ok (c f) →
    majorOf w = m ∧ fnOf w = n ∧ f.g = w.extractLsb' 22 4 ∧ f.p = w.extractLsb' 16 3 ∧ w.extractLsb' 19 3 = 0 ∧ f.a = w.extractLsb' 10 6
    ∧ f.b = w.extractLsb' 4 6 ∧ f.nw = w.getLsbD 3 ∧ (f.nw = true → f.p = 0)

/-! ### Integer results -/

/-- `res` of R63 for the two-operand forms. -/
def aluBin : List ((FA → Instr) × (Word → Word → Word)) := [
  (.add, fun a b => a + b), (.sub, fun a b => a - b), (.and, fun a b => a &&& b), (.or, fun a b => a ||| b),
  (.xor, fun a b => a ^^^ b), (.andn, fun a b => a &&& ~~~b), (.orn, fun a b => a ||| ~~~b), (.xnor, fun a b => ~~~(a ^^^ b)),
  (.shl, fun a b => if b.toNat < 32 then BitVec.ofNat 32 (a.toNat * 2 ^ b.toNat) else 0),
  (.shr, fun a b => if b.toNat < 32 then BitVec.ofNat 32 (a.toNat / 2 ^ b.toNat) else 0),
  (.sra, fun a b => if b.toNat < 32 then BitVec.ofInt 32 (a.toInt / 2 ^ b.toNat) else if a.msb then BitVec.allOnes 32 else 0),
  (.rol, fun a b => BitVec.ofNat 32 (a.toNat * 2 ^ (b.toNat % 32) + a.toNat / 2 ^ (32 - b.toNat % 32))),
  (.ror, fun a b => BitVec.ofNat 32 (a.toNat / 2 ^ (b.toNat % 32) + a.toNat * 2 ^ (32 - b.toNat % 32))),
  (.minS, fun a b => BitVec.ofInt 32 (min a.toInt b.toInt)), (.maxS, fun a b => BitVec.ofInt 32 (max a.toInt b.toInt)),
  (.minU, fun a b => BitVec.ofNat 32 (min a.toNat b.toNat)), (.maxU, fun a b => BitVec.ofNat 32 (max a.toNat b.toNat))]

/-- Number of one bits of `a` (R63). -/
def ones (a : Word) : Nat := ((List.range 32).filter (fun k => a.getLsbD k)).length

/-- Number of leading zero bits of `a`, counted from bit 31 (R63): all bits but those up to its highest one bit. -/
def leadZeros (a : Word) : Nat := if a = 0 then 32 else 31 - Nat.log2 a.toNat

/-- `res` of R63 for the unary forms, and `mov` of R66. -/
def aluUn : List ((FU → Instr) × (Word → Word)) := [
  (.clz, fun a => BitVec.ofNat 32 (leadZeros a)), (.popc, fun a => BitVec.ofNat 32 (ones a)),
  (.brev, fun a => BitVec.ofBoolListLE ((List.range 32).map (fun k => a.getLsbD (31 - k)))),
  (.abs, fun a => BitVec.ofInt 32 |a.toInt|), (.neg, fun a => BitVec.ofInt 32 (-a.toInt)),
  (.sextB, fun a => BitVec.ofInt 32 (a.extractLsb' 0 8).toInt), (.sextH, fun a => BitVec.ofInt 32 (a.extractLsb' 0 16).toInt),
  (.mov, fun a => a)]

/-- Majors and FN values of R63 (and of `mov`, R66), in the order of the two lists. -/
def aluBinCodes : List (Nat × Nat) :=
  [(0, 0), (0, 1), (0, 2), (0, 3), (0, 4), (0, 5), (0, 6), (0, 7), (1, 0), (1, 1), (1, 2), (1, 3), (1, 4), (2, 0), (2, 1), (2, 2), (2, 3)]
def aluUnCodes : List (Nat × Nat) := [(1, 5), (1, 6), (1, 7), (2, 4), (2, 5), (2, 6), (2, 7), (7, 3)]

/-- `res` of R64 for the two-operand forms: quotients toward zero, and the fixed edge cases. -/
def mulBin : List ((FA → Instr) × (Word → Word → Word)) := [
  (.mul, fun a b => BitVec.ofNat 32 (a.toNat * b.toNat)),
  (.mulhiS, fun a b => BitVec.ofInt 32 (a.toInt * b.toInt / 2 ^ 32)),
  (.mulhiU, fun a b => BitVec.ofNat 32 (a.toNat * b.toNat / 2 ^ 32)),
  (.divS, fun a b => if b = 0 then 0xFFFFFFFF else BitVec.ofInt 32 (a.toInt.tdiv b.toInt)),
  (.divU, fun a b => if b = 0 then 0xFFFFFFFF else BitVec.ofNat 32 (a.toNat / b.toNat)),
  (.remS, fun a b => if b = 0 then a else BitVec.ofInt 32 (a.toInt.tmod b.toInt)),
  (.remU, fun a b => if b = 0 then a else BitVec.ofNat 32 (a.toNat % b.toNat))]

/-- Position and length of the field that a descriptor names, cut at bit 31 (R66). -/
def fieldAt (b : Word) : Nat × Nat :=
  let pos := b.toNat % 32
  let len := b.toNat / 256 % 32 + 1
  (pos, if 32 < pos + len then 32 - pos else len)

/-- The field of `a` that `b` names, as a number (R66). -/
def fieldOf (a b : Word) : Nat := a.toNat / 2 ^ (fieldAt b).1 % 2 ^ (fieldAt b).2

/-- The same sign-extended from its highest bit (R66). -/
def sfieldOf (a b : Word) : Int :=
  let v := fieldOf a b
  if v < 2 ^ ((fieldAt b).2 - 1) then v else (v : Int) - 2 ^ (fieldAt b).2

/-- `bfi` (R66): bit k of the result. -/
def insertField (old a b : Word) (k : Nat) : Bool :=
  if (fieldAt b).1 ≤ k ∧ k < (fieldAt b).1 + (fieldAt b).2 then a.getLsbD (k - (fieldAt b).1) else old.getLsbD k

/-- `res` of R65, of the operands as the form takes them: pair or register A, pair or register B, old pair D. -/
def pairOps : List ((FA → Instr) × (Thread → FA → DWord)) := [
  (.addD, fun t f => t.src64 f.lit f.a + t.src64 f.lit f.b),
  (.subD, fun t f => t.src64 f.lit f.a - t.src64 f.lit f.b),
  (.madD, fun t f => t.src64 f.lit f.a * t.src64 f.lit f.b + t.old64 f.d),
  (.mulwS, fun t f => BitVec.ofInt 64 ((t.src32 f.lit f.a).toInt * (t.src32 f.lit f.b).toInt)),
  (.mulwU, fun t f => BitVec.ofNat 64 ((t.src32 f.lit f.a).toNat * (t.src32 f.lit f.b).toNat)),
  (.shlD, fun t f => let n := (t.src32 f.lit f.b).toNat
    if n < 64 then BitVec.ofNat 64 ((t.src64 f.lit f.a).toNat * 2 ^ n) else 0),
  (.shrD, fun t f => let n := (t.src32 f.lit f.b).toNat
    if n < 64 then BitVec.ofNat 64 ((t.src64 f.lit f.a).toNat / 2 ^ n) else 0),
  (.sraD, fun t f => let n := (t.src32 f.lit f.b).toNat
    if n < 64 then BitVec.ofInt 64 ((t.src64 f.lit f.a).toInt / 2 ^ n)
    else if (t.src64 f.lit f.a).msb then BitVec.allOnes 64 else 0)]

/-- `lea.n` of R66 with its scale. -/
def leaOps : List ((FA → Instr) × Nat) := [(.lea2, 2), (.lea4, 4), (.lea8, 8), (.lea16, 16)]

/-- R67 with i the sign-extended IMM10. -/
def immOps : List ((FI → Instr) × (Word → Word → Word)) := [
  (.addi, fun a i => a + i), (.andi, fun a i => a &&& i), (.ori, fun a i => a ||| i), (.xori, fun a i => a ^^^ i)]

/-- The shift results of R63 by an immediate amount (R67). -/
def shiftImmOps : List ((FSh → Instr) × (Word → Nat → Word)) := [
  (.shli, fun a n => BitVec.ofNat 32 (a.toNat * 2 ^ n)), (.shri, fun a n => BitVec.ofNat 32 (a.toNat / 2 ^ n)),
  (.srai, fun a n => BitVec.ofInt 32 (a.toInt / 2 ^ n)),
  (.roli, fun a n => BitVec.ofNat 32 (a.toNat * 2 ^ n + a.toNat / 2 ^ (32 - n)))]

/-- The conditions of R69. -/
def cmpOps : List ((FP → Instr) × (Word → Word → Bool)) := [
  (.cmpEq, fun a b => decide (a = b)), (.cmpNe, fun a b => decide (a ≠ b)),
  (.cmpLtS, fun a b => decide (a.toInt < b.toInt)), (.cmpLeS, fun a b => decide (a.toInt ≤ b.toInt)),
  (.cmpLtU, fun a b => decide (a.toNat < b.toNat)), (.cmpLeU, fun a b => decide (a.toNat ≤ b.toNat)),
  (.cmpTst, fun a b => decide (a &&& b ≠ 0)), (.cmpTstn, fun a b => decide (a &&& b = 0))]

/-- The kinds of `cmpi` (R67). -/
def cmpiOps : List ((FCi → Instr) × (Word → Word → Bool)) := [
  (.cmpiEq, fun a b => decide (a = b)), (.cmpiNe, fun a b => decide (a ≠ b)),
  (.cmpiLtS, fun a b => decide (a.toInt < b.toInt)), (.cmpiLeS, fun a b => decide (a.toInt ≤ b.toInt)),
  (.cmpiLtU, fun a b => decide (a.toNat < b.toNat)), (.cmpiLeU, fun a b => decide (a.toNat ≤ b.toNat)),
  (.cmpiGtS, fun a b => decide (a.toInt > b.toInt)), (.cmpiGtU, fun a b => decide (a.toNat > b.toNat))]

/-! ### Numbers -/

/-- The rounding of the k-th value that an instruction produces: the mode of `fpcr.rnd` (R351), whose stochastic mode takes one LFSR step
for each value (R139, R360). -/
def rmAt (t : Thread) (k : Nat) : Rm :=
  match t.fpcr.toNat % 8 with
  | 0 => .ne
  | 1 => .z
  | 2 => .dn
  | 3 => .up
  | 4 => .na
  | _ => .sr (lfsrStep^[k + 1] t.lfsr).toNat

/-- The LFSR after `n` values (R139). -/
def lfsrAfter (t : Thread) (n : Nat) : Word := if t.fpcr.toNat % 8 < 5 then t.lfsr else lfsrStep^[n] t.lfsr

/-- `fpsr` after the flags `fl` have been raised: they are sticky, and an invalid operation under `pinv` sets `psn` too (R26, R141). -/
def raised (t : Thread) (fl : Word) : Word :=
  t.fpsr ||| fl ||| (if t.fpcr.getLsbD 4 = true ∧ fl.getLsbD 0 = true then 64 else 0)

/-- The instruction completes with result `r`, flags `fl` and `n` values rounded under `round_mode()`. -/
def Rounds (s : State) (i : Instr) (r : Res) (fl : Word) (n : Nat) : Prop :=
  ∃ s', exec i s = .next s' ∧ Produced s s' (shape i) r (raised (s.thr s.cur) fl) (lfsrAfter (s.thr s.cur) n)

/-- Bits of a result of at most 32 bits. -/
def w32 (n : Nat) : Word := BitVec.ofNat 32 n

/-- Operands A and B and the old D, as numbers. -/
def opA (s : State) (f : FA) : Nat := ((s.thr s.cur).src32 f.lit f.a).toNat
def opB (s : State) (f : FA) : Nat := ((s.thr s.cur).src32 f.lit f.b).toNat
def opD (s : State) (f : FA) : Nat := ((s.thr s.cur).old32 f.d).toNat

/-- FP32 results of R144, R145 and `fldexp` of R148, rounded once; of the rounding, A, B and D. -/
def fpOps : List ((FA → Instr) × (Rm → Nat → Nat → Nat → Nat × Word)) := [
  (.fadd, fun m a b _ => f32.finish m (Fp.add m.down (f32.decode a) (f32.decode b))),
  (.fsub, fun m a b _ => f32.finish m (Fp.add m.down (f32.decode a) (f32.decode b).neg)),
  (.fmul, fun m a b _ => f32.finish m (Fp.mul (f32.decode a) (f32.decode b))),
  (.fma, fun m a b d => f32.fma m false false a b d), (.fms, fun m a b d => f32.fma m false true a b d),
  (.fnma, fun m a b d => f32.fma m true false a b d), (.fnms, fun m a b d => f32.fma m true true a b d),
  (.fldexp, fun m a b _ => f32.round m ((f32.decode a).scale (max (-300) (min 300 (w32 b).toInt))))]

/-- Results of packed halves (R145, R149): format, then the operation on one half of A, B and D. -/
def halfOps : List ((FA → Instr) × (Rm → Nat → Nat → Nat → Nat × Word)) := [
  (.fmulH2, fun m a b _ => f16.mul m a b), (.faddH2, fun m a b _ => f16.add m a b),
  (.fmaH2, fun m a b d => f16.fma m false false a b d), (.fmaB2, fun m a b d => bf16.fma m false false a b d),
  (.addB2, fun m a b _ => bf16.add m a b), (.subB2, fun m a b _ => bf16.sub m a b), (.mulB2, fun m a b _ => bf16.mul m a b),
  (.subH2, fun m a b _ => f16.sub m a b)]

/-- The lesser or greater of two codes of a format (R144): a single NaN gives the other operand, two give the canonical NaN, and −0
lies below +0. The second component says whether a signalling NaN raises `nv`. -/
def pick (f : Fmt) (greater : Bool) (a b : Nat) : Nat × Word :=
  let x := f.decode a
  let y := f.decode b
  (if x.isNan = true ∧ y.isNan = true then f.qnan
   else if x.isNan = true then b
   else if y.isNan = true then a
   else if x.lt y = true ∨ (x.eq y = true ∧ x.sgn = true ∧ y.sgn = false) then (if greater then b else a)
   else (if greater then a else b),
   if x.isSnan = true ∨ y.isSnan = true then 1 else 0)

/-- Packed minima and maxima (R149). -/
def halfPicks : List ((FA → Instr) × Fmt × Bool) := [
  (.minB2, bf16, false), (.maxB2, bf16, true), (.minH2, f16, false), (.maxH2, f16, true)]

/-- Half k of a register (R138). -/
def halfOf (x k : Nat) : Nat := x / 65536 ^ k % 65536

/-- The conditions of R146, and whether a quiet NaN operand raises `nv`. -/
def fcmpOps : List ((FP → Instr) × (Fp → Fp → Bool) × Bool) := [
  (.fcmpEq, fun x y => x.eq y, false), (.fcmpNe, fun x y => !x.eq y, false),
  (.fcmpLt, fun x y => x.lt y, true), (.fcmpLe, fun x y => x.lt y || x.eq y, true),
  (.fcmpGe, fun x y => y.lt x || x.eq y, true), (.fcmpGt, fun x y => y.lt x, true),
  (.fcmpUn, fun x y => x.isNan || y.isNan, false), (.fcmpOrd, fun x y => !(x.isNan || y.isNan), false)]

/-- R147: the conversions, with the number of values each rounds under `round_mode()`. An FP32 value is rounded to an integer first, and
the range is judged on that integer. -/
def cvtOps : List ((FU → Instr) × Nat × (Rm → Nat → Nat × Word)) :=
  let int (m : Rm) (lo hi : Int) (a : Nat) : Nat × Word :=
    match f32.decode a with
    | .nan _ => (0, 1)
    | .inf n => ((BitVec.ofInt 32 (if n then lo else hi)).toNat, 1)
    | .fin n k e =>
      let r := roundQ m n k e 0
      let v : Int := if n then -(r.1 : Int) else r.1
      if v < lo then ((BitVec.ofInt 32 lo).toNat, 1) else if hi < v then ((BitVec.ofInt 32 hi).toNat, 1)
      else ((BitVec.ofInt 32 v).toNat, if r.2 then 16 else 0)
  [(.cvtF32S, 1, fun m a => f32.round m (.fin (decide ((w32 a).toInt < 0)) (w32 a).toInt.natAbs 0)),
   (.cvtSF32, 1, fun m a => int m (-0x80000000) 0x7FFFFFFF a),
   (.cvtF32U, 1, fun m a => f32.round m (.fin false a 0)),
   (.cvtUF32, 1, fun m a => int m 0 0xFFFFFFFF a),
   (.cvtF32F16, 0, fun _ a => f32.round .ne (f16.decode (a % 65536))),
   (.cvtF16F32, 1, fun m a => f16.round m (f32.decode a)),
   (.cvtF32Bf16, 0, fun _ a => f32.round .ne (bf16.decode (a % 65536))),
   (.cvtBf16F32, 1, fun m a => bf16.round m (f32.decode a))]

/-- The class of an FP32 code (R148). -/
def fpClass (a : Nat) : Nat :=
  let neg := 0x80000000 ≤ a
  let e := a / 2 ^ 23 % 256
  let m := a % 2 ^ 23
  if e = 255 then (if m = 0 then (if neg then 1 else 128) else if m < 2 ^ 22 then 256 else 512)
  else if e = 0 then (if m = 0 then (if neg then 8 else 16) else if neg then 4 else 32)
  else if neg then 2 else 64

/-- R148: the forms that round nothing under `round_mode()`. -/
def fmscOps : List ((FU → Instr) × (Nat → Nat × Word)) :=
  let integral (m : Rm) (a : Nat) : Nat × Word :=
    match f32.decode a with
    | .fin n k e => ((f32.round .ne (.fin n (roundQ m n k e 0).1 0)).1, 0)
    | x => f32.round .ne x
  [(.frndNe, integral .ne), (.frndZ, integral .z), (.frndDn, integral .dn), (.frndUp, integral .up),
   (.fcls, fun a => (fpClass a, 0)),
   (.fgetexp, fun a => match f32.decode a with
     | .nan q => (0x7FFFFFFF, if q then 1 else 0)
     | .inf _ => (0x7FFFFFFF, 0)
     | .fin _ m e => if m = 0 then (0x80000000, 0) else ((BitVec.ofInt 32 (e + Nat.log2 m)).toNat, 0)),
   (.fgetman, fun a => match f32.decode a with
     | .fin n m _ => f32.round .ne (.fin n m (if m = 0 then 1 else -(Nat.log2 m : Int)))
     | _ => (0x7FC00000, 1))]

/-- The forms that move bits (R144). -/
def fpMoves : List ((FU → Instr) × (Word → Word)) := [(.fabs, fun a => a &&& 0x7FFFFFFF), (.fneg, fun a => a ^^^ 0x80000000)]

/-- R151: targets with their number of elements. -/
def npkOps : List ((FA → Instr) × Nf × Nat) := [
  (.npkE4m3, .e4m3, 4), (.npkE5m2, .e5m2, 4), (.npkE3m2, .e3m2, 5), (.npkE2m3, .e2m3, 5), (.npkE2m1, .e2m1, 8), (.npkI8, .i8, 4),
  (.npkI4, .i4, 8)]

/-- R152: the same. -/
def nupOps : List ((FA → Instr) × Nf × Nat) := [
  (.nupE4m3, .e4m3, 4), (.nupE5m2, .e5m2, 4), (.nupE3m2, .e3m2, 5), (.nupE2m3, .e2m3, 5), (.nupE2m1, .e2m1, 8), (.nupI8, .i8, 4),
  (.nupI4, .i4, 8)]

/-- The scale of a B operand (R151, R152). -/
def scaleB (s : State) (f : FA) : Nat := if f.b = 62 then 127 else opB s f % 256

/-- Element i of `npk` (R151): its code and flags; a strict failure raises `psn`. -/
def npkElem (s : State) (n : Nf) (f : FA) (i : Nat) : Nat × Word :=
  let t := s.thr s.cur
  let x := f32.decode (if f.a.toNat < 60 then (t.g.get (f.a.toNat + i)).toNat else 0)
  if scaleB s f = 255 then (n.invalid, 65)
  else
    let r := n.convert (t.fpcr.getLsbD 3) (rmAt t i) (x.scale (127 - (scaleB s f : Int)))
    (r.1, r.2.1 ||| (if r.2.2 then 64 else 0))

/-- Element i of `nup` (R152): its BF16 code and flags. -/
def nupElem (s : State) (n : Nf) (f : FA) (i : Nat) : Nat × Word :=
  let c := opA s f / 2 ^ (n.width * i) % 2 ^ n.width
  let bad := n ≠ .e4m3 ∧ n ≠ .e5m2 ∧ c = n.invalid
  if scaleB s f = 255 ∨ bad then (0x7FC0, (if scaleB s f = 255 then 1 else 0) ||| (if bad then 64 else 0))
  else bf16.round (rmAt (s.thr s.cur) i) ((n.decode c).scale ((scaleB s f : Int) - 127))

/-- The union of the flags of the elements below `k`. -/
def unionFlags (e : Nat → Nat × Word) (k : Nat) : Word := (List.range k).foldl (fun a i => a ||| (e i).2) 0

/-- R153: element values, their width and number, for the forms that accumulate in FP32 with one rounding. -/
def dotOps : List ((FA → Instr) × Fmt × Nat) := [
  (.dot4E4, e4m3, 4), (.dot4E5, e5m2, 4), (.dot8F4, e2m1, 8), (.dot2B2, bf16, 2), (.dot2H2, f16, 2)]

/-- d + Σ aᵢ × bᵢ, exact, rounded once (R153). -/
def dotValue (fm : Fmt) (k : Nat) (m : Rm) (a b d : Nat) : Nat × Word :=
  let el (x i : Nat) : Fp := fm.decode (x / 2 ^ (fm.width * i) % 2 ^ fm.width)
  let ps := (List.range k).map (fun i => Fp.mul (el a i) (el b i))
  let r := Fp.sum m.down (f32.decode d) (ps.map (·.1))
  f32.finish m (r.1, ps.any (·.2) || r.2)

/-- The integer forms of R153. -/
def idotOps : List ((FA → Instr) × Nat × Nat) := [(.dot4I8, 8, 4), (.dot8I4, 4, 8)]

/-- Two's complement field i of w bits. -/
def sfield (x w i : Nat) : Int := (BitVec.ofNat w (x / 2 ^ (w * i))).toInt

/-- The special functions of R162. -/
def sfnOps : List ((FSf → Instr) × Sfn) := [
  (.exp, .exp), (.exp2, .exp2), (.ln, .ln), (.log2, .log2), (.rcp, .rcp), (.rsqrt, .rsqrt), (.sqrt, .sqrt), (.erf, .erf),
  (.tanh, .tanh), (.sigm, .sigm), (.gelu, .gelu), (.silu, .silu), (.sin, .sin), (.cos, .cos)]

/-- The special values of R162 in FP32: function, operand, result and flags. -/
def sfnSpecial : List (Sfn × Word × Word × Word) := [
  (.exp, 0xFF800000, 0, 0), (.exp, 0x7F800000, 0x7F800000, 0), (.exp2, 0xFF800000, 0, 0), (.exp2, 0x7F800000, 0x7F800000, 0),
  (.ln, 0, 0xFF800000, 2), (.ln, 0x80000000, 0xFF800000, 2), (.log2, 0, 0xFF800000, 2), (.log2, 0x80000000, 0xFF800000, 2),
  (.rcp, 0, 0x7F800000, 2), (.rcp, 0x80000000, 0xFF800000, 2), (.rcp, 0x7F800000, 0, 0), (.rcp, 0xFF800000, 0x80000000, 0),
  (.rsqrt, 0, 0x7F800000, 2), (.rsqrt, 0x80000000, 0xFF800000, 2), (.sqrt, 0x80000000, 0x80000000, 0),
  (.erf, 0x7F800000, 0x3F800000, 0), (.erf, 0xFF800000, 0xBF800000, 0), (.tanh, 0x7F800000, 0x3F800000, 0), (.tanh, 0xFF800000, 0xBF800000, 0),
  (.sigm, 0xFF800000, 0, 0), (.sigm, 0x7F800000, 0x3F800000, 0), (.gelu, 0xFF800000, 0x80000000, 0), (.gelu, 0x7F800000, 0x7F800000, 0),
  (.silu, 0xFF800000, 0x80000000, 0), (.silu, 0x7F800000, 0x7F800000, 0), (.sin, 0x7F800000, 0x7FC00000, 1), (.sin, 0xFF800000, 0x7FC00000, 1),
  (.cos, 0x7F800000, 0x7FC00000, 1), (.cos, 0xFF800000, 0x7FC00000, 1)]

/-- The functions of R162 that take no negative number. -/
def sfnDomain : List Sfn := [.ln, .log2, .rsqrt, .sqrt]

/-- R162: the operand of a format code. -/
def sfArg (code : Nat) (a : Word) : Fp :=
  (if code = 0 then f32 else if code = 1 then f16 else if code = 2 then bf16 else if code = 3 then e4m3 else e5m2).decode
    (a.toNat % 2 ^ (if code = 0 then 32 else if code ≤ 2 then 16 else 8))

/-- R162: the canonical NaN or the invalid code of a format. -/
def sfNan (code : Nat) : Nat := if code = 0 then 0x7FC00000 else if code = 1 then 0x7E00 else if code = 2 then 0x7FC0 else if code = 3 then 0x7F else 0x7E

/-- R162: a value rounded to a format of 16 bits or fewer under `fpcr.rnd`, whose stochastic mode acts as nearest-even; an FP8 result that
fails a strict conversion raises `psn` (R141, R150). -/
def sfRound (t : Thread) (code : Nat) (x : Fp) : Nat × Word :=
  let m := if t.fpcr.toNat % 8 < 5 then rmAt t 0 else .ne
  if code = 1 then f16.round m x
  else if code = 2 then bf16.round m x
  else
    let r := Nf.convert (if code = 3 then .e4m3 else .e5m2) (t.fpcr.getLsbD 3) m x
    (r.1, r.2.1 ||| (if r.2.2 then 64 else 0))

/-- R163: `tbl` in FP32 over the bank `b`. -/
def tblValue (b : FMap Byte) (x : Fp) : Nat × Word :=
  let code (o : Nat) : Nat := leNat (Memory.read b o 4)
  let num (o : Nat) : Fp := f32.decode (code o)
  let d := Fp.add false x (num 0).neg
  let p := Fp.mul d.1 (num 4)
  let t := f32.finish .ne (p.1, d.2 || p.2)
  let tv := f32.decode t.1
  if x.isNan then (0x7FC00000, if x.isSnan then 1 else 0)
  else if tv.isNan then (0x7FC00000, t.2)
  else if tv.lt (.fin false 0 0) then (if (num 16).isNan then 0x7FC00000 else code 16, t.2 ||| (if (num 16).isSnan then 1 else 0))
  else if !tv.lt (.fin false 256 0) then ((f32.add .ne (code 2056) (code 2060)).1, t.2 ||| (f32.add .ne (code 2056) (code 2060)).2)
  else
    let i := match tv with
      | .fin _ m e => (roundQ .z false m e 0).1
      | _ => 0
    let q := Fp.mul (num (20 + 8 * i)) (Fp.add false tv (.fin true i 0)).1
    let r := Fp.add false (num (16 + 8 * i)) q.1
    ((f32.finish .ne (r.1, q.2 || r.2)).1, t.2 ||| (f32.finish .ne (r.1, q.2 || r.2)).2)

/-- Weight i of KC2 index `x` over entry `c` (R160). -/
def kc2 (c : Word) (x i : Nat) : Nat :=
  let n := c.toNat / 16 ^ i % 16
  let mag := if x % 2 = 1 ∧ 8 ≤ n then min (n % 8 + 1) 7 else n % 8
  let sgn := if i < 7 then x / 2 ^ (i + 1) % 2 else ((List.range 7).map (fun k => x / 2 ^ (k + 1) % 2)).sum % 2
  if mag = 0 then 0 else 8 * sgn + mag

/-! ### Thread words that produce no latch value -/

/-- The state `s1` once the current thread has left its instruction for `pc`: both latches are invalid (R37), and the thread waits for
nothing. `s` is the state before the instruction. -/
def after (s s1 : State) (pc : DWord) : State :=
  s1.modThr s.cur (fun t => { t with
    b0 := none, b1 := none, chain := none, pend := none, wait := .none, bulk := none, mrun := none, barArr := false, pc := pc,
    age := if (s.thr s.cur).wait = .none then t.age else s.time })

/-- What the thread `t` has begun with the instruction `i`: where `i` ends a latch chain, a later fault of an access goes back to the start
of the chain (R39, R97). -/
def begun (s : State) (i : Instr) (t : Thread) : Thread :=
  match (s.thr s.cur).nextChain (shape i) with
  | none => t
  | some c =>
    if t.seq = (s.thr s.cur).seq then t
    else { t with
      loads := t.loads.map (fun l => if (s.thr s.cur).seq ≤ l.seq then { l with snap := c.snap } else l)
      stores := t.stores.map (fun h => if (s.thr s.cur).seq ≤ h.seq then { h with op := match h.op with
        | .amo op x y d _ => .amo op x y d c.snap
        | .store bs => .store bs } else h) }

/-- The address of the next instruction. -/
def nextPc (s : State) (i : Instr) : DWord := (s.thr s.cur).pc + BitVec.ofNat 64 (shape i).len

/-- The instruction turns the state into `s1` and goes on behind it. -/
def Does (s : State) (i : Instr) (s1 : State) : Prop := exec i s = .next (after s (s1.modThr s.cur (begun s i)) (nextPc s i))

/-- The instruction turns the state into `s1` and transfers control. -/
def Jumps (s : State) (i : Instr) (s1 : State) (pc : DWord) : Prop := exec i s = .next (after s s1 pc)

/-- The instruction raises a precise fault; the chain it ends is undone (R39, R131). -/
def Faults (s : State) (i : Instr) (code : Nat) (addr : DWord) : Prop :=
  exec i s = .next (s.faultAt s.cur (((s.thr s.cur).nextChain (shape i)).map (·.snap)) code 0 addr)

/-- The instruction waits; it is run again when a turn finds it so. -/
def Waits (s : State) (i : Instr) (w : Wait) : Prop :=
  exec i s = .next (s.modThr s.cur (fun t => { t with
    wait := w, pend := (t.nextChain (shape i)).map (·.snap), since := if t.wait = w then t.since else s.time
    sinceC := if t.wait = w then t.sinceC else s.clk (s.coreOf t) }))

/-- The instruction has completed, and the thread, behind it, now waits for `w`. -/
def Rests (s : State) (i : Instr) (s1 : State) (w : Wait) : Prop :=
  exec i s = .next (s1.modThr s.cur (fun t => { t with
    b0 := none, b1 := none, chain := none, pend := none, bulk := none, mrun := none, barArr := false, pc := nextPc s i, wait := w
    since := s.time }))

/-- The current thread, and the state with that thread replaced. -/
def me (s : State) : Thread := s.thr s.cur
def withMe (s : State) (t : Thread) : State := s.setThr s.cur t

/-- R79: bits [63:60] of a target are 0. -/
def inWindow0 (v : DWord) : Prop := v.toNat < 2 ^ 60

/-- A register operand as a number. -/
def opn (s : State) (lit : Word) (f : BitVec 6) : Nat := ((me s).src32 lit f).toNat

/-- The thread is over (R84): it neither issues nor waits, its loads are abandoned and its stores go on. -/
def Ends (s : State) (i : Instr) : Prop :=
  ∃ s', exec i s = .next s' ∧ (me s').live = false ∧ (me s').exited = true ∧ (me s').loads = [] ∧ (me s').stores = (me s).stores
    ∧ (∀ u, u ≠ s.cur → s'.thr u = s.thr u) ∧ s' = { s with threads := s'.threads, plots := s'.plots }

/-- The words whose own frame is that of R35 to R40 alone: all but lane instructions, `crd`, `cwr` and tenant macros. -/
def plainWord : Instr → Bool
  | .add _ | .sub _ | .and _ | .or _ | .xor _ | .andn _ | .orn _ | .xnor _ | .shl _ | .shr _ | .sra _ | .rol _ | .ror _ | .minS _ |
    .maxS _ | .minU _ | .maxU _ | .mul _ | .mulhiS _ | .mulhiU _ | .divS _ | .divU _ | .remS _ | .remU _ | .bfxU _ | .bfxS _ | .fadd _ |
    .fsub _ | .fmul _ | .fmin _ | .fmax _ | .fcpsgn _ | .fldexp _ | .addB2 _ | .subB2 _ | .mulB2 _ | .minB2 _ | .maxB2 _ | .subH2 _ |
    .minH2 _ | .maxH2 _ | .scl _ | .mask _ | .tblRd _ | .clz _ | .popc _ | .brev _ | .abs _ | .neg _ | .sextB _ | .sextH _ | .mov _ |
    .fabs _ | .fneg _ | .cvtF32S _ | .cvtSF32 _ | .cvtF32U _ | .cvtUF32 _ | .cvtF32F16 _ | .cvtF16F32 _ | .cvtF32Bf16 _ | .cvtBf16F32 _ |
    .frndNe _ | .frndZ _ | .frndDn _ | .frndUp _ | .fcls _ | .fgetexp _ | .fgetman _ | .kc2DecLo _ | .kc2DecHi _ | .mad _ | .bfi _ |
    .fma _ | .fms _ | .fnma _ | .fnms _ | .fmulH2 _ | .faddH2 _ | .fmaH2 _ | .fmaB2 _ | .dot4E4 _ | .dot4E5 _ | .dot8F4 _ | .dot4I8 _ |
    .dot8I4 _ | .dot2B2 _ | .dot2H2 _ | .dot2B2f _ | .addD _ | .subD _ | .madD _ | .mulwS _ | .mulwU _ | .shlD _ | .shrD _ | .sraD _ |
    .lea2 _ | .lea4 _ | .lea8 _ | .lea16 _ | .cmpEq _ | .cmpNe _ | .cmpLtS _ | .cmpLeS _ | .cmpLtU _ | .cmpLeU _ | .cmpTst _ | .cmpTstn _
    | .fcmpEq _ | .fcmpNe _ | .fcmpLt _ | .fcmpLe _ | .fcmpGe _ | .fcmpGt _ | .fcmpUn _ | .fcmpOrd _ | .sel _ | .addi _ | .andi _ | .ori _
    | .xori _ | .shli _ | .shri _ | .srai _ | .roli _ | .cmpiEq _ | .cmpiNe _ | .cmpiLtS _ | .cmpiLeS _ | .cmpiLtU _ | .cmpiLeU _ |
    .cmpiGtS _ | .cmpiGtU _ | .movi _ | .movhi _ | .npkE4m3 _ | .npkE5m2 _ | .npkI8 _ | .npkE3m2 _ | .npkE2m3 _ | .npkE2m1 _ | .npkI4 _ |
    .nupE4m3 _ | .nupE5m2 _ | .nupI8 _ | .nupE3m2 _ | .nupE2m3 _ | .nupE2m1 _ | .nupI4 _ | .cbLd _ | .exp _ | .exp2 _ | .ln _ | .log2 _ |
    .rcp _ | .rsqrt _ | .sqrt _ | .erf _ | .tanh _ | .sigm _ | .gelu _ | .silu _ | .sin _ | .cos _ | .tbl _ | .tblLd _ | .tblSw _ | .ld _
    | .lds _ | .st _ | .ldq _ | .stq _ | .ldNc _ | .pf _ | .lda _ | .stl _ | .feClr _ | .feSet _ | .feTst _ | .feWt _ | .gat _ | .sct _ |
    .otkNew _ | .otkWt _ | .amoAdd _ | .amoMinS _ | .amoMaxS _ | .amoMinU _ | .amoMaxU _ | .amoAnd _ | .amoOr _ | .amoXor _ | .amoXchg _ |
    .amoCas _ | .amoFadd _ | .amoFaddB2 _ | .amoFmax _ | .amoIncW _ | .amoDecW _ | .fenceCore _ | .fenceDie _ | .fencePkg _ | .fenceSys _
    | .leaseDrop _ | .xfence _ | .gwct _ | .barArr _ | .barWt _ | .barSync _ | .nbarArr _ | .nbarWt _ | .bwait _ | .bobjInit _ | .kick _ |
    .cpySt _ | .free _ | .ringInit _ | .send _ | .recvAdv _ | .br _ | .call _ | .brx _ | .callx _ | .ret _ | .exit _ | .yield _ | .nop _ |
    .hot _ | .nocap _ | .capok _ | .sleep _ | .regroup _ | .trap _ | .spawn _ | .spawnW _ | .lnch _ | .srd _ | .tret _ | .wfi _ | .halt _
    | .vdhop _ | .cfgld _ | .wcsld _ | .cfgDrop _ | .wcsbind _ | .accRd _ | .tileRd _ | .olRd _ | .accWr _ | .tileWr _ | .olWr _ |
    .olCnt _ => true
  | _ => false

/-- Special registers by number (R24): for a thread `t`, its plot and its launch. -/
def sregTable (s : State) (t : Thread) : List (Nat × DWord) :=
  let p := s.plots.get t.plot
  let l := s.launches.get p.launch
  let w (x : Word) : DWord := x.setWidth 64
  [(0x00, w t.tid), (0x01, BitVec.ofNat 64 (t.slot % 32)), (0x02, BitVec.ofNat 64 p.num), (0x03, BitVec.ofNat 64 (p.core % 160)),
   (0x04, BitVec.ofNat 64 p.vdie), (0x05, BitVec.ofNat 64 t.slot), (0x08, 0),
   (0x09, w (BitVec.ofNat 32 (t.grps.getD 0 0xFFFFFFFF))), (0x0A, w (BitVec.ofNat 32 (t.grps.getD 1 0xFFFFFFFF))),
   (0x0B, w (BitVec.ofNat 32 (t.grps.getD 2 0xFFFFFFFF))),
   (0x10, BitVec.ofNat 64 (s.time % 2 ^ 32)), (0x11, BitVec.ofNat 64 (s.time / 2 ^ 32 % 2 ^ 32)),
   (0x16, BitVec.ofNat 64 l.id), (0x17, w t.spawnArg),
   (0x1A, match t.hotHead with | some h => BitVec.ofNat 64 ((s.cores.get p.core).hotCount t.ctx h) | none => 0)]

/-- The 64-bit special registers (R24). -/
def sregWide (s : State) (t : Thread) : List (Nat × DWord) :=
  [(0x12, BitVec.ofNat 64 s.time), (0x14, BitVec.ofInt 64 (s.ctxs.get t.ctx).pannier), (0x18, (s.plots.get t.plot).argp)]

/-- Control registers of threads by number, with their values (R25). -/
def cregTable (s : State) (t : Thread) : List (Nat × DWord) :=
  let c := s.ctxs.get t.ctx
  [(0x00, t.fpcr.setWidth 64), (0x01, t.fpsr.setWidth 64), (0x02, t.lfsr.setWidth 64),
   (0x08, BitVec.ofNat 64 (256 + (s.plots.get t.plot).bintmrOff).toNat), (0x09, BitVec.ofNat 64 (64 + c.hotthrOff).toNat),
   (0x10, BitVec.ofNat 64 (c.panCtl.toNat % 32 + if c.pannier ≤ 0 then 32 else 0))]

/-- The 64-bit control registers (R25). -/
def cregWide (s : State) (t : Thread) : List (Nat × DWord) :=
  [(0x04, (s.ctxs.get t.ctx).tvec), (0x06, t.sbase), (0x11, (s.ctxs.get t.ctx).panRsv)]

/-- When `crd` or `cwr` executes: as R35 says, with the privilege of the register for the direction (R25). -/
def RunsAt (s : State) (sh : Shape) (priv : Nat) : Prop := s.Runs { sh with priv := priv }

/-- `fpcr` as stored (R18, R26): bits 4:0, of which a rounding mode of 6 or 7 reads back 0. -/
def fpcrOf (v : Word) : Word := if 6 ≤ v.toNat % 8 then v &&& 24 else v &&& 31

/-! ### Memory -/

/-- The plot of the current thread. -/
def myPlot (s : State) : Plot := s.plots.get (me s).plot

/-- The address of an M-format word (R98): base plus OFF6 × scale, or plus the literal where OFF6 is −32. -/
def memAddr (s : State) (lit : Word) (a o : BitVec 6) (scale : Nat) : DWord :=
  (me s).src64 lit a + (if o = 32 then lit.signExtend 64 else BitVec.ofInt 64 (o.toInt * scale))

/-- The n bytes at `va` lie in the plot's scratchpad from offset `o` on (R93, R270). -/
def InScratch (s : State) (va : DWord) (n o : Nat) : Prop :=
  va.toNat = 2 ^ 60 + o ∧ 0 < n ∧ o + n ≤ (myPlot s).scratchLen ∧ o + n ≤ 2 ^ 60

/-- No line that the n bytes from offset `o` of the plot's scratchpad touch holds an uncorrectable error (R97, R423). -/
def CleanScratch (s : State) (n o : Nat) : Prop := ∀ l, o / 128 ≤ l → l ≤ (o + n - 1) / 128 → (myPlot s).badScr.get l = false

/-- The 32-bit words of loaded bytes, lowest first, the last zero-extended (R98). -/
def wordsOf (bs : List Byte) : List Word :=
  (List.range ((bs.length + 3) / 4)).map (fun k => BitVec.ofNat 32 (leNat ((bs.drop (4 * k)).take 4)))

/-- R98: address, size, destination and the words that a load makes of its bytes. -/
def loadSpec (s : State) : Instr → Option (DWord × Nat × BitVec 6 × (List Byte → List Word))
  | .ld f | .lda f => some (memAddr s f.lit f.a f.o (2 ^ f.z.toNat), 2 ^ f.z.toNat, f.d, wordsOf)
  | .ldNc f => some (memAddr s f.lit f.a f.o (2 ^ f.z.toNat), 2 ^ f.z.toNat, f.d, wordsOf)
  | .lds f => some (memAddr s f.lit f.a f.o (2 ^ f.z.toNat), 2 ^ f.z.toNat, f.d,
      fun bs => [BitVec.ofInt 32 (sgn (8 * bs.length) (leNat bs))])
  | .ldq f => some (memAddr s f.lit f.a f.o 16, 16, f.d, wordsOf)
  | _ => none

/-- R98: address and bytes of a store, and the scope whose fence a release store waits for (R101). -/
def storeSpec (s : State) : Instr → Option (DWord × List Byte × Option Nat)
  | .st f => some (memAddr s f.lit f.a f.o (2 ^ f.z.toNat),
      leBytes (2 ^ f.z.toNat) (if f.z = 3 then ((me s).src64 f.lit f.d).toNat else ((me s).src32 f.lit f.d).toNat), none)
  | .stl f => some (memAddr s f.lit f.a f.o (2 ^ f.z.toNat),
      leBytes (2 ^ f.z.toNat) (if f.z = 3 then ((me s).src64 f.lit f.d).toNat else ((me s).src32 f.lit f.d).toNat), some f.c.toNat)
  | .stq f => some (memAddr s f.lit f.a f.o 16,
      (List.range 4).flatMap (fun k => leBytes 4 (if f.d.toNat < 60 then ((me s).g.get (f.d.toNat + k)).toNat else 0)), none)
  | _ => none

/-- The plot `p` of `s'` is that of `s` but for its scratchpad, whose bytes from `o` on are `bs` and elsewhere as before; no other plot
differs. -/
def ScratchWritten (s s' : State) (p o : Nat) (bs : List Byte) : Prop :=
  (∀ a, (s'.plots.get p).scratch.get a = if o ≤ a ∧ a < o + bs.length then bs.getD (a - o) 0 else (s.plots.get p).scratch.get a)
  ∧ s'.plots.get p = { s.plots.get p with scratch := (s'.plots.get p).scratch }
  ∧ ∀ q, q ≠ p → s'.plots.get q = s.plots.get q

/-- The completion times of R110 after an access that the scratchpad performs now. -/
def timed (t : Thread) (now : Nat) : Thread :=
  { t with tCore := max t.tCore now, tDie := max t.tDie now, tPkg := max t.tPkg now, tSys := max t.tSys now }

/-- The thread `t` of a breaker that has completed at the state `s`, behind it. -/
def behind (s : State) (i : Instr) (t : Thread) : Thread :=
  { begun s i t with b0 := none, b1 := none, chain := none, pend := none, wait := .none, bulk := none, mrun := none, barArr := false,
                     pc := nextPc s i, age := if (me s).wait = .none then t.age else s.time }

/-- R105 to R107: operation, size, address, operand, compare value and destination of an atomic. -/
def amoSpec (s : State) : Instr → Option (AOp × Nat × DWord × DWord × DWord × BitVec 6)
  | .amoAdd f => wide .add f | .amoMinS f => wide .minS f | .amoMaxS f => wide .maxS f | .amoMinU f => wide .minU f
  | .amoMaxU f => wide .maxU f | .amoAnd f => wide .and f | .amoOr f => wide .or f | .amoXor f => wide .xor f
  | .amoXchg f => wide .xchg f
  | .amoCas f =>
    let t := me s
    if f.w then some (.cas, 8, t.src64 f.lit f.a, t.g.get (f.b.toNat + 3) ++ t.g.get (f.b.toNat + 2), t.src64 f.lit f.b, f.d)
    else some (.cas, 4, t.src64 f.lit f.a, ((t.src64 f.lit f.b).extractLsb' 32 32).setWidth 64,
      ((t.src64 f.lit f.b).extractLsb' 0 32).setWidth 64, f.d)
  | .amoFadd f => narrow .fadd f | .amoFaddB2 f => narrow .faddB2 f | .amoFmax f => narrow .fmax f | .amoIncW f => narrow .incW f
  | .amoDecW f => narrow .decW f
  | _ => none
where
  wide (op : AOp) (f : FAm) : Option (AOp × Nat × DWord × DWord × DWord × BitVec 6) :=
    some (op, if f.w then 8 else 4, (me s).src64 f.lit f.a,
      if f.w then (me s).src64 f.lit f.b else ((me s).src32 f.lit f.b).setWidth 64, 0, f.d)
  narrow (op : AOp) (f : FDab) : Option (AOp × Nat × DWord × DWord × DWord × BitVec 6) :=
    some (op, 4, (me s).src64 f.lit f.a, ((me s).src32 f.lit f.b).setWidth 64, 0, f.d)

/-- The new value of an atomic on n bytes (R107, R108). -/
def amoNew (op : AOp) (n old x y : Nat) : Nat :=
  let sg (v : Nat) : Int := if v < 2 ^ (8 * n - 1) then v else (v : Int) - 2 ^ (8 * n)
  match op with
  | .add => (old + x) % 2 ^ (8 * n)
  | .minS => if sg x < sg old then x else old
  | .maxS => if sg old < sg x then x else old
  | .minU => min old x
  | .maxU => max old x
  | .and => old &&& x
  | .or => old ||| x
  | .xor => old ^^^ x
  | .xchg => x
  | .cas => if old = y then x else old
  | .fadd => (f32.add .ne old x).1
  | .faddB2 => (bf16.add .ne (halfOf old 0) (halfOf x 0)).1 + 65536 * (bf16.add .ne (halfOf old 1) (halfOf x 1)).1
  | .fmax => (pick f32 true old x).1
  | .incW => if x ≤ old then 0 else old + 1
  | .decW => if old = 0 ∨ x < old then x else old - 1

/-! ### Engines, tables, tiles and the control store -/

/-- The core of the current thread. -/
def myCore (s : State) : Nat := (myPlot s).core

/-- The offset of n bytes at a window-1 address that is a multiple of `al`, inside the plot's scratchpad (R123, R127). -/
def slotAt (s : State) (va : DWord) (al n o : Nat) : Prop :=
  va.toNat = 2 ^ 60 + o ∧ o % al = 0 ∧ o + n ≤ (myPlot s).scratchLen ∧ o < 2 ^ 60

/-- `n` bytes of the plot's scratchpad. -/
def scrBytes (s : State) (o n : Nat) : List Byte := (List.range n).map (fun j => (myPlot s).scratch.get (o + j))

/-- The instruction writes one register beside the change that `s1` makes. -/
def DoesReg (s : State) (i : Instr) (s1 : State) (nw : Bool) (d : BitVec 6) (v : Word) : Prop :=
  ∃ g', Does s i (s1.modThr s.cur (fun t => { t with g := g' })) ∧ ∀ k, g'.get k = (Res.word nw d v).reg (me s).g k

/-- A value that a TILEX word reads, with `psn` where it is poisoned (R195). -/
def ReadsPoison (s : State) (i : Instr) (nw : Bool) (d : BitVec 6) (v : Word) (p : Bool) : Prop :=
  ∃ g', Does s i (withMe s { me s with g := g', fpsr := if p then (me s).fpsr ||| 64 else (me s).fpsr })
    ∧ ∀ k, g'.get k = (Res.word nw d v).reg (me s).g k

/-! ### Cadence words -/

/-- The sequencer that runs a Cadence word, and its plot. -/
def mySeqPlot (s : State) : Plot := s.plots.get s.curPlot
def mySeq (s : State) : Seq := (mySeqPlot s).seq

/-- k register `n`, and the pair that starts at it. -/
def kOf (s : State) (n : BitVec 5) : Word := (mySeq s).k.get n.toNat
def kPairOf (s : State) (n : BitVec 5) : DWord := (mySeq s).k.get (n.toNat + 1) ++ (mySeq s).k.get n.toNat

/-- The Cadence word turns the state into `s1` and goes on at `pc`. -/
def SeqJumps (s : State) (i : Instr) (s1 : State) (pc : DWord) : Prop :=
  exec i s = .next (s1.modSeq s.curPlot (fun q => { q with pc := pc, wait := .none }))

/-- The Cadence word turns the state into `s1` and goes on behind it; what other packages have answered to the sequencer has been used. -/
def SeqDoes (s : State) (i : Instr) (s1 : State) : Prop :=
  exec i s = .next (({ s1 with remGot := s1.remGot.filter (fun r => r.key != AccId.seqRead s.curPlot) }).modSeq s.curPlot
    (fun q => { q with pc := (mySeq s).pc + 4, wait := .none }))

/-- The Cadence word waits and is run again from its start (R170, R188, R192, R193). -/
def SeqWaits (s : State) (i : Instr) (w : SeqWait) : Prop :=
  exec i s = .next (s.modSeq s.curPlot (fun q => { q with wait := w, since := if q.wait = w then q.since else s.time }))

/-- The 64-byte Cadence fault record of R170. -/
def cadenceRecord (s : State) (code sub : Nat) (addr : DWord) : List Byte :=
  leBytes 2 code ++ leBytes 2 0 ++ leBytes 4 (s.launches.get (mySeqPlot s).launch).id ++ leBytes 4 0xFFFFFFFF
    ++ leBytes 4 (mySeqPlot s).num ++ leBytes 8 (mySeq s).pc.toNat ++ leBytes 8 addr.toNat ++ leBytes 8 s.time ++ leBytes 2 sub
    ++ leBytes 2 0 ++ leBytes 2 0 ++ leBytes 2 0 ++ leBytes 16 0

/-- The Cadence word raises a precise fault (R170): it has no effect, a record is posted on the die, and the sequencer stops. -/
def SeqFaults (s : State) (i : Instr) (code sub : Nat) (addr : DWord) : Prop :=
  exec i s = .next ((({ s with remGot := s.remGot.filter (fun r => r.key != AccId.seqRead s.curPlot) }).post ((mySeqPlot s).core / 160)
      ⟨.fault, cadenceRecord s code sub addr, [s.curPlot, code]⟩).modSeq s.curPlot
    (fun q => { q with faulted := true, wait := .none }))

/-- The Cadence word writes one k register. -/
def SeqWrites (s : State) (i : Instr) (d : BitVec 5) (v : Word) : Prop :=
  ∃ k', SeqDoes s i (s.modSeq s.curPlot (fun q => { q with k := k' }))
    ∧ ∀ n, k'.get n = if n = d.toNat then v else (mySeq s).k.get n

/-- R189. -/
noncomputable def kaluOps : List ((BitVec 5 → BitVec 5 → BitVec 5 → Instr) × (Word → Word → Word)) := [
  (.kadd, fun a b => BitVec.ofNat 32 (a.toNat + b.toNat)), (.ksub, fun a b => BitVec.ofInt 32 ((a.toNat : Int) - b.toNat)),
  (.kmul, fun a b => BitVec.ofNat 32 (a.toNat * b.toNat)), (.kand, fun a b => a &&& b), (.kor, fun a b => a ||| b),
  (.kshl, fun a b => if b.toNat < 32 then BitVec.ofNat 32 (a.toNat * 2 ^ b.toNat) else 0),
  (.kshr, fun a b => if b.toNat < 32 then BitVec.ofNat 32 (a.toNat / 2 ^ b.toNat) else 0)]

/-- R173: the tile fields that `tset` writes. -/
noncomputable def tsetOps : List ((BitVec 5 → BitVec 5 → Instr) × (State → BitVec 5 → Tile → Tile)) := [
  (.tsetW, fun s a t => { t with w := (kOf s a).toNat % 65536 }), (.tsetH, fun s a t => { t with h := (kOf s a).toNat % 65536 }),
  (.tsetC, fun s a t => { t with c := (kOf s a).toNat % 65536 }),
  (.tsetEsc, fun s a t => { t with esc := kPairOf s a &&& 0xFFFFFFFFFFFFFF81 })]

/-- R182: form, width, K, whether scales are used, whether B is transposed. -/
noncomputable def mmaForms : List ((CMma → Instr) × MmaForm × Nat × Nat × Bool × Bool) := [
  (.mmaBf16, .bf16, 16, 128, false, false), (.mmaF16, .f16, 16, 128, false, false), (.mmaE4m3, .e4m3, 8, 256, false, false),
  (.mmaE5m2, .e5m2, 8, 256, false, false), (.mmaMxe4, .mxe4, 8, 256, true, false), (.mmaMxe5, .mxe5, 8, 256, true, false),
  (.mmaMxf4, .mxf4, 4, 512, true, false), (.mmaI8, .i8, 8, 256, false, false), (.mmaI4, .i4, 4, 512, false, false),
  (.mmaBf16T, .bf16t, 16, 128, false, true)]

/-- The shape that R171 and R182 ask of an operand tile: `h` rows of `c` elements of width `w`. -/
def shaped (t : Tile) (w h c : Nat) : Prop := t.w = w ∧ t.h = h ∧ t.c = c

/-- What an `mma` comes to (R182 to R188, R371): accumulator `d` takes, element by element, the value and the poison that the steps of
R184 to R187 give, and the array is taken for 128 cycles, 192 more from cold, and one for every two escapes beyond 256. -/
def Multiplies (s : State) (i : Instr) (m : MmaForm) (d a b : BitVec 5) (za : Bool) : Prop :=
  let q := mySeqPlot s
  let x : MmaOp := ⟨q.tiles.get a.toNat, m, false⟩
  let y : MmaOp := ⟨q.tiles.get b.toNat, m, true⟩
  let old := q.accs.get d.toNat
  ∃ acc : Accum, SeqDoes s i ((s.modAcc s.curPlot d.toNat (fun _ => acc)).modCore q.core (fun c => { c with
      mmaBusy := some ⟨s.curPlot, d.toNat, a.toNat, b.toNat, s.clk q.core + 1000 * (128 + (if c.arrayWarm then 0 else 192)
        + (x.tile.escapes + y.tile.escapes - 256 + 1) / 2)⟩ }))
    ∧ (∀ r c, r < 128 → c < 128 →
      acc.v.get (r * 128 + c) = mmaElem x y (if za then 0 else old.v.get (r * 128 + c)) r c
      ∧ acc.poison.get (r * 128 + c) = ((!za && old.poison.get (r * 128 + c))
          || (List.range m.k).any (fun k => x.poisoned r k || y.poisoned k c)))
    ∧ ∀ n, 16384 ≤ n → acc.v.get n = old.v.get n ∧ acc.poison.get n = old.poison.get n

/-- The matrix array is free. -/
def ArrayFree (s : State) : Prop := (s.cores.get (mySeqPlot s).core).mmaBusy = none

/-- A range of `n` bytes from `va` lies in the scratchpad of the sequencer's plot. -/
def InSeqScratch (s : State) (va : DWord) (n : Nat) : Prop :=
  va.toNat / 2 ^ 60 = 1 ∧ va.toNat % 2 ^ 60 + n ≤ (mySeqPlot s).scratchLen ∧ va.toNat % 2 ^ 60 + n ≤ 2 ^ 60

/-- Where row `r` of a tile store goes (R180). -/
def rowAt (base : DWord) (stride : Int) (r : Nat) : DWord := base + BitVec.ofInt 64 (r * stride)

/-- A `tst` of `h` rows of `cols` elements of `w` bits into the scratchpad, where no two rows meet: every byte of an element that is not
suppressed is written, no other byte changes, and where an element is suppressed one imprecise POISON.STORE record names the first and
the number of them (R180, R181). `byte r j` is byte j of row r, `supp r c` whether element c of it is suppressed. -/
def StoresRows (s : State) (i : Instr) (h cols w : Nat) (base : DWord) (stride : Int) (byte : Nat → Nat → Byte)
    (supp : Nat → Nat → Bool) : Prop :=
  let rb := cols * w / 8
  let p := mySeqPlot s
  let at_ (r : Nat) : Nat := (rowAt base stride r).toNat % 2 ^ 60
  let none_ := (List.range (h * cols)).filter (fun n => supp (n / cols) (n % cols))
  (∀ r, r < h → InSeqScratch s (rowAt base stride r) rb) →
  (∀ r r', r < h → r' < h → r ≠ r' → at_ r + rb ≤ at_ r' ∨ at_ r' + rb ≤ at_ r) →
  ∃ s', exec i s = .next s' ∧ s' = { s with plots := s'.plots, dies := s'.dies, remGot := s'.remGot }
    ∧ (∀ q, q ≠ s.curPlot → s'.plots.get q = s.plots.get q)
    ∧ mySeqPlot s' = { p with
        scratch := (mySeqPlot s').scratch,
        seq := { p.seq with pc := p.seq.pc + 4, wait := .none, tDone := (mySeq s').tDone } }
    ∧ (∀ r j, r < h → j < rb → (mySeqPlot s').scratch.get (at_ r + j) =
        if supp r (8 * j / w) then p.scratch.get (at_ r + j) else byte r j)
    ∧ (∀ a, (∀ r, r < h → a < at_ r ∨ at_ r + rb ≤ a) → (mySeqPlot s').scratch.get a = p.scratch.get a)
    ∧ (none_ = [] → s'.dies = s.dies)
    ∧ ∀ n, none_.head? = some n → s'.dies = (s.post (dieOf p.core) ⟨.fault,
        leBytes 2 17 ++ leBytes 2 1 ++ leBytes 4 (s.launches.get p.launch).id ++ leBytes 4 0xFFFFFFFF ++ leBytes 4 p.num
          ++ leBytes 8 p.seq.pc.toNat ++ leBytes 8 0 ++ leBytes 8 s.time ++ leBytes 2 0 ++ leBytes 2 (n / cols)
          ++ leBytes 2 (n % cols) ++ leBytes 2 (min none_.length 0xFFFF) ++ leBytes 16 0, [s.curPlot, 17]⟩).dies

/-- The forms of `tst` from an accumulator (R180): bits per element, and the code and strict failure of an element's conversion. -/
noncomputable def tstForms : List ((BitVec 5 → BitVec 5 → BitVec 5 → Instr) × Nat × (Word → Nat × Bool)) := [
  (fun d a b => .tstRaw ⟨d, a, b, true⟩, 32, fun v => (v.toNat, false)),
  (fun d a b => .tstBf16 ⟨d, a, b, true⟩, 16, fun v => ((bf16.round .ne (f32.decode v.toNat)).1, false)),
  (fun d a b => .tstF16 ⟨d, a, b, true⟩, 16, fun v => ((f16.round .ne (f32.decode v.toNat)).1, false)),
  (fun d a b => .tstE4m3 ⟨d, a, b, false, true⟩, 8, narrowTo .e4m3 false), (fun d a b => .tstE4m3 ⟨d, a, b, true, true⟩, 8, narrowTo .e4m3 true),
  (fun d a b => .tstE5m2 ⟨d, a, b, false, true⟩, 8, narrowTo .e5m2 false), (fun d a b => .tstE5m2 ⟨d, a, b, true, true⟩, 8, narrowTo .e5m2 true)]
where
  narrowTo (t : Nf) (sat : Bool) (v : Word) : Nat × Bool :=
    let r := Nf.convert t sat .ne (f32.decode v.toNat)
    (r.1, r.2.2)

/-- The sequencer of plot `p` can read these parts at once: it owes no store to them (R168), no bank of a weight store among them is closed
(R264), and none lies in another package. -/
def Readable (s : State) (p : Nat) (ps : List Part) : Prop :=
  (∀ b ∈ ps, ∀ h ∈ (s.plots.get p).seq.stores, h.loc.overlaps h.len b.loc b.len = false)
  ∧ (∀ b ∈ ps, ∀ d o, b.loc = .wgt d o → (s.dies.get d).bankClosed (o / 2 ^ 9 % 2 ^ 6) = false)
  ∧ ∀ b ∈ ps, ∀ k o, b.loc ≠ .rem k o

/-- What `tld` makes of tile `t` before its outlier list (R177 to R179): `rows` and `scales` are the bytes read, with the flags of those
that have an uncorrectable error, and `k` is KC2. The scale byte of an element is that of the role which the shape admits (DEDUCED,
notes/assumptions/96.md). Index x of the source decodes by the codebook `book` into elements 8x to 8x + 7. -/
def TileLoaded (t t' : Tile) (k : Bool) (book : FMap Word) (rows scales : List Byte) (bad sbad : List Bool) : Prop :=
  t' = { t with data := t'.data, side := t'.side, poison := t'.poison, sidePoison := t'.sidePoison }
  ∧ (k = false → ∀ a, t'.data.get a = if a < rows.length then rows.getD a 0 else t.data.get a)
  ∧ (k = true → ∀ n, n < t.h * t.c → t'.elem n = (kc2Codes book (leNat ((rows.drop (n / 8 * 2)).take 2))).getD (n % 8) 0)
  ∧ (∀ a, t'.side.get a = if a < scales.length then scales.getD a 0 else t.side.get a)
  ∧ (∀ a, t'.sidePoison.get a = if a < scales.length then sbad.getD a false else t.sidePoison.get a)
  ∧ ∀ n, t'.poison.get n =
      if n < t.h * t.c then
        sbad.getD (if t.c = 128 ∧ 128 < t.h then n / 128 / 32 * 128 + n % 128 else n / 32) false
        || (if k then bad.getD (n / 8 * 2) false || bad.getD (n / 8 * 2 + 1) false
          else (List.range bad.length).any (fun j => decide (t.w * n < 8 * j + 8) && decide (8 * j < t.w * n + t.w) && bad.getD j false))
      else t.poison.get n

/-! ### Trellis-only words -/

/-- The configuration of a firing on the core `curCore`. -/
def fireCfg (s : State) (f : Firing) : Cfg := (s.grids.get s.curCore).cfgs.getD f.cfg default

/-- The token that a port of a firing holds. -/
def portTok (f : Firing) (n : Nat) : Tok := (f.ports.getD n none).getD default

/-- R49: field 0 to 3 names a port, 8 to 15 a constant of the element, in every lane; every other field reads zero. -/
def srcTok (s : State) (f : Firing) (v : BitVec 6) : Tok :=
  if v.toNat < 4 then portTok f v.toNat
  else { (default : Tok) with
    width := 1, colour := f.colour, tag := f.tag,
    lanes := List.replicate 32
      (if 8 ≤ v.toNat ∧ v.toNat < 16 then ((fireCfg s f).image.elems.get f.elem).consts.get (v.toNat - 8) else 0) }

/-- The lanes of a token. -/
def lanesOf (t : Tok) : List Word := t.lanes.take t.width

/-- R51, R314: a token for destination number `d` and port `port`, which under TOP = 7 is an edge node. One without payload has the width of
the firing. -/
def outTok (s : State) (f : Firing) (colour d port tag : Nat) (lanes : List Word) (poison null : Bool) (stop fmt : Nat) : Tok :=
  let q := fireCfg s f
  let edge := slotTop f.word == 7
  { handle := q.handle, ctx := q.ctx, colour := colour, tag := tag, edge := edge, elem := if edge then d / 32 else d / 16,
    slot := if edge then 0 else d % 16, port := if edge then 0 else port, core := s.curCore,
    width := if null || stop != 0 then f.width else max 1 lanes.length,
    poison := poison, null := null, stop := stop, fmt := fmt, lanes := if null || stop != 0 then [] else lanes, route := none, src := f.elem }

/-- The two destinations of a slot word with their ports. -/
def dst0 (f : Firing) : Nat × Nat := (slotDst0 f.word, slotPort0 f.word)
def dst1 (f : Firing) : Nat × Nat := (slotDst1 f.word, slotPort1 f.word)

/-- The tags of a firing's results (R51): the tag itself, the next one, or every tag of the colour on the grid. -/
def outTags (s : State) (f : Firing) : List Nat := (⟨s.curCore, fireCfg s f⟩ : Site).tags (s.grids.get s.curCore) f

/-- A result for both destinations, in every tag. -/
def toBoth (s : State) (f : Firing) (lanes : List Word) (poison null : Bool) (stop fmt : Nat) : List Tok :=
  (outTags s f).flatMap (fun tag => (if oneDst f.word then [dst0 f] else [dst0 f, dst1 f]).map (fun d =>
    outTok s f f.colour d.1 d.2 tag lanes poison null stop fmt))

/-- A result for one destination. -/
def toOne (s : State) (f : Firing) (colour : Nat) (d : Nat × Nat) (lanes : List Word) (poison null : Bool) (fmt : Nat) : List Tok :=
  (outTags s f).map (fun tag => outTok s f colour d.1 d.2 tag lanes poison null 0 fmt)

/-- The word makes of the state `s1`, with these tokens sent besides. -/
def FiresWith (s : State) (i : Instr) (s1 : State) (ts : List Tok) : Prop :=
  exec i s = .next (s1.modGrid s.curCore (fun g => { g with toks := g.toks ++ ts }))

/-- The word changes only the firing configuration. -/
def FireCfgs (s : State) (f : Firing) (h : Cfg → Cfg) : State :=
  s.modGrid s.curCore (fun g => { g with cfgs := g.cfgs.map (fun q =>
    if !q.captured && q.name == (fireCfg s f).name then h q else q) })

/-- The edge nodes that a slot word names. -/
def nodesOf (f : Firing) : List Nat := if oneDst f.word then [(dst0 f).1 / 32] else [(dst0 f).1 / 32, (dst1 f).1 / 32]

/-! ### Lane instructions -/

/-- The lane block of the current thread: its plot and block number (R71). -/
def myBlock (s : State) : Nat := (me s).slot / 32

/-- A live thread of that block. -/
def InBlock (s : State) (u : Nat) : Prop := (s.thr u).live = true ∧ (s.thr u).plot = (me s).plot ∧ (s.thr u).slot / 32 = myBlock s

/-- Every other live thread of the block waits at a lane instruction, those at the current thread's address at the same kind `k`; no two
have the same home lane, and the plot is resident (R71, R72). -/
def BlockReady (s : State) (k : LaneKind) : Prop :=
  s.threads.wf = true ∧ (myPlot s).resident = true
  ∧ (∀ u v, InBlock s u → InBlock s v → (s.thr u).slot = (s.thr v).slot → u = v)
  ∧ ∀ u, u ≠ s.cur → InBlock s u → ∃ op, (s.thr u).wait = .lane op ∧ ((s.thr u).pc = (me s).pc → op.kind = k)

/-- The active members of the collective at address `pc` (R72): threads of the block whose guard is true. -/
def lanePeers (s : State) (p blk : Nat) (pc : DWord) : List Member :=
  s.threads.filterMap (fun e =>
    if e.2.live && e.2.plot == p && e.2.slot / 32 == blk && e.2.pc == pc then
      match e.2.wait with
      | .lane op => if op.active then some ⟨e.1, e.2.slot % 32, e.2, op⟩ else none
      | _ => none
    else none)

/-- The A operand of a member, and that of the member at a lane. -/
def peerA (m : Member) : Word := m.t.src32 m.op.lit m.op.a
def peerAt (ms : List Member) (x : Nat) : Option Word := (ms.find? (fun m => m.lane == x)).map peerA

/-- The lane instruction leaves the thread waiting, and the lane event of its block then completes it (R72): where its guard is true with
the result, flags and number of rounded values that `value` gives for the active members of its collective, else without effect. -/
def LaneCompletes (s : State) (i : Instr) (k : LaneKind) (value : List Member → Res × Word × Nat) : Prop :=
  ∃ s1 op s2, exec i s = .next s1 ∧ op.kind = k ∧ op.active = (me s).guard (shape i).g
    ∧ s1 = withMe s { me s with wait := .lane op, pend := ((me s).nextChain (shape i)).map (·.snap), since := (me s1).since }
    ∧ exec (.laneEvent (me s).plot (myBlock s)) s1 = .next s2
    ∧ let t := me s
      let t' := s2.thr s.cur
      let v := value (lanePeers s1 t.plot (myBlock s) t.pc)
      (t.guard (shape i).g = true →
        (∀ n, t'.g.get n = v.1.reg t.g n) ∧ t'.fpsr = raised t v.2.1 ∧ t'.lfsr = lfsrAfter t v.2.2
        ∧ t'.b0.map (·.val) = some v.1.latch ∧ t'.b1.map (·.val) = t.b0.map (·.val))
      ∧ (t.guard (shape i).g = false → t'.g = t.g ∧ t'.fpsr = t.fpsr ∧ t'.lfsr = t.lfsr
        ∧ t'.b0.map (·.val) = t.b0.map (·.val) ∧ t'.b1.map (·.val) = t.b1.map (·.val))
      ∧ t'.pc = t.pc + BitVec.ofNat 64 (shape i).len
      ∧ t' = { t with
          g := t'.g, fpsr := t'.fpsr, lfsr := t'.lfsr, b0 := t'.b0, b1 := t'.b1, chain := t'.chain, pend := none, wait := .none,
          bulk := none, mrun := none, barArr := false, pc := t'.pc, age := t'.age, since := t'.since }
      ∧ ((∀ u op, u ≠ s.cur → InBlock s u → (s.thr u).wait = .lane op → op.kind ≠ .qntF4o ∧ op.kind ≠ .qntE4o) →
          s2 = { s with threads := s2.threads } ∧ ∀ u, ¬ InBlock s u → s2.thr u = s.thr u)

/-- One FP32 addition to nearest-even, with flags (R77). -/
def addNe (p q : Word × Word) : Word × Word :=
  let r := f32.add .ne p.1.toNat q.1.toNat
  (BitVec.ofNat 32 r.1, p.2 ||| q.2 ||| r.2)

/-- The tree of R77 over 2^k lanes from lane x on. -/
def addTree (v : Nat → Option (Word × Word)) : Nat → Nat → Option (Word × Word)
  | 0, x => v x
  | k + 1, x => match addTree v k x, addTree v k (x + 2 ^ k) with
    | some p, some q => some (addNe p q)
    | some p, none => some p
    | none, q => q

/-- A result that involves no addition (R77). -/
def quiet (a : Word) : Word × Word :=
  let x := f32.decode a.toNat
  if x.isNan then (0x7FC00000, if x.isSnan then 1 else 0) else (a, 0)

/-- A sum in the tree order of R77 of values at lanes. -/
def treeOf (vs : List (Nat × Word × Word)) : Word × Word :=
  match vs with
  | [] => (0, 0)
  | [v] => ((quiet v.2.1).1, (quiet v.2.1).2 ||| v.2.2)
  | _ => (addTree (fun x => (vs.find? (fun v => v.1 == x)).map (·.2)) 5 0).getD (0, 0)

/-- R75, R76, R77: results in the member at home lane `x` with operands `a` and `b`. -/
def laneValue (k : LaneKind) (ms : List Member) (x : Nat) (a b : Word) : Word × Word :=
  let from_ (y : Nat) : Word × Word := if y < 32 then ((peerAt ms y).getD a, 0) else (a, 0)
  let mask (f : Word → Bool) : Nat := ((List.range 32).map (fun y => if (peerAt ms y).any f then 2 ^ y else 0)).sum
  let n := b.toNat % 32
  match k with
  | .shflIdx => from_ n
  | .shflUp => if n ≤ x then from_ (x - n) else (a, 0)
  | .shflDn => from_ (x + n)
  | .shflXor => from_ (x ^^^ n)
  | .ballot => (w32 (mask (fun v => v != 0)), 0)
  | .matchV => (w32 (mask (fun v => v == a)), 0)
  | .anyV => (if ms.any (fun m => peerA m != 0) then 1 else 0, 0)
  | .allV => (if ms.all (fun m => peerA m != 0) then 1 else 0, 0)
  | .redAdd => (w32 ((ms.map (fun m => (peerA m).toNat)).sum), 0)
  | .redMin => (BitVec.ofInt 32 ((ms.map (fun m => (peerA m).toInt)).foldl min a.toInt), 0)
  | .redMax => (BitVec.ofInt 32 ((ms.map (fun m => (peerA m).toInt)).foldl max a.toInt), 0)
  | .redAnd => ((ms.map peerA).foldl (· &&& ·) 0xFFFFFFFF, 0)
  | .redOr => ((ms.map peerA).foldl (· ||| ·) 0, 0)
  | .redFadd => treeOf (ms.map (fun m => (m.lane, peerA m, 0)))
  | .scanAdd => (w32 (((List.range (x + 1)).map (fun y => ((peerAt ms y).getD 0).toNat)).sum), 0)
  | _ => match (List.range (x + 1)).filterMap (peerAt ms) with
    | [] => (0, 0)
    | [v] => quiet v
    | v :: vs => vs.foldl (fun r w => addNe r (w, 0)) (v, 0)

/-- The row of R165: the elements of the collective that are not MASK, with their lanes. -/
def rowOf (ms : List Member) : List (Nat × Word) :=
  (ms.map (fun m => (m.lane, peerA m))).filter (fun e => e.2 != 0xFF800001)

/-- exp(round_ne(a − m)) (R166). -/
def expTerm (t : Thread) (a m : Word) : Word × Word :=
  let d := f32.sub .ne a.toNat m.toNat
  let e := Sfn.exp.apply t 0 (w32 d.1)
  (w32 e.1, e.2 ||| d.2)

/-- R166, R167: the row statistics of a member with operands `a`, `b`, and the pair `m`, `z` of `smx.fin`. -/
def rowValue (k : LaneKind) (ms : List Member) (t : Thread) (a b m z : Word) : Word × Word :=
  let r := rowOf ms
  let nan := r.any (fun e => (f32.decode e.2.toNat).isNan)
  let snan := r.any (fun e => (f32.decode e.2.toNat).isSnan)
  let nanOf (x : Word) : Bool := (f32.decode x.toNat).isNan && x != 0xFF800001
  match k with
  | .rsMax => if nan then (0x7FC00000, if snan then 1 else 0) else match r with
    | [] => (0xFF800001, 0)
    | e :: es => (es.foldl (fun x q => w32 (pick f32 true x.toNat q.2.toNat).1) e.2, 0)
  | .rsSexp => treeOf (r.map (fun e => (e.1,
      if b = 0x7F800000 then (if e.2 = 0x7F800000 then 0x3F800000 else 0, 0) else expTerm t e.2 b)))
  | .rsMean => rowMean r
  | .rsDev => rowDev r b
  | .rsFin => rowFin t r.length a b
  | _ =>
    if m = 0xFF800001 ∧ z = 0 then (0, 32)
    else if a = 0xFF800001 then (0, 0)
    else if nanOf m || nanOf z then (0x7FC00000, if (f32.decode m.toNat).isSnan || (f32.decode z.toNat).isSnan then 1 else 0)
    else if m = 0x7F800000 then (if a = 0x7F800000 then fdiv 0x3F800000 z else (0, 0))
    else ((fdiv (expTerm t a m).1 z).1, (fdiv (expTerm t a m).1 z).2 ||| (expTerm t a m).2)

/-- R154: the scales of the block of lane `x`; none where lane 4j holds no active member or a scale is 0xFF. -/
def vmxScaleOf (ms : List Member) (f : FV) (x : Nat) : Option (Nat × Nat) :=
  if f.s = 62 then some (127, 127)
  else match ms.find? (fun m => m.lane == x / 4 * 4) with
    | none => none
    | some h =>
      let v := (h.t.src32 h.op.lit h.op.e).toNat
      let byte (n : Nat) : Nat := v / 256 ^ n % 256
      let sc := if f.k = 0 then (byte 0, byte 1) else if f.k = 1 then (byte 2, byte 3) else if f.k = 2 then (byte 0, 127) else (byte 2, 127)
      if sc.1 = 255 ∨ sc.2 = 255 then none else some sc

/-- R154: a member's product, scaled and accumulated with one rounding. -/
def vmxOf (fm : Fmt) (ms : List Member) (s : State) (f : FV) : Nat × Word :=
  let t := me s
  match vmxScaleOf ms f (t.slot % 32) with
  | none => (0x7FC00000, 1)
  | some (sa, sb) =>
    let codes (v : BitVec 6) (i : Nat) : Fp := fm.decode
      ((if fm.width = 4 then (t.src32 f.lit v).toNat else (t.src64 f.lit v).toNat) / 2 ^ (fm.width * i) % 2 ^ fm.width)
    let m := rmAt t 0
    let ps := (List.range 8).map (fun i => Fp.mul (codes f.a i) (codes f.b i))
    let p := Fp.sum m.down (ps.headD (.fin false 0 0, false)).1 (ps.tail.map (·.1))
    let z := Fp.add m.down (p.1.scale ((sa : Int) - 127 + ((sb : Int) - 127))) (f32.decode (t.old32 f.d).toNat)
    f32.finish m (z.1, ps.any (·.2) || p.2 || z.2)

/-- R155: the scale of the block of lane `x` of a quantiser with B operand field `b`. -/
def qntScale (ms : List Member) (b : BitVec 6) (x : Nat) : Nat :=
  if b = 62 then 127 else ((ms.find? (fun m => m.lane == x / 4 * 4)).map (fun h => (h.t.src32 h.op.lit h.op.b).toNat % 256)).getD 255

/-- R155: element i of a quantiser: its code and flags. -/
def qntElem (ms : List Member) (n : Nf) (s : State) (f : FA) (i : Nat) : Nat × Word :=
  let t := me s
  let sc := qntScale ms f.b (t.slot % 32)
  if sc = 255 then (n.invalid, 65)
  else
    let r := n.convert (t.fpcr.getLsbD 3) (rmAt t i) ((f32.decode (t.g.get (f.a.toNat + i)).toNat).scale (127 - (sc : Int)))
    (r.1, r.2.1 ||| (if r.2.2 then 64 else 0))

/-- R155: a quantiser's eight codes in a register or a pair. -/
def codesRes (n : Nf) (f : FA) (v : Nat) : Res := if n.width = 4 then .word f.nw f.d (w32 v) else .pair f.nw f.d (BitVec.ofNat 64 v)

/-- The lane forms by format, with their kinds. -/
noncomputable def laneWordsA : List ((FA → Instr) × LaneKind) := [
  (.shflIdx, .shflIdx), (.shflUp, .shflUp), (.shflDn, .shflDn), (.shflXor, .shflXor)]
noncomputable def laneWordsU : List ((FU → Instr) × LaneKind) := [
  (.ballot, .ballot), (.laneMatch, .matchV), (.laneAny, .anyV), (.laneAll, .allV), (.redAdd, .redAdd), (.redMin, .redMin), (.redMax, .redMax),
  (.redAnd, .redAnd), (.redOr, .redOr), (.redFadd, .redFadd), (.scanAdd, .scanAdd), (.scanFadd, .scanFadd)]
noncomputable def rowWords : List ((FA → Instr) × LaneKind) := [
  (.rsMax, .rsMax), (.rsSexp, .rsSexp), (.rsMean, .rsMean), (.rsDev, .rsDev), (.rsFin, .rsFin), (.smxFin, .smxFin)]

/-! ### Events -/

/-- The event leaves the state `s'`. -/
def Gives (s : State) (i : Instr) (s' : State) : Prop := exec i s = .next s'

/-- Thread `u` of a state, changed and ready to issue from now on. -/
def wakeTo (s : State) (u : Nat) (f : Thread → Thread) : State := s.modThr u (fun t => { f t with wait := .none, age := s.time })

/-- A thread whose breaker has completed: it goes on at `pc` with invalid latches (R37). -/
def goOn (t : Thread) (pc : DWord) : Thread :=
  { t with pc := pc, wait := .none, pend := none, bulk := none, mrun := none, barArr := false, b0 := none, b1 := none, chain := none }

/-- A live thread whose plot is resident. -/
def LiveHere (s : State) (u : Nat) : Prop := (s.thr u).live = true ∧ (s.plots.get (s.thr u).plot).resident = true

/-- A live, resident plot. -/
def PlotHere (s : State) (p : Nat) : Prop := (s.plots.get p).live = true ∧ (s.plots.get p).resident = true

/-- The fault of a plot's sequencer at its present word (R170). -/
def seqStopped (s : State) (p code : Nat) : State :=
  ({ s with remGot := s.remGot.filter (fun r => r.key != AccId.seqRead p) }.post (dieOf (s.plots.get p).core)
    ⟨.fault, cadenceRecord { s with curPlot := p } code 0 0, [p, code]⟩).modSeq p
    (fun q => { q with faulted := true, wait := .none })

/-- What the release of a spawn bin does with one child (R226): it starts at the entry, in a free slot, with its number and argument. -/
def Started (s s' : State) (p : Nat) (entry : DWord) (k : Child) : Prop :=
  ∃ u, s.nextThread ≤ u ∧ u < s'.nextThread ∧ (s'.thr u).live = true ∧ (s'.thr u).plot = p ∧ (s'.thr u).pc = entry ∧ (s'.thr u).tid = k.tid
    ∧ (s'.thr u).spawnArg = k.arg ∧ (s'.thr u).lfsr = k.tid + 1 ∧ (s'.thr u).wait = .none

/-- The launch has left the queues of its home die. -/
def unqueued (s : State) (k : Nat) : State :=
  let l := s.launches.get k
  (s.modDie l.home (fun d => { d with ingress := d.ingress.filter (· != k), internal := d.internal.filter (· != k) })).holdDesc l.home l.ctx


/-! ### Events of memory and of transfers -/

/-- Whether `pa` lies in a line that the `n` bytes from `a` on touch. -/
def touches (a n pa : Nat) : Prop := a / 128 ≤ pa / 128 ∧ pa / 128 ≤ (a + n - 1) / 128

/-- `s'` reads `bs` in device memory from `pa` on under key slot `key`, and every other byte as `s` does: those of other lines under every
slot, and those of its lines under `key` (R290, R292). -/
def DevStored (s s' : State) (pa key : Nat) (bs : List Byte) : Prop :=
  s'.devRead pa key bs.length = bs
  ∧ ∀ a j, (¬ touches pa bs.length a ∨ (j = key ∧ (a < pa ∨ pa + bs.length ≤ a))) →
    s'.devByte a j = s.devByte a j

/-- The home performs a write of `bs` at `l` for plot `p`: device memory, host memory or the plot's scratchpad (R106, R256). -/
def HomeStored (s s' : State) (p : Nat) (l : Loc) (bs : List Byte) : Prop :=
  match l with
  | .dev pa key => DevStored s s' pa key bs ∧ s'.hostMem = s.hostMem ∧ s'.plots = s.plots
  | .host a => (∀ k, s'.hostMem.get k = if a ≤ k ∧ k < a + bs.length then bs.getD (k - a) 0 else s.hostMem.get k) ∧ s'.mem = s.mem
      ∧ s'.plots = s.plots
  | .scr o => ScratchWritten s s' p o bs ∧ s'.mem = s.mem ∧ s'.hostMem = s.hostMem
  | _ => False

/-- The location is one whose home holds plain bytes. -/
def plainHome : Loc → Bool
  | .dev _ _ | .host _ | .scr _ => true
  | _ => false

/-- A thread without the held access `h`, whose completion times include now (R110). -/
def performed (t : Thread) (h : Held) (now : Nat) : Thread :=
  let t := { t with stores := t.stores.filter (· != h) }
  match h.loc with
  | .scr _ | .dev _ _ | .host _ | .reg _ => t.raiseTimes h.loc now
  | _ => t

/-- Count in a barrier object (R122). -/
def objLeft (s : State) (p off : Nat) : Nat := leNat (Memory.read (s.plots.get p).scratch off 8) % 2 ^ 48

/-- The n bytes at `va` lie in the scratchpad of plot `p` from offset `o` on. -/
def ScratchAt (s : State) (p : Nat) (va : DWord) (n o : Nat) : Prop :=
  va.toNat = 2 ^ 60 + o ∧ 0 < n ∧ o + n ≤ (s.plots.get p).scratchLen ∧ o + n ≤ 2 ^ 60

/-- No line that the n bytes from offset `o` of the scratchpad of plot `p` touch holds an uncorrectable error (R97, R423). -/
def CleanAt (s : State) (p n o : Nat) : Prop := ∀ l, o / 128 ≤ l → l ≤ (o + n - 1) / 128 → (s.plots.get p).badScr.get l = false

/-- Access `k` is the first that waits at each line of the `n` bytes at `l`, and the leases of those lines have ended (R266). -/
def IsFirst (s : State) (k : AccId) (l : Loc) (n : Nat) : Prop := (s.homesTry k [(l, n)]).2 = true

/-- Bytes of the scratchpad of plot `p`. -/
def scr (s : State) (p o n : Nat) : List Byte := Memory.read (s.plots.get p).scratch o n

/-- The scratchpad of plot `p` holds `bs` from offset `o` on, and elsewhere what it held. -/
def ScrHas (s s' : State) (p o : Nat) (bs : List Byte) : Prop :=
  ∀ a, (s'.plots.get p).scratch.get a = if o ≤ a ∧ a < o + bs.length then bs.getD (a - o) 0 else (s.plots.get p).scratch.get a

/-! ### Events of the Trellis -/

/-- The tokens under way on core `c`, and its operands. -/
def toksOf (s : State) (c : Nat) : List Tok := (s.grids.get c).toks

/-- The configuration that an event names. -/
def named (s : State) (c h : Nat) : Option Cfg := (s.grids.get c).cfgNamed h

/-- The token `t` is the one of core `c` that arrives next at its place, and belongs to the configuration `q`. -/
def Arrives (s : State) (c n : Nat) (t : Tok) (q : Cfg) : Prop :=
  s.gridRuns c = true ∧ (s.grids.get c).nextTok n = some t ∧ (s.grids.get c).cfgs.find? (fun q => !q.captured && q.owns t) = some q
    ∧ q.stage ≠ .clearing

/-- A captured peloton that holds colour `col` of core `c`, whose Trellis runs. -/
def PelHere (s : State) (c col : Nat) : Prop := s.gridRuns c = true ∧ (s.pel (s.pelAt c col)).live = true ∧ (s.pel (s.pelAt c col)).core = c

/-! ### Events of the package -/

/-- A packet that this package takes in (R407). -/
def Comes (s : State) (typ : Nat) (q : Packet) : Prop := s.takes typ q = true ∧ q.rsvd = false

/-- The state after a packet has come through its link: no replays in a row (R409). -/
def received (s : State) (q : Packet) : State := s.modLink (s.backLink q) (fun l => { l with replays := 0 })

/-- The answer to a packet (R407): its own context, tag, offset, size, operation and class. -/
def answerTo (q : Packet) (typ reason : Nat) (data : List Byte) : Packet :=
  { packetTo typ q.src q.ctx q.tag q.offset q.size q.aop data with cls := q.cls, reason := reason }

/-- The request that an answer names. -/
def requestOf (s : State) (q : Packet) : Option RemReq := s.remReqs.find? (fun r => r.tag == q.tag && r.pkg == q.src)

/-! ### Words and steps -/

/-- The stream in which an instruction stands (R41, R42, R45). -/
noncomputable def streamIn : Instr → Stream
  | .calloc _ | .pack _ _ | .unpack _ | .merge _ _ | .steer _ | .redCfg _ | .agen _ | .isect _ _ | .unionCoord _ _ | .eos _ | .emit _ _
  | .wadapt _ => .trellis
  | .mmaBf16 _ | .mmaF16 _ | .mmaE4m3 _ | .mmaE5m2 _ | .mmaMxe4 _ | .mmaMxe5 _ | .mmaMxf6 _ | .mmaMxf4 _ | .mmaI8 _ | .mmaI4 _
  | .mmaBf16T _ | .tld _ | .tstRaw _ | .tstBf16 _ | .tstF16 _ | .tstE4m3 _ | .tstE5m2 _ | .tzT _ | .tzA _ | .tsetW _ _ | .tsetH _ _
  | .tsetC _ _ | .tsetEsc _ _ | .kadd _ _ _ | .ksub _ _ _ | .kmul _ _ _ | .kand _ _ _ | .kor _ _ _ | .kshl _ _ _ | .kshr _ _ _
  | .kmov _ _ | .kaddi _ _ | .kmovi _ _ | .krep _ _ | .kbnz _ _ | .kend | .cadNbarArr _ | .cadNbarWt _ | .cend | .olClr _ | .olLim _ _ =>
    .cadence
  | _ => .thread

/-- The state in which the turn of thread `u` runs, `rest` being what stays on the agenda: unless its instruction is a member of a chain that
has begun, it is one that the thread issues alone (R39). -/
def threadTurn (s : State) (u : Nat) (rest : List Turn) : State :=
  let s0 := { s with agenda := rest, counted := [] }
  { (if s0.chainNext u then s0 else s0.modThr u (fun t => { t with packed := [u] })) with cur := u }

end Sys2Proof.Stmt

open Sys2Proof Sys2Proof.Machine Sys2Proof.Stmt

/-- R63: results of the ALU, shift and min/max instructions, with what each leaves unchanged and the words that code them; `mov` of R66
too. -/
def Obligations.AluResults : Prop :=
  (∀ e ∈ aluBin, ∀ (f : FA) (s : State), s.Runs (shape (e.1 f)) →
    Plain s (e.1 f) (.word f.nw f.d (e.2 ((s.thr s.cur).src32 f.lit f.a) ((s.thr s.cur).src32 f.lit f.b))))
  ∧ (∀ e ∈ aluUn, ∀ (f : FU) (s : State), s.Runs (shape (e.1 f)) →
    Plain s (e.1 f) (.word f.nw f.d (e.2 ((s.thr s.cur).src32 f.lit f.a))))
  ∧ (∀ e ∈ aluBin.zip aluBinCodes, CodedA e.1.1 e.2.1 e.2.2) ∧ ∀ e ∈ aluUn.zip aluUnCodes, CodedU e.1.1 e.2.1 e.2.2

/-- R64, R65: products, quotients and remainders with the fixed edge cases, `mad` adding the old D; 64-bit arithmetic on register pairs;
the words that code them, of which an odd pair field raises ILLEGAL.FIELD. -/
def Obligations.MulDivAndPairResults : Prop :=
  ((∀ e ∈ mulBin, ∀ (f : FA) (s : State), s.Runs (shape (e.1 f)) →
    Plain s (e.1 f) (.word f.nw f.d (e.2 ((s.thr s.cur).src32 f.lit f.a) ((s.thr s.cur).src32 f.lit f.b))))
  ∧ ∀ (f : FA) (s : State), s.Runs (shape (.mad f)) →
    Plain s (.mad f) (.word f.nw f.d (BitVec.ofNat 32
      (((s.thr s.cur).src32 f.lit f.a).toNat * ((s.thr s.cur).src32 f.lit f.b).toNat + ((s.thr s.cur).old32 f.d).toNat))))
  ∧ (∀ e ∈ pairOps, ∀ (f : FA) (s : State), s.Runs (shape (e.1 f)) → Plain s (e.1 f) (.pair f.nw f.d (e.2 (s.thr s.cur) f)))
  ∧ (∀ e ∈ mulBin.zip [0, 1, 2, 4, 5, 6, 7], CodedA e.1.1 3 e.2) ∧ CodedA .mad 3 3 ∧ (∀ e ∈ pairOps.zip (List.range 8), CodedA e.1.1 4 e.2)
  ∧ ∀ w l : Word, majorOf w = 4 → w.extractLsb' 22 4 ≠ 15 →
    let odd (k : Nat) : Prop := (w.extractLsb' k 6).toNat < 60 ∧ w.getLsbD k = true
    w.getLsbD 3 = false ∧ odd 16 ∨ fnOf w ≠ 3 ∧ fnOf w ≠ 4 ∧ odd 10 ∨ fnOf w ≤ 2 ∧ odd 4 → decodeIn .thread w l = .error .field

/-- From R66 to R68: bit fields, addresses and the immediate forms, `cmpi` apart. -/
def Obligations.FieldAddressAndImmediateResults : Prop :=
  ((∀ (f : FA) (s : State), s.Runs (shape (.bfxU f)) →
    Plain s (.bfxU f) (.word f.nw f.d (BitVec.ofNat 32 (fieldOf ((s.thr s.cur).src32 f.lit f.a) ((s.thr s.cur).src32 f.lit f.b)))))
  ∧ (∀ (f : FA) (s : State), s.Runs (shape (.bfxS f)) →
    Plain s (.bfxS f) (.word f.nw f.d (BitVec.ofInt 32 (sfieldOf ((s.thr s.cur).src32 f.lit f.a) ((s.thr s.cur).src32 f.lit f.b)))))
  ∧ (∀ (f : FA) (s : State), s.Runs (shape (.bfi f)) →
    ∃ v, Plain s (.bfi f) (.word f.nw f.d v) ∧ ∀ k, k < 32 → v.getLsbD k =
      insertField ((s.thr s.cur).old32 f.d) ((s.thr s.cur).src32 f.lit f.a) ((s.thr s.cur).src32 f.lit f.b) k)
  ∧ ∀ e ∈ leaOps, ∀ (f : FA) (s : State), s.Runs (shape (e.1 f)) →
    Plain s (e.1 f) (.pair f.nw f.d ((s.thr s.cur).src64 f.lit f.a
      + BitVec.ofInt 64 (((s.thr s.cur).src32 f.lit f.b).toInt * e.2))))
  ∧ ((∀ e ∈ immOps, ∀ (f : FI) (s : State), s.Runs (shape (e.1 f)) →
    Plain s (e.1 f) (.word false f.d (e.2 ((s.thr s.cur).src32 f.lit f.a) (BitVec.ofInt 32 f.i.toInt))))
  ∧ (∀ e ∈ shiftImmOps, ∀ (f : FSh) (s : State), s.Runs (shape (e.1 f)) →
    Plain s (e.1 f) (.word false f.d (e.2 ((s.thr s.cur).src32 f.lit f.a) f.n.toNat)))
  ∧ (∀ (f : FMv) (s : State), s.Runs (shape (.movi f)) → Plain s (.movi f) (.word false f.d (BitVec.ofInt 32 f.i.toInt)))
  ∧ ∀ (f : FMv) (s : State), s.Runs (shape (.movhi f)) →
    Plain s (.movhi f) (.word false f.d (BitVec.ofNat 32 (f.i.toNat * 65536 + ((s.thr s.cur).old32 f.d).toNat % 65536))))

/-- R69, and `cmpi` of R67: one predicate is written. R146: FP32 compares write one predicate and raise `nv` as the
table says. The words that code both are stated too. -/
def Obligations.CompareAndFloatCompareResults : Prop :=
  ((∀ e ∈ cmpOps, ∀ (f : FP) (s : State), s.Runs (shape (e.1 f)) →
    Plain s (e.1 f) (.pred f.nw f.p (e.2 ((s.thr s.cur).src32 f.lit f.a) ((s.thr s.cur).src32 f.lit f.b))))
  ∧ ∀ e ∈ cmpiOps, ∀ (f : FCi) (s : State), s.Runs (shape (e.1 f)) →
    Plain s (e.1 f) (.pred false f.p (e.2 ((s.thr s.cur).src32 f.lit f.a) (BitVec.ofInt 32 f.i.toInt))))
  ∧ (∀ e ∈ fcmpOps, ∀ (f : FP) (s : State), s.Runs (shape (e.1 f)) →
    let x := f32.decode ((s.thr s.cur).src32 f.lit f.a).toNat
    let y := f32.decode ((s.thr s.cur).src32 f.lit f.b).toNat
    let nv := x.isSnan || y.isSnan || (e.2.2 && (x.isNan || y.isNan))
    Rounds s (e.1 f) (.pred f.nw f.p (e.2.1 x y)) (if nv then 1 else 0) 0)
  ∧ (∀ e ∈ cmpOps.zip (List.range 8), CodedP e.1.1 5 e.2) ∧ ∀ e ∈ fcmpOps.zip (List.range 8), CodedP e.1.1 0x12 e.2

/-- From R144, R145, R148: FP32 results with one rounding, and the forms that move bits or pick an operand. R145, R149: packed halves, half 0
rounded first, with the union of their flags. -/
def Obligations.FloatAndPackedResults : Prop :=
  ((∀ e ∈ fpOps, ∀ (f : FA) (s : State), s.Runs (shape (e.1 f)) →
    let v := e.2 (rmAt (s.thr s.cur) 0) (opA s f) (opB s f) (opD s f)
    Rounds s (e.1 f) (.word f.nw f.d (w32 v.1)) v.2 1)
  ∧ (∀ e ∈ fpMoves, ∀ (f : FU) (s : State), s.Runs (shape (e.1 f)) →
    Plain s (e.1 f) (.word f.nw f.d (e.2 ((s.thr s.cur).src32 f.lit f.a))))
  ∧ (∀ (f : FA) (s : State), s.Runs (shape (.fcpsgn f)) →
    Plain s (.fcpsgn f) (.word f.nw f.d (w32 (opA s f % 2 ^ 31 + opB s f / 2 ^ 31 * 2 ^ 31))))
  ∧ (∀ (f : FA) (s : State), s.Runs (shape (.fmin f)) →
    Rounds s (.fmin f) (.word f.nw f.d (w32 (pick f32 false (opA s f) (opB s f)).1)) (pick f32 false (opA s f) (opB s f)).2 0)
  ∧ ∀ (f : FA) (s : State), s.Runs (shape (.fmax f)) →
    Rounds s (.fmax f) (.word f.nw f.d (w32 (pick f32 true (opA s f) (opB s f)).1)) (pick f32 true (opA s f) (opB s f)).2 0)
  ∧ ((∀ e ∈ halfOps, ∀ (f : FA) (s : State), s.Runs (shape (e.1 f)) →
    let v (k : Nat) := e.2 (rmAt (s.thr s.cur) k) (halfOf (opA s f) k) (halfOf (opB s f) k) (halfOf (opD s f) k)
    Rounds s (e.1 f) (.word f.nw f.d (w32 ((v 0).1 + 65536 * (v 1).1))) ((v 0).2 ||| (v 1).2) 2)
  ∧ ∀ e ∈ halfPicks, ∀ (f : FA) (s : State), s.Runs (shape (e.1 f)) →
    let v (k : Nat) := pick e.2.1 e.2.2 (halfOf (opA s f) k) (halfOf (opB s f) k)
    Rounds s (e.1 f) (.word f.nw f.d (w32 ((v 0).1 + 65536 * (v 1).1))) ((v 0).2 ||| (v 1).2) 0)

/-- From R147, R148: conversions and the remaining unary forms. -/
def Obligations.ConversionResults : Prop :=
  (∀ e ∈ cvtOps, ∀ (f : FU) (s : State), s.Runs (shape (e.1 f)) →
    let v := e.2.2 (rmAt (s.thr s.cur) 0) ((s.thr s.cur).src32 f.lit f.a).toNat
    Rounds s (e.1 f) (.word f.nw f.d (w32 v.1)) v.2 e.2.1)
  ∧ ∀ e ∈ fmscOps, ∀ (f : FU) (s : State), s.Runs (shape (e.1 f)) →
    let v := e.2 ((s.thr s.cur).src32 f.lit f.a).toNat
    Rounds s (e.1 f) (.word f.nw f.d (w32 v.1)) v.2 0

/-- From R151, R152: narrow packs and unpacks, element by element in ascending order. R153: dot products. -/
def Obligations.NarrowPackAndDotResults : Prop :=
  ((∀ e ∈ npkOps, ∀ (f : FA) (s : State), s.Runs (shape (e.1 f)) → (e.1 f).wellFormed = true →
    Rounds s (e.1 f) (.word f.nw f.d (w32 ((List.range e.2.2).map (fun i => (npkElem s e.2.1 f i).1 * 2 ^ (e.2.1.width * i))).sum))
      (unionFlags (npkElem s e.2.1 f) e.2.2) (e.2.2))
  ∧ ∀ e ∈ nupOps, ∀ (f : FA) (s : State), s.Runs (shape (e.1 f)) → (e.1 f).wellFormed = true →
    let h (i : Nat) : Nat := if i < e.2.2 then (nupElem s e.2.1 f i).1 else 0
    Rounds s (e.1 f) (.words f.nw f.d ((List.range ((e.2.2 + 1) / 2)).map (fun r => w32 (h (2 * r) + 65536 * h (2 * r + 1)))))
      (unionFlags (nupElem s e.2.1 f) e.2.2) (e.2.2))
  ∧ ((∀ e ∈ dotOps, ∀ (f : FA) (s : State), s.Runs (shape (e.1 f)) →
    let v := dotValue e.2.1 e.2.2 (rmAt (s.thr s.cur) 0) (opA s f) (opB s f) (opD s f)
    Rounds s (e.1 f) (.word f.nw f.d (w32 v.1)) v.2 1)
  ∧ (∀ e ∈ idotOps, ∀ (f : FA) (s : State), s.Runs (shape (e.1 f)) →
    Plain s (e.1 f) (.word f.nw f.d (BitVec.ofInt 32 ((w32 (opD s f)).toInt
      + ((List.range e.2.2).map (fun i => sfield (opA s f) e.2.1 i * sfield (opB s f) e.2.1 i)).sum))))
  ∧ ∀ (f : FA) (s : State), s.Runs (shape (.dot2B2f f)) →
    let flush (fm : Fmt) (c : Nat) : Nat := if c / 2 ^ fm.mb % 2 ^ fm.eb = 0 then c / 2 ^ (fm.eb + fm.mb) * 2 ^ (fm.eb + fm.mb) else c
    let h (x k : Nat) : Nat := flush bf16 (halfOf x k)
    let v := dotValue bf16 2 .ne (h (opA s f) 0 + 65536 * h (opA s f) 1) (h (opB s f) 0 + 65536 * h (opB s f) 1) (flush f32 (opD s f))
    Rounds s (.dot2B2f f) (.word f.nw f.d (w32 (flush f32 v.1))) (v.2 &&& 1) 0)

/-- From R159, R160, R165: block scales, KC2 weights and the MASK code. -/
def Obligations.ScaleAndCodebookResults : Prop :=
  (∀ (f : FA) (s : State), s.Runs (shape (.scl f)) →
    let emax : Nat → Int := fun t => [2, 8, 15, 4, 2, 6, 2].getD t 0
    let v : Nat := match f32.decode (opA s f) with
      | .fin _ m e => if m = 0 then 127 else (max 0 (min 254 (e + Nat.log2 m - emax (opB s f) + 127))).toNat
      | _ => 255
    Rounds s (.scl f) (.word f.nw f.d (w32 (if 7 ≤ opB s f then 255 else v)))
      (if 7 ≤ opB s f ∨ (f32.decode (opA s f)).isSnan = true then 1 else 0) 0)
  ∧ (∀ (f : FA) (s : State), s.Runs (shape (.mask f)) →
    Plain s (.mask f) (.word f.nw f.d (if (s.thr s.cur).src32 f.lit f.b ≠ 0 then 0xFF800001 else (s.thr s.cur).src32 f.lit f.a)))
  ∧ ∀ e ∈ [(Instr.kc2DecLo, 0), (Instr.kc2DecHi, 1)], ∀ (f : FU) (s : State), s.Runs (shape (e.1 f)) →
    let t := s.thr s.cur
    let x := halfOf (t.src32 f.lit f.a).toNat e.2
    let c := ((s.cores.get (s.coreOf t)).codebooks.get t.ctx).get (x / 256)
    Plain s (e.1 f) (.word f.nw f.d (if x = 0xFFFF then 0x88888888
      else w32 ((List.range 8).map (fun i => kc2 c x i * 16 ^ i)).sum))

/-- From R162, R163: special functions and the table complete for every operand, and draw nothing. In FP32 the special values are those of R162,
a negative number outside the domain gives a NaN with `nv`, and every other result is the exact value rounded to one of its two
neighbours, where which one is the model's free choice (DESIGN CHOICE, notes/assumptions/8.md). In the other formats the exact value is
rounded once; a result of ±0 or ±1 counts as exact (DEDUCED, notes/assumptions/11.md). A NaN gives the format's NaN. -/
def Obligations.SpecialFunctionResults : Prop :=
  (∀ e ∈ sfnOps, ∀ (f : FSf) (s : State), s.Runs (shape (e.1 f)) →
    let t := s.thr s.cur
    let a := t.src32 f.lit f.a
    let code := f.f.toNat
    let x := sfArg code a
    let r := e.2.eval x
    let gives (v : Nat) (fl : Word) : Prop := Rounds s (e.1 f) (.word f.nw f.d (w32 v)) fl 0
    (∀ q ∈ sfnSpecial, q.1 = e.2 → code = 0 → a = q.2.1 → gives q.2.2.1.toNat q.2.2.2)
    ∧ (e.2 ∈ sfnDomain → code = 0 → 0x80000000 < a.toNat → a.toNat ≤ 0xFF800000 → gives 0x7FC00000 1)
    ∧ (x.isNan = true → gives (sfNan code)
        (if code ≤ 2 then (if x.isSnan then 1 else 0) else if t.fpcr.getLsbD 3 then 1 else 65))
    ∧ (code = 0 → let v := e.2.apply t 0 a
        gives v.1 v.2 ∧ v.1 ∈ [(f32.round .ne r.1).1, (f32.round .dn r.1).1, (f32.round .up r.1).1])
    ∧ (code ≠ 0 → let v := sfRound t code r.1
        let one := if code = 1 then 0x3C00 else if code = 2 then 0x3F80 else if code = 3 then 0x38 else 0x3C
        let mag := v.1 % 2 ^ (if code ≤ 2 then 15 else 7)
        gives v.1 ((if mag = 0 ∨ mag = one then v.2 &&& ~~~24 else v.2) ||| r.2)))
  ∧ ∀ (f : FSf) (s : State), s.Runs (shape (.tbl f)) →
    let t := s.thr s.cur
    let code := f.f.toNat
    let y := tblValue (s.cores.get (s.coreOf t)).tblAct (sfArg code (t.src32 f.lit f.a))
    let v := if code = 0 then y else ((sfRound t code (f32.decode y.1)).1, (sfRound t code (f32.decode y.1)).2 ||| y.2)
    Rounds s (.tbl f) (.word f.nw f.d (w32 v.1)) v.2 0

/-- From R29, R35 to R40, R216: what stands before every thread word's own effect. An operand that has not returned leaves the thread as it
is; a latch that is not valid, a chain of more than four, and a lack of privilege raise ILLEGAL.FIELD; under a false guard the thread only
goes on, with its latches as R37 says. -/
def Obligations.ThreadWordChecks : Prop :=
  ∀ (i : Instr) (s : State), plainWord i = true → (me s).live = true →
    let sh := shape i
    ((me s).hazard sh = true → exec i s = .next s)
    ∧ ((me s).hazard sh = false →
      ((me s).badLatch sh = true → Faults s i 2 0)
      ∧ (∀ c, (me s).badLatch sh = false → (me s).nextChain sh = some c → 4 < c.len → Faults s i 2 0)
      ∧ ((me s).badLatch sh = false → (∀ c, (me s).nextChain sh = some c → c.len ≤ 4) → s.privOf (me s) < sh.priv → Faults s i 2 0))
    ∧ (s.Issues sh → (me s).guard sh.g = false →
      exec i s = .next (withMe s { me s with
        b0 := if sh.producer then (me s).b0.map Latch.older else none, b1 := if sh.producer then (me s).b1.map Latch.older else none,
        chain := if sh.producer then (me s).nextChain sh else none,
        pend := none, wait := .none, bulk := none, mrun := none, barArr := false, pc := nextPc s i }))

/-- From R79 to R83: branches, calls and returns with their targets' check, the push and the pop, on chip and with a spill or fill. -/
def Obligations.ControlTransfers : Prop :=
  (∀ (f : FJ) (s : State), s.Runs (shape (.br f)) →
    let v := (me s).pc + BitVec.ofInt 64 (4 * f.o.toInt)
    (¬ inWindow0 v → Faults s (.br f) 3 v)
    ∧ (inWindow0 v → (me s).pc.toNat < v.toNat → Jumps s (.br f) s v))
  ∧ (∀ (f : FA1) (s : State), s.Runs (shape (.brx f)) →
    let v := (me s).src64 f.lit f.a &&& ~~~3
    (¬ inWindow0 v → Faults s (.brx f) 3 v) ∧ (inWindow0 v → Jumps s (.brx f) s v))
  ∧ (∀ (i : Instr) (v : DWord) (s : State), s.Runs (shape i) →
    ((∃ f, i = .call f ∧ v = (me s).pc + BitVec.ofInt 64 (4 * f.o.toInt)) ∨ ∃ f, i = .callx f ∧ v = (me s).src64 f.lit f.a &&& ~~~3) →
    (¬ inWindow0 v → Faults s i 3 v)
    ∧ (inWindow0 v → (me s).cs.length < 4 → Jumps s i (withMe s { me s with cs := nextPc s i :: (me s).cs }) v)
    ∧ ∀ a b c d, inWindow0 v → (me s).cs = [d, c, b, a] →
      ((me s).csSp = 8192 → Faults s i 3 ((me s).sbase + 65536))
      ∧ ∀ s1 s2, (me s).csSp ≠ 8192 →
        let va := (me s).sbase + BitVec.ofNat 64 (8 * (me s).csSp)
        s.startStore s.cur va (leBytes 8 a.toNat) true = .done s1 → s1.startStore s.cur (va + 8) (leBytes 8 b.toNat) true = .done s2 →
        Jumps s i (s2.modThr s.cur (fun t => { t with cs := [nextPc s i, d, c], csSp := t.csSp + 2 })) v)
  ∧ (∀ (f : FG) (s : State), s.Runs (shape (.ret f)) →
    (∀ v r, (me s).cs = v :: r → inWindow0 (v &&& ~~~3) → Jumps s (.ret f) (withMe s { me s with cs := r }) (v &&& ~~~3))
    ∧ (∀ bs, (me s).cs = [] → (me s).csSp ≠ 0 → (me s).bulk = some bs → inWindow0 (BitVec.ofNat 64 (leNat (bs.drop 8)) &&& ~~~3) →
      Jumps s (.ret f) (withMe s { me s with cs := [BitVec.ofNat 64 (leNat (bs.take 8))], csSp := (me s).csSp - 2 })
        (BitVec.ofNat 64 (leNat (bs.drop 8)) &&& ~~~3))
    ∧ ((me s).cs = [] → (me s).csSp = 0 → Ends s (.ret f)))
  ∧ ∀ (f : FG) (s : State), s.Runs (shape (.exit f)) → Ends s (.exit f)

/-- From R295, R296: a taken backward branch of a loop that is neither captured nor recorded, and whose count stays below `hotthr`, is counted
once for its issue and taken. -/
def Obligations.BackwardBranches : Prop :=
  ∀ (f : FJ) (s : State), s.Runs (shape (.br f)) →
    let t := me s
    let v := t.pc + BitVec.ofInt 64 (4 * f.o.toInt)
    let core := (s.plots.get t.plot).core
    let n := (s.cores.get core).hotCount t.ctx v
    inWindow0 v → v.toNat ≤ t.pc.toNat → core < 1280 →
    (s.counted.contains (t.ctx, v)) = false → (s.grids.get core).captureOf t.ctx v = none →
    ((s.cores.get core).failed.contains (t.ctx, v)) = false →
    (s.bodies.any (fun b => b.core == core && b.ctx == t.ctx && b.head == v)) = false →
    min (n + 1) 65535 < (64 + (s.ctxs.get t.ctx).hotthrOff).toNat →
    ∃ c', c'.hotCount t.ctx v = min (n + 1) 65535
      ∧ Jumps s (.br f) { s.modThr s.cur (fun t => { t with hotHead := some v }) with
          cores := s.cores.set core c', counted := s.counted ++ [(t.ctx, v)] } v

/-- From R81, R86, R87: `yield`, `sleep`, `nop`, `hot`, `nocap` and `capok`. R134: `wfi` and `halt` at their privileges, and `vdhop`. -/
def Obligations.YieldSleepHintsAndSystemWords : Prop :=
  ((∀ (f : FG) (s : State), s.Runs (shape (.nop f)) → Does s (.nop f) s)
  ∧ (∀ (f : FG) (s : State), s.Runs (shape (.yield f)) → Does s (.yield f) (withMe s { me s with age := s.time + 1 }))
  ∧ (∀ (f : FA1) (s : State), s.Runs (shape (.sleep f)) →
    let n := min (opn s f.lit f.a) 0xFFFFFF
    (n = 0 → Does s (.sleep f) (withMe s { me s with age := s.time + 1 }))
    ∧ (n ≠ 0 → Rests s (.sleep f) s (.sleep (s.clk (s.coreOf (me s)) + 1000 * n))))
  ∧ (∀ (f : FG) (s : State), s.Runs (shape (.nocap f)) → Does s (.nocap f) (withMe s { me s with nocap := true }))
  ∧ (∀ (f : FG) (s : State), s.Runs (shape (.capok f)) → Does s (.capok f) (withMe s { me s with nocap := false }))
  ∧ ∀ (f : FG) (s : State), s.Runs (shape (.hot f)) →
    let n := (64 + (s.ctxs.get (me s).ctx).hotthrOff).toNat
    ∃ c', c'.hotCount (me s).ctx ((me s).pc + 4) = min n 65535
      ∧ Does s (.hot f) { s with cores := s.cores.set (s.coreOf (me s)) c' })
  ∧ ((∀ (f : FG) (s : State), s.Runs (shape (.wfi f)) →
    Rests s (.wfi f) s (.wfi (s.dies.get (dieOf (s.coreOf (me s)))).posted))
  ∧ (∀ (f : FG) (s : State), s.Runs (shape (.halt f)) → Rests s (.halt f) s .halt)
  ∧ ∀ (f : FA) (s : State), s.Runs (shape (.vdhop f)) →
    let vd := (s.desc (dieOf (s.coreOf (me s))) (me s).ctx).vd
    let v : Word := match s.boundDie vd (opn s f.lit f.a), s.boundDie vd (opn s f.lit f.b) with
      | some p, some q => BitVec.ofNat 32 (min ((q.1 + 8 - p.1) % 8) ((p.1 + 8 - q.1) % 8))
      | _, _ => 0xFFFFFFFF
    ∃ g', Does s (.vdhop f) (withMe s { me s with g := g' }) ∧ ∀ k, g'.get k = (Res.word f.nw f.d v).reg (me s).g k)

/-- From R85, R131: a user trap. With `tvec` zero the thread stops for the runtime, which is told; else the record is stored below `sbase`,
the site and the return point are pushed, and the thread goes on at `tvec`. -/
def Obligations.UserTraps : Prop :=
  ∀ (f : FA1) (s : State), s.Runs (shape (.trap f)) →
    let t := me s
    let num := opn s f.lit f.a % 65536
    let ret := nextPc s (.trap f)
    let d := dieOf (s.coreOf t)
    let tvec := (s.ctxs.get t.ctx).tvec
    (tvec = 0 → exec (.trap f) s = .next ((s.setThr s.cur { t with
        b0 := none, b1 := none, chain := none, pend := none, bulk := none, mrun := none, barArr := false, tblLd := false, age := s.time,
        since := s.time, wait := .stopped, stop := some ⟨64, num, 0, t.pc, ret⟩, pc := ret }).modDie d (fun q => { q with
          mail := q.mail ++ [⟨.stopped, [], [s.cur, 64, num, 0, t.pc.toNat, ret.toNat]⟩], posted := q.posted + 1 })))
    ∧ ∀ ps, tvec ≠ 0 → t.cs.length ≤ 2 → s.check (s.who t) .write (t.sbase - 32) 32 = .ok ps →
      (∀ p ∈ ps, ∃ pa k, p.loc = .dev pa k) →
      let record := leBytes 2 64 ++ leBytes 2 num ++ leBytes 4 0 ++ leBytes 8 0 ++ leBytes 8 t.pc.toNat ++ leBytes 8 ret.toNat
      ∃ s', exec (.trap f) s = .next s' ∧ (me s').pc = tvec &&& ~~~3 ∧ (me s').cs = ret :: t.pc :: t.cs ∧ (me s').wait = .none
        ∧ (me s').g = t.g ∧ (me s').p = t.p ∧ (me s').b0 = none ∧ (me s').b1 = none
        ∧ ((me s').stores.map (fun h => (h.addr, h.op)) = t.stores.map (fun h => (h.addr, h.op)) ++
          ps.map (fun p => (t.sbase - 32 + BitVec.ofNat 64 p.off, .store ((record.drop p.off).take p.len))))
        ∧ s'.mem = s.mem ∧ s'.plots = s.plots ∧ ∀ u, u ≠ s.cur → s'.thr u = s.thr u

/-- R133: `tret` pops the restart counter and the fault site and goes to the restart counter, which R79 checks; with fewer than two
entries it acts as `exit`; its fields D, A, B and NW are reserved. -/
def Obligations.TrapReturn : Prop :=
  (∀ (f : FG) (s : State), s.Runs (shape (.tret f)) →
    (∀ v x r, (me s).cs = v :: x :: r →
      (inWindow0 (v &&& ~~~3) → Jumps s (.tret f) (withMe s { me s with cs := r }) (v &&& ~~~3))
      ∧ (¬ inWindow0 (v &&& ~~~3) → Faults s (.tret f) 3 (v &&& ~~~3)))
    ∧ (∀ bs v, (me s).cs = [v] → 2 ≤ (me s).csSp → (me s).bulk = some bs →
      (inWindow0 (v &&& ~~~3) →
        Jumps s (.tret f) (withMe s { me s with cs := [BitVec.ofNat 64 (leNat (bs.take 8))], csSp := (me s).csSp - 2 }) (v &&& ~~~3))
      ∧ (¬ inWindow0 (v &&& ~~~3) → Faults s (.tret f) 3 (v &&& ~~~3)))
    ∧ (∀ bs, (me s).cs = [] → 2 ≤ (me s).csSp → (me s).bulk = some bs →
      let v := BitVec.ofNat 64 (leNat (bs.drop 8)) &&& ~~~3
      (inWindow0 v → Jumps s (.tret f) (withMe s { me s with cs := [], csSp := (me s).csSp - 2 }) v)
      ∧ (¬ inWindow0 v → Faults s (.tret f) 3 v))
    ∧ ((me s).cs.length + (me s).csSp < 2 → Ends s (.tret f)))
  ∧ ∀ (w lit : Word), w.extractLsb' 26 6 = 0x38 → w.extractLsb' 0 3 = 0 →
    (decodeIn .thread w lit = .ok (.tret ⟨w.extractLsb' 22 4⟩) ↔ w.extractLsb' 22 4 ≠ 15 ∧ w.extractLsb' 3 19 = 0)

/-- From R24, R92: `srd` reads each special register, with a 64-bit register into a pair. R25, R26, R130: `crd` reads each control register of
a thread, its plot and its context. -/
def Obligations.SpecialAndControlRegisterReads : Prop :=
  (∀ (f : FS) (s : State), s.Runs (shape (.srd f)) →
    (∀ e ∈ sregTable s (me s), f.n.toNat = e.1 → ∃ g', Does s (.srd f) (withMe s { me s with g := g' })
      ∧ ∀ k, g'.get k = (Res.word false f.d (e.2.extractLsb' 0 32)).reg (me s).g k)
    ∧ ∀ e ∈ sregWide s (me s), f.n.toNat = e.1 → ∃ g', Does s (.srd f) (withMe s { me s with g := g' })
      ∧ ∀ k, g'.get k = (Res.pair false f.d e.2).reg (me s).g k)
  ∧ (∀ (f : FS) (s : State), s.Runs (shape (.crd f)) →
    (∀ e ∈ cregTable s (me s), f.n.toNat = e.1 → ∃ g', Does s (.crd f) (withMe s { me s with g := g' })
      ∧ ∀ k, g'.get k = (Res.word false f.d (e.2.extractLsb' 0 32)).reg (me s).g k)
    ∧ ∀ e ∈ cregWide s (me s), f.n.toNat = e.1 → ∃ g', Does s (.crd f) (withMe s { me s with g := g' })
      ∧ ∀ k, g'.get k = (Res.pair false f.d e.2).reg (me s).g k)

/-- From R18, R25, R26: `cwr` writes each control register: reserved bits are dropped, and a seed of 0 is stored as 1. A write without the
register's privilege raises ILLEGAL.FIELD. -/
def Obligations.ControlRegisterWrites : Prop :=
  ∀ (f : FS) (s : State),
    let t := me s
    let w := t.src32 f.lit f.d
    let x := t.src64 f.lit f.d
    (f.n = 0 → RunsAt s (shape (.cwr f)) 0 → Does s (.cwr f) (withMe s { t with fpcr := fpcrOf w }))
    ∧ (f.n = 1 → RunsAt s (shape (.cwr f)) 0 → Does s (.cwr f) (withMe s { t with fpsr := w &&& 127 }))
    ∧ (f.n = 2 → RunsAt s (shape (.cwr f)) 0 → Does s (.cwr f) (withMe s { t with lfsr := if w = 0 then 1 else w }))
    ∧ (f.n = 8 → RunsAt s (shape (.cwr f)) 0 →
      Does s (.cwr f) (s.modPlot t.plot (fun p => { p with bintmrOff := (max 64 (min 4096 w.toNat) : Nat) - (256 : Int) })))
    ∧ (f.n = 4 → RunsAt s (shape (.cwr f)) 1 → Does s (.cwr f) (s.modCtx t.ctx (fun c => { c with tvec := x })))
    ∧ (f.n = 6 → RunsAt s (shape (.cwr f)) 1 → Does s (.cwr f) (withMe s { t with sbase := x }))
    ∧ (f.n = 9 → RunsAt s (shape (.cwr f)) 1 → Does s (.cwr f) (s.modCtx t.ctx (fun c => { c with hotthrOff := (w.toNat : Int) - 64 })))
    ∧ (f.n = 4 ∨ f.n = 6 ∨ f.n = 9 ∨ f.n = 16 → RunsAt s (shape (.cwr f)) 0 → s.privOf t < 1 →
      exec (.cwr f) s = .next (s.faultAt s.cur ((t.nextChain (shape (.cwr f))).map (·.snap)) 2 0 0))

/-- From R88 to R91: creating a child, joining a regroup bin, and a device-side launch. -/
def Obligations.SpawnRegroupLaunch : Prop :=
  (∀ (w : Bool) (f : FP) (s : State), let i := if w then Instr.spawnW f else .spawn f; s.Runs (shape i) →
    let t := me s
    let entry := t.src64 f.lit f.a &&& ~~~3
    let l := s.launches.get (s.plots.get t.plot).launch
    (¬ inWindow0 entry → Faults s i 3 entry)
    ∧ (inWindow0 entry → s.fenceOk t 2 = true →
      ((0xFFFFFFFD < l.threads + l.spawned → ∃ p', Does s i (withMe s { t with p := p' })
        ∧ ∀ k, k < 7 → p'.getLsbD k = (Res.pred f.nw f.p false).prd t.p k)
      ∧ (l.threads + l.spawned ≤ 0xFFFFFFFD → s.pending (s.coreOf t) < 1024 →
        ∃ p', Does s i ((s.spawnChild s.cur entry (t.src32 f.lit f.b)).modThr s.cur (fun t => { t with p := p' }))
          ∧ ∀ k, k < 7 → p'.getLsbD k = (Res.pred f.nw f.p true).prd t.p k)
      ∧ (w = false → l.threads + l.spawned ≤ 0xFFFFFFFD → 1024 ≤ s.pending (s.coreOf t) → ∃ p', Does s i (withMe s { t with p := p' })
        ∧ ∀ k, k < 7 → p'.getLsbD k = (Res.pred f.nw f.p false).prd t.p k))))
  ∧ (∀ (f : FA1) (s : State), s.Runs (shape (.regroup f)) →
    Rests s (.regroup f) (s.modPlot (me s).plot (fun p => p.fileR (nextPc s (.regroup f)) ((me s).src32 f.lit f.a) s.cur
      (s.clk p.core + 1000 * (256 + p.bintmrOff).toNat))) .bin)
  ∧ ∀ (f : FU) (s : State), s.Runs (shape (.lnch f)) → s.coreOf (me s) < 1280 →
    let t := me s
    let va := t.src64 f.lit f.a
    let d := dieOf (s.coreOf t)
    let id := (s.ctxs.get t.ctx).ids % (2 ^ 32 - 1) + 1
    (va.toNat % 128 ≠ 0 ∨ 2 * 2 ^ 60 ≤ va.toNat → Faults s (.lnch f) 3 va)
    ∧ (va.toNat % 128 = 0 → va.toNat < 2 * 2 ^ 60 → s.fenceOk t 2 = true →
      (64 ≤ (s.dies.get d).internal.length → ∃ g', Does s (.lnch f) (withMe s { t with g := g' })
        ∧ ∀ k, g'.get k = (Res.word f.nw f.d 0).reg t.g k)
      ∧ ∀ bs, (s.dies.get d).internal.length < 64 → t.bulk = some bs → ∃ g',
        Does s (.lnch f) (((s.newLaunch t.ctx d bs va none).modDie d (fun q => { q with internal := q.internal ++ [t.ctx * 2 ^ 32 + id] })).modThr
          s.cur (fun t => { t with g := g' })) ∧ ∀ k, g'.get k = (Res.word f.nw f.d (BitVec.ofNat 32 id)).reg t.g k)

/-- From R97, R98, R99, R101, R102, R270: a load from full lines of the scratchpad writes its destination and nothing else; where a line that it
reads holds an uncorrectable error it raises ECC.UNC. -/
def Obligations.ScratchpadLoads : Prop :=
  ∀ (i : Instr) (s : State) (va : DWord) (n o : Nat) (d : BitVec 6) (ws : List Byte → List Word),
    loadSpec s i = some (va, n, d, ws) → s.Runs (shape i) → InScratch s va n o →
    (myPlot s).fullAt o n = true → s.scoreHit (me s) false va.toNat n = false → (me s).loads = [] → (me s).stores = [] →
    (CleanScratch s n o → ∃ g', Does s i (withMe s { me s with g := g' })
      ∧ ∀ k, g'.get k = (Res.words false d (ws ((List.range n).map (fun j => (myPlot s).scratch.get (o + j))))).reg (me s).g k)
    ∧ (¬ CleanScratch s n o → Faults s i 7 va)

/-- From R98, R268: a load whose parts lie at their homes in device memory becomes outstanding; no register changes yet. R98, R267: a store to
device memory is held for its homes, part by part, and drops the core's copies of their lines; no byte of memory changes yet. R106, R267:
an atomic on device memory is held for its home; its destination is written when the home performs it. -/
def Obligations.MemoryAccessesBecomeHeld : Prop :=
  (∀ (i : Instr) (s : State) (va : DWord) (n : Nat) (d : BitVec 6) (ws : List Byte → List Word) (ps : List Part),
    loadSpec s i = some (va, n, d, ws) → s.Runs (shape i) → s.check (s.who (me s)) .read va n = .ok ps → s.keysOk ps = true → ps ≠ [] →
    (∀ p ∈ ps, (∃ pa k, p.loc = .dev pa k ∧ s.l1Hit (me s) pa = false)) → s.scoreHit (me s) false va.toNat n = false →
    ∃ l : Load, Does s i (withMe s { me s with loads := (me s).loads ++ [l], seq := (me s).seq + 1 })
      ∧ l.seq = (me s).seq ∧ l.addr = va ∧ l.size = n ∧ l.pc = (me s).pc ∧ l.parts = ps.map (fun p => { p with data := none })
      ∧ (d.toNat < 60 → ∃ k sg, l.dst = .regs d.toNat k sg) ∧ (60 ≤ d.toNat → l.dst = .none))
  ∧ (∀ (i : Instr) (s : State) (va : DWord) (bs : List Byte) (sc : Option Nat) (ps : List Part),
    storeSpec s i = some (va, bs, sc) → s.Runs (shape i) → s.check (s.who (me s)) .write va bs.length = .ok ps →
    (∀ p ∈ ps, ∃ pa k, p.loc = .dev pa k) → s.scoreHit (me s) true va.toNat bs.length = false →
    (∀ x, sc = some x → s.fenceOk (me s) x = true) →
    ∃ s', exec i s = .next s' ∧ s' = { s with threads := s'.threads, cores := s'.cores }
      ∧ me s' = behind s i { me s with seq := (me s).seq + 1, stores := (me s).stores ++ ps.map (fun p =>
          ⟨(me s).seq, va + BitVec.ofNat 64 p.off, p.loc, p.len, .store ((bs.drop p.off).take p.len), (me s).pc, false, none, 0, 0⟩) }
      ∧ (∀ p ∈ ps, ∀ pa k, p.loc = .dev pa k → (s'.cores.get (s.coreOf (me s))).l1.get (pa / 128) = default)
      ∧ (∀ u, u ≠ s.cur → s'.thr u = s.thr u) ∧ ∀ c, c ≠ s.coreOf (me s) → s'.cores.get c = s.cores.get c)
  ∧ (∀ (i : Instr) (s : State) (op : AOp) (n : Nat) (va x y : DWord) (d : BitVec 6) (p : Part) (pa k : Nat),
    amoSpec s i = some (op, n, va, x, y, d) → s.Runs (shape i) → va.toNat % n = 0 →
    s.check (s.who (me s)) .atomic va n = .ok [p] → p.loc = .dev pa k → s.keysOk [p] = true → s.scoreHit (me s) true va.toNat n = false →
    ∃ s', exec i s = .next s' ∧ s' = { s with threads := s'.threads, cores := s'.cores }
      ∧ me s' = behind s i { me s with seq := (me s).seq + 1, stores := (me s).stores ++
          [⟨(me s).seq, va, p.loc, n, .amo op x y d.toNat (me s).snap, (me s).pc, false, none, 0, 0⟩] }
      ∧ (∀ u, u ≠ s.cur → s'.thr u = s.thr u) ∧ ∀ c, c ≠ s.coreOf (me s) → s'.cores.get c = s.cores.get c)

/-- From R98, R101, R102, R270: a store to the scratchpad writes its bytes and no other byte of memory. -/
def Obligations.ScratchpadStores : Prop :=
  ∀ (i : Instr) (s : State) (va : DWord) (bs : List Byte) (sc : Option Nat) (o : Nat),
    storeSpec s i = some (va, bs, sc) → s.Runs (shape i) → InScratch s va bs.length o → s.scoreHit (me s) true va.toNat bs.length = false →
    (∀ x, sc = some x → s.fenceOk (me s) x = true) →
    ∃ s', exec i s = .next s' ∧ s' = { s with threads := s'.threads, plots := s'.plots }
      ∧ ScratchWritten s s' (me s).plot o bs
      ∧ me s' = behind s i { timed (me s) s.time with seq := (me s).seq + 1 } ∧ ∀ u, u ≠ s.cur → s'.thr u = s.thr u

/-- From R94: an address in the hole above window 3 raises ADDR for every load and store, and no register or byte changes but by the fault's
own entry. -/
def Obligations.AddressHoleFaults : Prop :=
  (∀ (i : Instr) (s : State) (va : DWord) (n : Nat) (d : BitVec 6) (ws : List Byte → List Word),
    loadSpec s i = some (va, n, d, ws) → s.Runs (shape i) → 4 * 2 ^ 60 ≤ va.toNat → Faults s i 3 va)
  ∧ ∀ (i : Instr) (s : State) (va : DWord) (bs : List Byte) (sc : Option Nat),
    storeSpec s i = some (va, bs, sc) → s.Runs (shape i) → 4 * 2 ^ 60 ≤ va.toNat → Faults s i 3 va

/-- From R100, R104: `pf` is a `nop` where its address would fault or lies outside window 0; the full bits are cleared, set, tested and
waited for. -/
def Obligations.PrefetchAndFullBits : Prop :=
  (∀ (f : FMp) (s : State), s.Runs (shape (.pf f)) →
    let va := memAddr s f.lit f.a f.o 128
    (2 ^ 60 ≤ va.toNat ∨ (∀ ps, s.check (s.who (me s)) .read va 1 ≠ .ok ps)) → Does s (.pf f) s)
  ∧ (∀ (full : Bool) (f : FAB) (s : State), let i := if full then Instr.feSet f else .feClr f; s.Runs (shape i) →
    let va := (me s).src64 f.lit f.a
    let o := va.toNat - 2 ^ 60
    let n := opn s f.lit f.b
    (va.toNat / 2 ^ 60 ≠ 1 ∨ (myPlot s).scratchLen ≤ o → Faults s i 3 va)
    ∧ (va.toNat / 2 ^ 60 = 1 → o < (myPlot s).scratchLen →
      (n = 0 → Does s i s)
      ∧ (n ≠ 0 → ((myPlot s).scratchLen + 127) / 128 < o / 128 + n → Faults s i 3 va)
      ∧ (n ≠ 0 → o / 128 + n ≤ ((myPlot s).scratchLen + 127) / 128 →
        (full = true ∨ s.scoreHit (me s) true (2 ^ 60 + 128 * (o / 128)) (128 * n) = false) →
        ∃ e, Does s i (s.modPlot (me s).plot (fun p => { p with empty := e }))
          ∧ ∀ l, e.get l = if o / 128 ≤ l ∧ l < o / 128 + n then !full else (myPlot s).empty.get l)))
  ∧ (∀ (f : FPa) (s : State), s.Runs (shape (.feTst f)) →
    let va := (me s).src64 f.lit f.a
    let o := va.toNat - 2 ^ 60
    va.toNat / 2 ^ 60 = 1 → o < (myPlot s).scratchLen →
    ∃ p', Does s (.feTst f) (withMe s { me s with p := p' })
      ∧ ∀ k, k < 7 → p'.getLsbD k = (Res.pred f.nw f.p (!(myPlot s).empty.get (o / 128))).prd (me s).p k)
  ∧ ∀ (f : FAn) (s : State), s.Runs (shape (.feWt f)) →
    let va := (me s).src64 f.lit f.a
    let o := va.toNat - 2 ^ 60
    (va.toNat / 2 ^ 60 ≠ 1 ∨ (myPlot s).scratchLen ≤ o → Faults s (.feWt f) 3 va)
    ∧ (va.toNat / 2 ^ 60 = 1 → o < (myPlot s).scratchLen →
      ((myPlot s).empty.get (o / 128) = false → Does s (.feWt f) s)
      ∧ ((myPlot s).empty.get (o / 128) = true → Waits s (.feWt f) .full))

/-- From R105 to R108, R270: an atomic on the scratchpad replaces the old value, which its destination receives; an address that is not a multiple
of its size raises ALIGN, and an uncorrectable error ECC.UNC. -/
def Obligations.ScratchpadAtomics : Prop :=
  ∀ (i : Instr) (s : State) (op : AOp) (n o : Nat) (va x y : DWord) (d : BitVec 6),
    amoSpec s i = some (op, n, va, x, y, d) → s.Runs (shape i) →
    (va.toNat % n ≠ 0 → Faults s i 5 va)
    ∧ (va.toNat % n = 0 → InScratch s va n o → (myPlot s).fullAt o n = true → ¬ CleanScratch s n o → Faults s i 7 va)
    ∧ (va.toNat % n = 0 → InScratch s va n o → (myPlot s).fullAt o n = true → CleanScratch s n o → s.scoreHit (me s) true va.toNat n = false →
      let old := leNat ((List.range n).map (fun j => (myPlot s).scratch.get (o + j)))
      ∃ s', exec i s = .next s' ∧ s' = { s with threads := s'.threads, plots := s'.plots }
        ∧ ScratchWritten s s' (me s).plot o (leBytes n (amoNew op n old x.toNat y.toNat))
        ∧ (∀ k, (me s').g.get k = (if n = 8 then Res.pair false d (BitVec.ofNat 64 old) else Res.word false d (BitVec.ofNat 32 old)).reg
            (me s).g k)
        ∧ me s' = behind s i { timed (me s) s.time with seq := (me s).seq + 1, g := (me s').g } ∧ ∀ u, u ≠ s.cur → s'.thr u = s.thr u)

/-- From R110 to R114: fences pass once the thread's accesses are performed and device time is past their completion, and wait before. -/
def Obligations.FencesAndTimes : Prop :=
  (∀ e ∈ [(Instr.fenceCore, 0), (.fenceDie, 1), (.fencePkg, 2), (.fenceSys, 3)], ∀ (f : FG) (s : State), s.Runs (shape (e.1 f)) →
    let t := me s
    let time := if e.2 = 0 then t.tCore else if e.2 = 1 then t.tDie else if e.2 = 2 then t.tPkg else t.tSys
    (t.loads = [] → t.stores = [] → time < s.time → Does s (e.1 f) s)
    ∧ (t.loads ≠ [] ∨ s.time ≤ time → Waits s (e.1 f) .fence))
  ∧ (∀ (f : FAB) (s : State), s.Runs (shape (.xfence f)) →
    ((∀ k, k < 6 → f.a.getLsbD k = true → s.pathOk s.cur k = true) → Does s (.xfence f) s)
    ∧ (∀ k, k < 6 → f.a.getLsbD k = true → s.pathOk s.cur k = false → Waits s (.xfence f) .xfence))
  ∧ ∀ (f : FG) (s : State), s.Runs (shape (.leaseDrop f)) → Does s (.leaseDrop f) (withMe s { me s with leaseDrop := s.time + 1 })

/-- R113: `gwct gD, S` (FN 5 of major 0x2E) writes T.S to the pair D and does not wait; A holds the scope code, of which 4 to 63 are
refused with ILLEGAL.FIELD, as are an odd D and set bits of B and NW. -/
def Obligations.CompletionTimeRead : Prop :=
  (∀ (f : FDa) (s : State), s.Runs (shape (.gwct f)) → f.a.toNat ≤ 3 →
    let t := me s
    let time := [t.tCore, t.tDie, t.tPkg, t.tSys].getD f.a.toNat 0
    ∃ g', Does s (.gwct f) (withMe s { t with g := g' }) ∧ ∀ k, g'.get k = (Res.pair false f.d (BitVec.ofNat 64 time)).reg t.g k)
  ∧ ∀ (w lit : Word), w.extractLsb' 26 6 = 0x2E → w.extractLsb' 0 3 = 5 → w.extractLsb' 22 4 ≠ 15 →
    decodeIn .thread w lit =
      if (w.extractLsb' 10 6).toNat ≤ 3 ∧ ((w.extractLsb' 16 6).toNat < 60 ∧ (w.extractLsb' 16 6).toNat % 2 = 0 ∨ w.extractLsb' 16 6 = 62)
        ∧ w.extractLsb' 3 7 = 0
      then .ok (.gwct ⟨w.extractLsb' 22 4, w.extractLsb' 16 6, w.extractLsb' 10 6, 0⟩) else .error .field

/-- From R119, R120: group barriers. A member arrives once its accesses are performed and its previous phase is complete, and a `bar.sync` that
has arrived and runs again does not arrive again; it waits for the phase of its last arrival; a group that is not the thread's raises
ILLEGAL.FIELD. R119, R121, R122: numbered barriers count arrivals up to their count, departed parties included; a barrier object is set,
and waited for until its count is 0. -/
def Obligations.BarrierWords : Prop :=
  ((∀ e ∈ [Instr.barArr, .barWt, .barSync], ∀ (f : FA1) (s : State), s.Runs (shape (e f)) →
    opn s f.lit f.a ≠ 0 → opn s f.lit f.a ∉ (me s).grps → Faults s (e f) 2 0)
  ∧ ∀ (f : FA1) (s : State) (g : Nat), opn s f.lit f.a = g → (g = 0 ∨ g ∈ (me s).grps) →
    let t := me s
    let l := (s.plots.get t.plot).launch
    let n := t.arr.get g
    let arrived := withMe s { t with arr := t.arr.set g (n + 1) }
    (s.Runs (shape (.barArr f)) →
      (s.fenceOk t 2 = true → (n = 0 ∨ s.groupDone l g (n - 1) = true) → Does s (.barArr f) arrived)
      ∧ (s.fenceOk t 2 = false → Waits s (.barArr f) .fence)
      ∧ (s.fenceOk t 2 = true → n ≠ 0 → s.groupDone l g (n - 1) = false → Waits s (.barArr f) .barStall))
    ∧ (s.Runs (shape (.barWt f)) →
      ((n = 0 ∨ s.groupDone l g (n - 1) = true) → Does s (.barWt f) s)
      ∧ (n ≠ 0 → s.groupDone l g (n - 1) = false → Waits s (.barWt f) .bar))
    ∧ (s.Runs (shape (.barSync f)) → t.barArr = false → s.fenceOk t 2 = true → (n = 0 ∨ s.groupDone l g (n - 1) = true) →
      (arrived.groupDone l g n = true → Does s (.barSync f) arrived)
      ∧ (arrived.groupDone l g n = false → t.wait ≠ .bar → exec (.barSync f) s = .next (arrived.modThr s.cur (fun t => { t with
          wait := .bar, barArr := true, pend := ((me s).nextChain (shape (.barSync f))).map (·.snap), since := s.time
          sinceC := s.clk (s.coreOf t) }))))
    ∧ (s.Runs (shape (.barSync f)) → t.barArr = true →
      ((n = 0 ∨ s.groupDone l g (n - 1) = true) → Does s (.barSync f) s)
      ∧ (n ≠ 0 → s.groupDone l g (n - 1) = false → Waits s (.barSync f) .bar)))
  ∧ ((∀ (f : FA1) (s : State), s.Runs (shape (.nbarArr f)) → s.fenceOk (me s) 1 = true →
    let p := (me s).plot
    let n := opn s f.lit f.a
    let b := (myPlot s).nb.get n
    let arr := if s.cur + 1 ∈ b.arrived then b.arrived else b.arrived ++ [s.cur + 1]
    let tally := arr.length + ((s.departed p).filter (fun x => !arr.contains x)).length
    n < 16 → (myPlot s).nbCount.get n ≠ 0 → ∃ s', exec (.nbarArr f) s = .next s'
      ∧ (s'.plots.get p).nb.get n = (if (myPlot s).nbCount.get n ≤ tally then ⟨b.phase + 1, []⟩ else ⟨b.phase, arr⟩)
      ∧ (∀ k, k ≠ n → (s'.plots.get p).nb.get k = (myPlot s).nb.get k)
      ∧ s' = { s with threads := s'.threads, plots := s'.plots }
      ∧ me s' = behind s (.nbarArr f) { me s with nbLast := (me s).nbLast.set n (b.phase + 1) } ∧ ∀ u, u ≠ s.cur → s'.thr u = s.thr u)
  ∧ (∀ (f : FA1) (s : State), s.Runs (shape (.nbarWt f)) →
    let n := opn s f.lit f.a
    n < 16 → (myPlot s).nbCount.get n ≠ 0 →
    ((me s).nbLast.get n ≤ ((myPlot s).nb.get n).phase → Does s (.nbarWt f) s)
    ∧ (((myPlot s).nb.get n).phase < (me s).nbLast.get n → Waits s (.nbarWt f) .nbar))
  ∧ (∀ (f : FA1) (s : State), s.Runs (shape (.bwait f)) →
    let va := (me s).src64 f.lit f.a
    let o := va.toNat - 2 ^ 60
    let remain := leNat ((List.range 6).map (fun j => (myPlot s).scratch.get (o + j)))
    va.toNat / 2 ^ 60 = 1 → o % 8 = 0 → o + 8 ≤ (myPlot s).scratchLen →
    (remain = 0 → Does s (.bwait f) s) ∧ (remain ≠ 0 → Waits s (.bwait f) .bobj))
  ∧ ∀ (f : FAB) (s : State), s.Runs (shape (.bobjInit f)) →
    let va := (me s).src64 f.lit f.a
    let o := va.toNat - 2 ^ 60
    va.toNat / 2 ^ 60 = 1 → o % 8 = 0 → o + 8 ≤ (myPlot s).scratchLen → (myPlot s).fullAt o 8 = true →
    s.scoreHit (me s) true va.toNat 8 = false →
    ∃ s', exec (.bobjInit f) s = .next s' ∧ s' = { s with threads := s'.threads, plots := s'.plots }
      ∧ ScratchWritten s s' (me s).plot o (leBytes 8 (((me s).src64 f.lit f.b).toNat % 2 ^ 48))
      ∧ me s' = behind s (.bobjInit f) (timed (me s) s.time) ∧ ∀ u, u ≠ s.cur → s'.thr u = s.thr u)

/-- From R123, R124: `kick` enters every one of n valid descriptors in the range scoreboard; a count of 0 or above 16 is refused. -/
def Obligations.Kick : Prop :=
  ∀ (f : FAB) (s : State), s.Runs (shape (.kick f)) →
    let va := (me s).src64 f.lit f.a
    let n := opn s f.lit f.b
    (n = 0 ∨ 16 < n → Faults s (.kick f) 2 0)
    ∧ ∀ o, 1 ≤ n → n ≤ 16 → slotAt s va 32 (32 * n) o →
      let ds := (List.range n).map (fun k => copyDesc (scrBytes s (o + 32 * k) 32))
      (∀ d ∈ ds, s.copyFault (me s) d = none) →
      let old := (s.cores.get (myCore s)).copies
      (16 < old.length + n → Waits s (.kick f) .scoreboard)
      ∧ (old.length + n ≤ 16 → ∃ new : List Copy,
        Does s (.kick f) (s.modCore (myCore s) (fun c => { c with copies := old ++ new, copySeq := c.copySeq + n }))
          ∧ new.map (·.desc) = ds
          ∧ ∀ c ∈ new, c.ctx = (me s).ctx ∧ c.plot = (me s).plot ∧ c.thread = s.cur ∧ c.pc = (me s).pc)

/-- From R125, R126: a stream copy takes the lowest free handle of the core, or gives 0xFFFFFFFF when it has none; `free` of a handle that is
not in use does nothing. R127, R128: a ring's header; a message to a ring with room is written behind its tail, and one without room
waits; `recv.adv` passes the oldest message. -/
def Obligations.StreamCopiesAndMessageRings : Prop :=
  ((∀ (f : FDa) (s : State) (o : Nat), s.Runs (shape (.cpySt f)) → slotAt s ((me s).src64 f.lit f.a) 32 32 o →
    let bs := scrBytes s o 32
    let m := streamDesc bs (me s) s.cur
    (streamFieldBad bs m = true → Faults s (.cpySt f) 2 0)
    ∧ (streamFieldBad bs m = false → m.ring / 128 + m.slotB * m.nslot ≤ ((myPlot s).scratchLen + 127) / 128 →
        m.bobj + 8 ≤ (myPlot s).scratchLen →
      ((∀ h, h < 8 → ((s.cores.get (myCore s)).streams.get h).active = true) → DoesReg s (.cpySt f) s false f.d 0xFFFFFFFF)
      ∧ ∀ h, h < 8 → ((s.cores.get (myCore s)).streams.get h).active = false →
        (∀ k, k < h → ((s.cores.get (myCore s)).streams.get k).active = true) →
        ∃ e, DoesReg s (.cpySt f) ((s.modPlot (me s).plot (fun p => { p with empty := e })).modCore (myCore s)
            (fun c => { c with streams := c.streams.set h m })) false f.d (BitVec.ofNat 32 h)
          ∧ ∀ l, e.get l = if m.ring / 128 ≤ l ∧ l < m.ring / 128 + m.slotB * m.nslot then true else (myPlot s).empty.get l))
  ∧ ∀ (f : FA1) (s : State), s.Runs (shape (.free f)) → (me s).loads = [] →
    (8 ≤ opn s f.lit f.a ∨ ((s.cores.get (myCore s)).streams.get (opn s f.lit f.a)).active = false) → Does s (.free f) s)
  ∧ ((∀ (f : FABn) (s : State) (o : Nat), s.Runs (shape (.ringInit f)) →
    let va := (me s).src64 f.lit f.a
    let n := opn s f.lit f.b
    slotAt s va 128 128 o →
    (n % 128 ≠ 0 ∨ n < 128 ∨ 262144 < n → Faults s (.ringInit f) 2 0)
    ∧ (n % 128 = 0 → 128 ≤ n → n ≤ 262144 → o + 128 + n ≤ (myPlot s).scratchLen → s.scoreHit (me s) true va.toNat 128 = false →
      ∃ m, Does s (.ringInit f) (s.modPlot (me s).plot (fun p => { p with scratch := m, empty := p.empty.set (o / 128) true }))
        ∧ ∀ a, m.get a = if o ≤ a ∧ a < o + 128 then (leBytes 4 n).getD (a - o) 0 else (myPlot s).scratch.get a))
  ∧ (∀ (f : FAn) (s : State) (o : Nat) (m : Msg), s.Runs (shape (.send f)) → slotAt s ((me s).src64 f.lit f.a) 16 16 o →
    s.sendMsg (me s) (scrBytes s o 16) (nextPc s (.send f)) = .ok m →
    let p := s.plots.get m.plot
    let h := ringHdr p.scratch m.ring
    let need := 8 + (m.data.length + 7) / 8 * 8
    (p.resident = false ∨ h.size - h.used < need → Waits s (.send f) (.space (s.time + 1000000) m))
    ∧ (p.resident = true → need ≤ h.size - h.used → h.size ≠ 0 → ∃ p', Does s (.send f) (s.modPlot m.plot (fun _ => p'))
      ∧ p' = { p with scratch := p'.scratch, empty := p.empty.set (m.ring / 128) false }
      ∧ ringHdr p'.scratch m.ring = { h with tail := (h.tail + need) % h.size % 2 ^ 32, used := (h.used + need) % 2 ^ 32 }))
  ∧ ∀ (f : FAn) (s : State) (o : Nat), s.Runs (shape (.recvAdv f)) → slotAt s ((me s).src64 f.lit f.a) 128 128 o →
    let h := ringHdr (myPlot s).scratch o
    o + 128 + h.size ≤ (myPlot s).scratchLen →
    (h.used = 0 → Does s (.recvAdv f) s)
    ∧ (h.used ≠ 0 → h.size ≠ 0 →
      let len := leNat (scrBytes s (o + 128 + h.head % h.size) 4) % 2 ^ 20
      let need := 8 + (len + 7) / 8 * 8
      ∃ p', Does s (.recvAdv f) (s.modPlot (me s).plot (fun _ => p'))
        ∧ p' = { myPlot s with scratch := p'.scratch, empty := (myPlot s).empty.set (o / 128) (decide (h.used - need = 0)) }
        ∧ ringHdr p'.scratch o = { h with head := (h.head + need) % h.size, used := h.used - need }))

/-- From R115 to R117: a gather or scatter with its descriptor read and checked is queued on its handle; ordering tokens are taken, waited for
and freed. -/
def Obligations.GathersAndTokens : Prop :=
  (∀ (sc : Bool) (f : FAB) (s : State) (bs : List Byte), let i := if sc then Instr.sct f else .gat f; s.Runs (shape i) →
    let va := (me s).src64 f.lit f.a
    (va.toNat % 32 ≠ 0 ∨ 2 * 2 ^ 60 ≤ va.toNat → Faults s i 3 va)
    ∧ (va.toNat % 32 = 0 → va.toNat < 2 * 2 ^ 60 → (me s).bulk = some bs →
      let g := gsDesc bs sc (myPlot s).gsSeq (opn s f.lit f.b) s.cur (me s)
      (gsFieldBad bs g = true → Faults s i 2 0)
      ∧ (gsFieldBad bs g = false → (s.gsCheck (me s) g).1 = .ok [] →
        Does s i (s.modPlot (me s).plot (fun p => { p with gss := p.gss ++ [g], gsSeq := p.gsSeq + 1 })))))
  ∧ (∀ (f : FD) (s : State), s.Runs (shape (.otkNew f)) →
    ((∀ h, h < 16 → h ∈ (myPlot s).otk) → DoesReg s (.otkNew f) s f.nw f.d 0xFFFFFFFF)
    ∧ ∀ h, h < 16 → h ∉ (myPlot s).otk → (∀ k, k < h → k ∈ (myPlot s).otk) →
      DoesReg s (.otkNew f) (s.modPlot (me s).plot (fun p => { p with otk := p.otk ++ [h] })) f.nw f.d (BitVec.ofNat 32 h))
  ∧ ∀ (f : FA1) (s : State), s.Runs (shape (.otkWt f)) →
    let h := opn s f.lit f.a
    (h ∉ (myPlot s).otk → Does s (.otkWt f) s)
    ∧ (h ∈ (myPlot s).otk → (∃ g ∈ (myPlot s).gss, g.handle = h) → Waits s (.otkWt f) .otk)
    ∧ (h ∈ (myPlot s).otk → (∀ g ∈ (myPlot s).gss, g.handle ≠ h) →
      Does s (.otkWt f) (s.modPlot (me s).plot (fun p => { p with otk := p.otk.filter (· != h) })))

/-- From R161, R164: the codebook, and the two banks of the function table. -/
def Obligations.TablesAndCodebook : Prop :=
  (∀ (f : FA) (s : State), s.Runs (shape (.tblRd f)) →
    let o := opn s f.lit f.a
    let b := opn s f.lit f.b
    let c := s.cores.get (myCore s)
    (2060 < o ∨ o % 4 ≠ 0 ∨ 1 < b → Faults s (.tblRd f) 2 0)
    ∧ (o ≤ 2060 → o % 4 = 0 → b ≤ 1 → Plain s (.tblRd f) (.word f.nw f.d (BitVec.ofNat 32
        (leNat ((List.range 4).map (fun j => (if b = 0 then c.tblAct else c.tblShd).get (o + j))))))))
  ∧ (∀ (f : FA1) (s : State) (bs : List Byte), s.Runs (shape (.tblLd f)) →
    let va := (me s).src64 f.lit f.a
    (va.toNat % 16 ≠ 0 → Faults s (.tblLd f) 3 va)
    ∧ (va.toNat % 16 = 0 → (me s).bulk = some bs → ∃ m,
      Does s (.tblLd f) ((s.modCore (myCore s) (fun c => { c with tblShd := m, tblOwner := some (me s).ctx })).modThr s.cur
        (fun t => { t with tblLd := false }))
      ∧ ∀ a, m.get a = if a < bs.length then bs.getD a 0 else (s.cores.get (myCore s)).tblShd.get a))
  ∧ (∀ (f : FG) (s : State), s.Runs (shape (.tblSw f)) →
    (s.tblLoading (myCore s) = false →
      Does s (.tblSw f) (s.modCore (myCore s) (fun c => { c with tblAct := c.tblShd, tblShd := c.tblAct })))
    ∧ (s.tblLoading (myCore s) = true → Waits s (.tblSw f) .loads))
  ∧ ∀ (f : FAB) (s : State) (bs : List Byte), s.Runs (shape (.cbLd f)) →
    let first := opn s f.lit f.b % 256
    let n := opn s f.lit f.b / 256 % 256 + 1
    (256 < first + n → Faults s (.cbLd f) 2 0)
    ∧ (first + n ≤ 256 → (me s).bulk = some bs → ∃ m,
      Does s (.cbLd f) (s.modCore (myCore s) (fun c => { c with codebooks := c.codebooks.set (me s).ctx m }))
      ∧ ∀ k, m.get k = if first ≤ k ∧ k < first + n then BitVec.ofNat 32 (leNat ((bs.drop (4 * (k - first))).take 4))
          else ((s.cores.get (myCore s)).codebooks.get (me s).ctx).get k)

/-- From R195, R196: the thread's words on accumulators, tiles and outlier lists; a number or index out of range raises ILLEGAL.FIELD. -/
def Obligations.TileWords : Prop :=
  (∀ e ∈ [(Instr.accRd, 16384, fun p : Plot => min 4 p.naccs), (.tileRd, 8192, fun p => min 16 p.ntiles),
      (.olRd, 128, fun p => min 16 p.ntiles)], ∀ (f : FA) (s : State), s.Runs (shape (e.1 f)) →
    (e.2.2 (myPlot s) ≤ opn s f.lit f.a ∨ e.2.1 ≤ opn s f.lit f.b → Faults s (e.1 f) 2 0))
  ∧ (∀ (f : FA) (s : State), let n := opn s f.lit f.a; let x := opn s f.lit f.b
    (s.Runs (shape (.accRd f)) → n < min 4 (myPlot s).naccs → x < 16384 →
      let q := (myPlot s).accs.get n
      ReadsPoison s (.accRd f) f.nw f.d (if q.poison.get x then 0x7FC00000 else q.v.get x) (q.poison.get x))
    ∧ (s.Runs (shape (.tileRd f)) → n < min 16 (myPlot s).ntiles → x < 8192 →
      let q := (myPlot s).tiles.get n
      (q.w ∉ [4, 6, 8, 16] → Faults s (.tileRd f) 10 0)
      ∧ (q.w ∈ [4, 6, 8, 16] → ReadsPoison s (.tileRd f) f.nw f.d
          (BitVec.ofNat 32 (leNat ((List.range 4).map (fun j => q.data.get (4 * x + j))))) (q.wordPoison x)))
    ∧ (s.Runs (shape (.olRd f)) → n < min 16 (myPlot s).ntiles → x < 128 →
      let q := (myPlot s).tiles.get n
      ReadsPoison s (.olRd f) f.nw f.d (if q.listPoison.get x then 0x7FC00000 else q.list.get x) (q.listPoison.get x)))
  ∧ (∀ (f : FU) (s : State), s.Runs (shape (.olCnt f)) → opn s f.lit f.a < min 16 (myPlot s).ntiles →
    ReadsPoison s (.olCnt f) f.nw f.d (BitVec.ofNat 32 ((myPlot s).tiles.get (opn s f.lit f.a)).listCount) false)
  ∧ ∀ (f : FDab) (s : State), let n := opn s f.lit f.a; let x := opn s f.lit f.b; let v := (me s).src32 f.lit f.d
    (s.Runs (shape (.accWr f)) → n < min 4 (myPlot s).naccs → x < 16384 →
      Does s (.accWr f) (s.modAcc (me s).plot n (fun q => { q with v := q.v.set x v, poison := q.poison.set x false })))
    ∧ (s.Runs (shape (.tileWr f)) → n < min 16 (myPlot s).ntiles → x < 8192 → ((myPlot s).tiles.get n).w ∈ [4, 6, 8, 16] →
      ∃ q', Does s (.tileWr f) (s.modTile (me s).plot n (fun _ => q'))
        ∧ q' = { (myPlot s).tiles.get n with data := q'.data, poison := q'.poison }
        ∧ ∀ a, q'.data.get a = if 4 * x ≤ a ∧ a < 4 * x + 4 then (leBytes 4 v.toNat).getD (a - 4 * x) 0
            else ((myPlot s).tiles.get n).data.get a)
    ∧ (s.Runs (shape (.olWr f)) → n < min 16 (myPlot s).ntiles → x < 128 →
      Does s (.olWr f) (s.modTile (me s).plot n (fun q => { q with
        list := q.list.set x v, listPoison := q.listPoison.set x false, listCount := max q.listCount (x + 1) })))

/-- From R44, R136, R137, R202, R210, R382 to R384: tenant micro-sequences are bound, loaded and run. -/
def Obligations.TenantSequences : Prop :=
  (∀ (f : FAB) (s : State), s.Runs (shape (.wcsbind f)) →
    let x := opn s f.lit f.a
    let b := opn s f.lit f.b
    (4095 < x ∨ (3 < b ∧ b ≠ 0xFFFFFFFF) → Faults s (.wcsbind f) 2 0)
    ∧ (x ≤ 4095 → (b ≤ 3 ∨ b = 0xFFFFFFFF) → (me s).wait ≠ .bankWait → (∀ e ∈ s.threads, e.2.mrun = none) → ∃ c',
      Does s (.wcsbind f) { s with cores := s.cores.set (myCore s) c' }
      ∧ (b ≤ 3 → (c'.banks.get b).bound = some x)
      ∧ ∀ k, k < 4 → k ≠ b → (c'.banks.get k).bound =
          if (s.cores.get (myCore s)).bankOf x = some k then none else ((s.cores.get (myCore s)).banks.get k).bound))
  ∧ (∀ (f : FA) (s : State) (bs : List Byte), s.Runs (shape (.wcsld f)) →
    let va := (me s).src64 f.lit f.a
    let b := (me s).src32 f.lit f.b
    let bank := b.toNat % 4
    let sel := b.toNat / 256 % 64
    let ws := (List.range ((bs.length - 4) / 4)).map (fun k => BitVec.ofNat 32 (leNat ((bs.drop (4 + 4 * k)).take 4)))
    va.toNat % 4 = 0 → va.toNat < 2 ^ 60 → (me s).bulk = some bs → 4 < bs.length →
    wcsVerify (BitVec.ofNat 32 (leNat (bs.take 4))) b ws (((s.cores.get (myCore s)).banks.get bank).free sel) = none →
    (me s).wait ≠ .bankWait → (∀ e ∈ s.threads, e.2.mrun = none) →
    DoesReg s (.wcsld f) (s.modCore (myCore s) (fun c => { c with
      banks := c.banks.modify bank (fun q => { q with seqs := q.seqs.set sel ws }) })) f.nw f.d 0)
  ∧ ∀ (f : FX) (s : State) (b : Nat) (ws : List Word) (w : Word),
    s.macroSeq (me s) (f.x.toNat * 16 + f.s.toNat) = some (b, ws) → s.Runs (shMacro ws f) → (me s).mrun = none →
    (∀ v ∈ ws, uOp v ≠ 0x20 ∧ uOp v ≠ 0x21) →
    let r := pureSteps ws 64 (macroStart f b (shape (.userMacro f)).len (me s))
    commitWords ws r.i = [w] → uOp w = 0x22 →
    ∃ g', Does s (.userMacro f) (withMe s { me s with g := g', fpsr := (me s).fpsr ||| r.flags })
      ∧ ∀ k, g'.get k = if k < 60 ∧ f.d.toNat < 60 ∧ k = f.d.toNat + uMd w % 2 then r.src (uS1 w) 0 else (me s).g.get k

/-- From R134, R135, R312, R313: results of `cfgld`, and `cfg.drop`. -/
def Obligations.ConfigurationWords : Prop :=
  (∀ (f : FA) (s : State), s.Runs (shape (.cfgld f)) →
    let va := (me s).src64 f.lit f.a
    let h := opn s f.lit f.b
    let held : Bool := (s.grids.get (myCore s)).cfgs.any (fun q => !q.captured && q.ctx == (me s).ctx && q.handle == h)
    (va.toNat % 128 ≠ 0 ∨ 2 ^ 60 ≤ va.toNat → Faults s (.cfgld f) 3 va)
    ∧ (va.toNat % 128 = 0 → va.toNat < 2 ^ 60 →
      (h = 0 ∨ 2 ^ 20 ≤ h → DoesReg s (.cfgld f) s f.nw f.d 1)
      ∧ (h ≠ 0 → h < 2 ^ 20 → held = true → DoesReg s (.cfgld f) s f.nw f.d 3)
      ∧ ∀ bs, h ≠ 0 → h < 2 ^ 20 → held = false → (me s).bulk = some bs →
        (headerOk bs = false → DoesReg s (.cfgld f) s f.nw f.d 1)
        ∧ (headerOk bs = true → 128 < bs.length → leNat ((bs.drop 4).take 4) / 2 % 2 = 0 →
          let im := parseImage bs
          (areasOk bs && im.ok) = true → ∀ m, (s.cores.get (myCore s)).seqsFor (me s).ctx im.words = some m → myCore s < 1280 →
          let q := newCfg (me s).ctx h va im m (s.grids.get (myCore s)) (s.clk (myCore s))
          ((s.grids.get (myCore s)).place q = none → DoesReg s (.cfgld f) s f.nw f.d 2)
          ∧ ∀ r, (s.grids.get (myCore s)).place q = some r →
            DoesReg s (.cfgld f) (s.modGrid (myCore s) (fun g => { g with cfgs := g.cfgs ++ [r] })) f.nw f.d 0)))
  ∧ ∀ (f : FA1) (s : State), s.Runs (shape (.cfgDrop f)) →
    let h := opn s f.lit f.a
    let mine (q : Cfg) : Bool := !q.captured && q.ctx == (me s).ctx && q.handle == h
    ∃ g' : Grid, Does s (.cfgDrop f) { s with grids := s.grids.set (myCore s) g' }
      ∧ g' = { s.grids.get (myCore s) with cfgs := g'.cfgs }
      ∧ g'.cfgs = (s.grids.get (myCore s)).cfgs.map (fun q : Cfg =>
          if mine q = true ∧ q.stage ≠ .clearing then { q with stage := .dropping } else q)

/-- From R189, R190: the arithmetic on k registers writes one of them and nothing else of the machine. R173 to R175: fields of a tile, zeroing,
and its outlier list; a tile or accumulator that the plot lacks raises ILLEGAL.FIELD, and one that the `mma` in flight uses is waited for.
-/
def Obligations.SequencerRegistersAndTileFields : Prop :=
  ((∀ e ∈ kaluOps, ∀ (d a b : BitVec 5) (s : State), s.SeqRuns → SeqWrites s (e.1 d a b) d (e.2 (kOf s a) (kOf s b)))
  ∧ (∀ (d a : BitVec 5) (s : State), s.SeqRuns → SeqWrites s (.kmov d a) d (kOf s a))
  ∧ ∀ (d : BitVec 5) (x : BitVec 16) (s : State), s.SeqRuns →
    SeqWrites s (.kaddi d x) d (BitVec.ofInt 32 ((kOf s d).toNat + x.toInt)) ∧ SeqWrites s (.kmovi d x) d (BitVec.ofInt 32 x.toInt))
  ∧ ((∀ e ∈ tsetOps, ∀ (d a : BitVec 5) (s : State), s.SeqRuns →
    ((mySeqPlot s).ntiles ≤ d.toNat → SeqFaults s (e.1 d a) 2 0 0)
    ∧ (d.toNat < (mySeqPlot s).ntiles → SeqDoes s (e.1 d a) (s.modTile s.curPlot d.toNat (e.2 s a))))
  ∧ (∀ e ∈ [(Instr.tzT, fun t : Tile => { t with
        data := [], side := [], poison := [], sidePoison := [], list := [], listPoison := [], listCount := 0 }), (.olClr, fun t => { t with listCount := 0 })],
    ∀ (d : BitVec 5) (s : State), s.SeqRuns →
    ((mySeqPlot s).ntiles ≤ d.toNat → SeqFaults s (e.1 d) 2 0 0)
    ∧ (d.toNat < (mySeqPlot s).ntiles → s.mmaReads s.curPlot d.toNat = true → SeqWaits s (e.1 d) .array)
    ∧ (d.toNat < (mySeqPlot s).ntiles → s.mmaReads s.curPlot d.toNat = false →
      SeqDoes s (e.1 d) (s.modTile s.curPlot d.toNat e.2)))
  ∧ (∀ (d : BitVec 5) (s : State), s.SeqRuns →
    ((mySeqPlot s).naccs ≤ d.toNat → SeqFaults s (.tzA d) 2 0 0)
    ∧ (d.toNat < (mySeqPlot s).naccs → s.mmaAccs s.curPlot d.toNat = true → SeqWaits s (.tzA d) .array)
    ∧ (d.toNat < (mySeqPlot s).naccs → s.mmaAccs s.curPlot d.toNat = false →
      SeqDoes s (.tzA d) (s.modAcc s.curPlot d.toNat (fun _ => { v := [], poison := [] }))))
  ∧ ∀ (d a : BitVec 5) (s : State), s.SeqRuns →
    let l := (kOf s a).toNat
    ((mySeqPlot s).ntiles ≤ d.toNat ∨ l = 0 ∨ 128 < l → SeqFaults s (.olLim d a) 2 0 0)
    ∧ (d.toNat < (mySeqPlot s).ntiles → 1 ≤ l → l ≤ 128 → ∃ t, SeqDoes s (.olLim d a) (s.modTile s.curPlot d.toNat (fun _ => t))
      ∧ t.limit = l ∧ t = { (mySeqPlot s).tiles.get d.toNat with limGap := t.limGap }))

/-- From R191 to R193: the loop stack, the conditional branch, the sequencer's barriers and the end of the stream. -/
def Obligations.SequencerControl : Prop :=
  (∀ (a : BitVec 5) (o : BitVec 16) (s : State), s.SeqRuns →
    let q := mySeq s
    let target := q.pc + BitVec.ofInt 64 (4 * o.toInt)
    (o.toInt ≤ 0 ∨ 4 ≤ q.loops.length → SeqFaults s (.krep a o) 2 0 0)
    ∧ (0 < o.toInt → q.loops.length < 4 →
      (kOf s a = 0 → SeqJumps s (.krep a o) s (target + 4))
      ∧ (kOf s a ≠ 0 → SeqDoes s (.krep a o) (s.modSeq s.curPlot (fun q => { q with loops := ((kOf s a).toNat, q.pc + 4) :: q.loops }))))
    ∧ (kOf s a = 0 → SeqDoes s (.kbnz a o) s) ∧ (kOf s a ≠ 0 → SeqJumps s (.kbnz a o) s target))
  ∧ (∀ (s : State), s.SeqRuns →
    ((mySeq s).loops = [] → SeqFaults s .kend 2 0 0)
    ∧ ∀ n va r, (mySeq s).loops = (n, va) :: r →
      (n ≤ 1 → SeqDoes s .kend (s.modSeq s.curPlot (fun q => { q with loops := r })))
      ∧ (1 < n → SeqJumps s .kend (s.modSeq s.curPlot (fun q => { q with loops := (n - 1, va) :: r })) va))
  ∧ (∀ (a : BitVec 5) (s : State), s.SeqRuns →
    let p := mySeqPlot s
    let n := a.toNat
    let b := p.nb.get n
    let arr := if 0 ∈ b.arrived then b.arrived else b.arrived ++ [0]
    let tally := arr.length + ((s.departed s.curPlot).filter (fun x => !arr.contains x)).length
    (16 ≤ n ∨ p.nbCount.get n = 0 → SeqFaults s (.cadNbarArr a) 2 0 0 ∧ SeqFaults s (.cadNbarWt a) 2 0 0)
    ∧ (n < 16 → p.nbCount.get n ≠ 0 →
      (p.seq.stores ≠ [] → SeqWaits s (.cadNbarArr a) .stores)
      ∧ (p.seq.stores = [] → ∃ m l, SeqDoes s (.cadNbarArr a) (s.modPlot s.curPlot (fun q => { q with nb := m, seq := { q.seq with nbLast := l } }))
        ∧ (∀ k, m.get k = if k = n then (if p.nbCount.get n ≤ tally then ⟨b.phase + 1, []⟩ else ⟨b.phase, arr⟩) else p.nb.get k)
        ∧ ∀ k, l.get k = if k = n then b.phase + 1 else p.seq.nbLast.get k)
      ∧ (p.seq.nbLast.get n ≤ b.phase → SeqDoes s (.cadNbarWt a) s)
      ∧ (b.phase < p.seq.nbLast.get n → SeqWaits s (.cadNbarWt a) .nbar)))
  ∧ ∀ (s : State), s.SeqRuns →
    let mine := ∃ m, (s.cores.get (mySeqPlot s).core).mmaBusy = some m ∧ m.plot = s.curPlot
    ((mySeq s).stores ≠ [] → SeqWaits s .cend .stores)
    ∧ ((mySeq s).stores = [] → mine → SeqWaits s .cend .array)
    ∧ ((mySeq s).stores = [] → ¬ mine → ∃ m,
      SeqDoes s .cend (s.modPlot s.curPlot (fun q => { q with nb := m, seq := { q.seq with running := false, ended := true } }))
      ∧ ∀ k, (16 ≤ k ∨ (mySeqPlot s).nbCount.get k = 0) → m.get k = (mySeqPlot s).nb.get k)

/-- From R171, R182 to R188: the matrix multiply of every form, with its checks and its occupation of the array. R186: with no escapes, an
integer `mma` adds the exact sums of products to its accumulator, modulo 2^32, unless ZA takes it as 0. -/
def Obligations.MatrixProducts : Prop :=
  ((∀ e ∈ mmaForms, ∀ (f : CMma) (s : State), s.SeqRuns →
    let p := mySeqPlot s
    let ta := p.tiles.get f.a.toNat
    let tb := p.tiles.get f.b.toNat
    let w := e.2.2.1
    let k := e.2.2.2.1
    (p.naccs ≤ f.d.toNat ∨ p.ntiles ≤ f.a.toNat ∨ p.ntiles ≤ f.b.toNat → SeqFaults s (e.1 f) 2 0 0)
    ∧ (f.d.toNat < p.naccs → f.a.toNat < p.ntiles → f.b.toNat < p.ntiles →
      (¬ shaped ta w 128 k → SeqFaults s (e.1 f) 10 f.a.toNat 0)
      ∧ (shaped ta w 128 k → ¬ (if e.2.2.2.2.2 then shaped tb w 128 k else shaped tb w k 128) → SeqFaults s (e.1 f) 10 f.b.toNat 0)
      ∧ (shaped ta w 128 k → (if e.2.2.2.2.2 then shaped tb w 128 k else shaped tb w k 128) →
        (¬ ArrayFree s → SeqWaits s (e.1 f) .array)
        ∧ (ArrayFree s → Multiplies s (e.1 f) e.2.1 f.d f.a f.b f.z))))
  ∧ ∀ (f : CMxf6) (s : State), s.SeqRuns →
    let p := mySeqPlot s
    let ta := p.tiles.get f.a.toNat
    let tb := p.tiles.get f.b.toNat
    (p.naccs ≤ f.d.toNat ∨ p.ntiles ≤ f.a.toNat ∨ p.ntiles ≤ f.b.toNat → SeqFaults s (.mmaMxf6 f) 2 0 0)
    ∧ (f.d.toNat < p.naccs → f.a.toNat < p.ntiles → f.b.toNat < p.ntiles →
      (¬ shaped ta 6 128 256 → SeqFaults s (.mmaMxf6 f) 10 f.a.toNat 0)
      ∧ (shaped ta 6 128 256 → ¬ shaped tb 6 256 128 → SeqFaults s (.mmaMxf6 f) 10 f.b.toNat 0)
      ∧ (shaped ta 6 128 256 → shaped tb 6 256 128 →
        (¬ ArrayFree s → SeqWaits s (.mmaMxf6 f) .array)
        ∧ (ArrayFree s → Multiplies s (.mmaMxf6 f) (.mxf6 f.p f.q) f.d f.a f.b f.z))))
  ∧ (∀ e ∈ [(Instr.mmaI8, 8, 256), (.mmaI4, 4, 512)], ∀ (f : CMma) (s : State), s.SeqRuns →
    let p := mySeqPlot s
    let ta := p.tiles.get f.a.toNat
    let tb := p.tiles.get f.b.toNat
    f.d.toNat < p.naccs → f.a.toNat < p.ntiles → f.b.toNat < p.ntiles → shaped ta e.2.1 128 e.2.2 → shaped tb e.2.1 e.2.2 128 →
    ta.esc.getLsbD 0 = false → tb.esc.getLsbD 0 = false → ArrayFree s →
    ∃ s', exec (e.1 f) s = .next s' ∧ ∀ i n, i < 128 → n < 128 →
      ((mySeqPlot s').accs.get f.d.toNat).v.get (i * 128 + n) =
        BitVec.ofInt 32 ((if f.z then 0 else (((p.accs.get f.d.toNat).v.get (i * 128 + n)).toNat : Int))
          + ((List.range e.2.2).map (fun k => sgn e.2.1 (ta.elem (i * e.2.2 + k)) * sgn e.2.1 (tb.elem (k * 128 + n)))).sum))

/-- From R176 to R179: `tld` checks its tile, its source and the number of escapes, and replaces data, sidecar and outlier list as one event.
R180, R181: tiles and accumulators stored to the scratchpad; poisoned elements, and those that share a byte with one, are not. -/
def Obligations.TileLoadsAndStores : Prop :=
  (∀ (f : CTld) (s : State), s.SeqRuns →
    let i := Instr.tld f
    let t := (mySeqPlot s).tiles.get f.d.toNat
    let sc := f.c || f.k
    let shape_ := t.w ∈ [4, 6, 8, 16] ∧ 1 ≤ t.h ∧ 1 ≤ t.c ∧ t.c * t.w % 32 = 0 ∧ t.h * t.c * t.w ≤ 262144
      ∧ (sc = true → t.h * t.c % 32 = 0) ∧ (f.k = true → t.w = 4 ∧ t.c % 32 = 0) ∧ ¬ (t.esc.getLsbD 0 = true ∧ t.w = 16)
    let base := kPairOf s f.a
    let rowLen := if f.k then t.c / 4 else t.c * t.w / 8
    let ranges := (List.range t.h).map (fun r => (rowAt base (kOf s f.b).toInt r, rowLen))
      ++ if sc then [(base + BitVec.ofInt 64 ((mySeq s).k.get (f.b.toNat + 1)).toInt, t.h * t.c / 32)] else []
    ((mySeqPlot s).ntiles ≤ f.d.toNat → SeqFaults s i 2 0 0)
    ∧ (f.d.toNat < (mySeqPlot s).ntiles → ¬ shape_ → SeqFaults s i 10 f.d.toNat 0)
    ∧ (f.d.toNat < (mySeqPlot s).ntiles → shape_ → s.mmaReads s.curPlot f.d.toNat = true → SeqWaits s i .array)
    ∧ (f.d.toNat < (mySeqPlot s).ntiles → shape_ → s.mmaReads s.curPlot f.d.toNat = false →
      (∀ s1 code va, s.checkRanges (s.whoSeq s.curPlot) (s.askSeq s.curPlot) .read ranges = (s1, .bad code va) → SeqFaults s i code 0 va)
      ∧ ∀ s1 ps, s.checkRanges (s.whoSeq s.curPlot) (s.askSeq s.curPlot) .read ranges = (s1, .ok ps) → Readable s1 s.curPlot ps.flatten →
        ∃ t', TileLoaded t t' f.k ((s1.cores.get (mySeqPlot s).core).codebooks.get (mySeqPlot s).ctx)
            (s1.readParts s.curPlot (ps.take t.h).flatten) (s1.readParts s.curPlot (ps.drop t.h).flatten)
            (s1.badBytes s.curPlot (ps.take t.h).flatten) (s1.badBytes s.curPlot (ps.drop t.h).flatten)
          ∧ (t.limit < t'.escapes → SeqFaults s i 9 (f.d.toNat % 16 + 16 * min t'.escapes 4095) 0)
          ∧ (t'.escapes = 0 → SeqDoes s i (s1.modTile s.curPlot f.d.toNat (fun _ => { t' with list := [], listPoison := [], listCount := 0 })))
          ∧ (t'.escapes ≠ 0 → t'.escapes ≤ t.limit → ∀ s2 qs,
            s1.checkRanges (s1.whoSeq s.curPlot) (s1.askSeq s.curPlot) .read [(t.esc &&& 0xFFFFFFFFFFFFFF80, 4 * t'.escapes)]
              = (s2, .ok qs) → Readable s2 s.curPlot qs.flatten →
            ∃ l lp, SeqDoes s i (s2.modTile s.curPlot f.d.toNat (fun _ =>
                { t' with list := l, listPoison := lp, listCount := t'.escapes }))
              ∧ ∀ n, l.get n = (if n < t'.escapes then
                  BitVec.ofNat 32 (leNat (((s2.readParts s.curPlot qs.flatten).drop (4 * n)).take 4)) else 0)
                ∧ lp.get n = (decide (n < t'.escapes) && ((List.range 4).any (fun j =>
                    (s2.badBytes s.curPlot qs.flatten).getD (4 * n + j) false))))))
  ∧ ((∀ (d a b : BitVec 5) (s : State), s.SeqRuns →
    let i := Instr.tstRaw ⟨d, a, b, false⟩
    let t := (mySeqPlot s).tiles.get d.toNat
    let shape_ := t.w ∈ [4, 6, 8, 16] ∧ 1 ≤ t.h ∧ 1 ≤ t.c ∧ t.c * t.w % 32 = 0 ∧ t.h * t.c * t.w ≤ 262144
    let group := if t.w = 4 then 2 else if t.w = 6 then 4 else 1
    ((mySeqPlot s).ntiles ≤ d.toNat → SeqFaults s i 2 0 0)
    ∧ (d.toNat < (mySeqPlot s).ntiles → ¬ shape_ → SeqFaults s i 10 d.toNat 0)
    ∧ (d.toNat < (mySeqPlot s).ntiles → shape_ →
      StoresRows s i t.h t.c t.w (kPairOf s a) (kOf s b).toInt (fun r j => t.data.get (r * (t.c * t.w / 8) + j))
        (fun r c => (List.range group).any (fun j => t.poison.get (r * t.c + c / group * group + j)))))
  ∧ ∀ e ∈ tstForms, ∀ (d a b : BitVec 5) (s : State), s.SeqRuns →
    let i := e.1 d a b
    let q := (mySeqPlot s).accs.get d.toNat
    let w := e.2.1
    ((mySeqPlot s).naccs ≤ d.toNat → SeqFaults s i 2 0 0)
    ∧ (d.toNat < (mySeqPlot s).naccs → s.mmaAccs s.curPlot d.toNat = true → SeqWaits s i .array)
    ∧ (d.toNat < (mySeqPlot s).naccs → s.mmaAccs s.curPlot d.toNat = false →
      StoresRows s i 128 128 w (kPairOf s a) (kOf s b).toInt
        (fun r j => (leBytes (w / 8) (e.2.2 (q.v.get (r * 128 + j / (w / 8)))).1).getD (j % (w / 8)) 0)
        (fun r c => q.poison.get (r * 128 + c) || (e.2.2 (q.v.get (r * 128 + c))).2)))

/-- From R197, R198, R199, R201, R332, R333, R338, R366, R367: what each Trellis-only word does when its slot fires; `isect` and `union` are
stated apart. -/
def Obligations.TrellisWords : Prop :=
  ∀ (s : State) (f : Firing), s.curFire = some f →
    let g := s.grids.get s.curCore
    let q := fireCfg s f
    let x (v : BitVec 6) : Tok := srcTok s f v
    let yes : Bool := (portTok f 3).lanes.headD 0 != 0
    let sends (i : Instr) (ts : List Tok) : Prop := FiresWith s i s ts
    (∀ v : BitVec 6,
      let r := min 32 (max 1 ((x v).lanes.headD 0).toNat)
      let held (n : Nat) (e : Nat × Colour) : Prop :=
        e ∈ g.colours ∧ e.2.taken = true ∧ e.2.pel = 0 ∧ e.2.ctx = q.ctx ∧ e.2.handle = q.handle ∧ e.2.num = f.colour ∧ e.2.grant = n
      (∀ n, (∃ e, held n e) → (∀ m, (∃ e, held m e) → m = n) →
        sends (.calloc v) (toBoth s f (List.replicate n (BitVec.ofNat 32 n)) (x v).poison false 0 0))
      ∧ ∀ k, k < 16 → (∀ n e, ¬ held n e) → (g.colours.get k).taken = false → (∀ j, j < k → (g.colours.get j).taken = true) →
        let n := min r (128 - (g.colours.map (fun e => e.2.grant)).sum)
        ∃ s1 : State, FiresWith s (.calloc v) s1 (toBoth s f (List.replicate n (BitVec.ofNat 32 n)) (x v).poison false 0 0)
          ∧ s1 = { s with grids := s1.grids } ∧ (∀ c, c ≠ s.curCore → s1.grids.get c = s.grids.get c)
          ∧ (s1.grids.get s.curCore).colours.get k = ⟨true, n, q.ctx, q.handle, f.colour, 0⟩
          ∧ ∀ j, j ≠ k → (s1.grids.get s.curCore).colours.get j = g.colours.get j)
    ∧ (∀ a b : BitVec 6, let l := lanesOf (x a) ++ lanesOf (x b)
      sends (.pack a b) (toBoth s f (l.take 32) ((x a).poison || (x b).poison || decide (32 < l.length)) false 0 (x a).fmt))
    ∧ (∀ t : TUnpack, let n := ((x t.b).lanes.headD 0).toNat
      let p := (x t.a).poison || (x t.b).poison
      (n = 0 ∨ (x t.a).width ≤ n → sends (.unpack t) (toOne s f f.colour (dst0 f) (lanesOf (x t.a)) p false (x t.a).fmt))
      ∧ (0 < n → n < (x t.a).width → sends (.unpack t) ((outTags s f).flatMap (fun tag =>
          [outTok s f f.colour (dst0 f).1 (dst0 f).2 tag ((lanesOf (x t.a)).take n) p false 0 (x t.a).fmt,
           outTok s f t.c.toNat (dst1 f).1 (dst1 f).2 tag ((lanesOf (x t.a)).drop n) p false 0 (x t.a).fmt]))))
    ∧ (∀ a b : BitVec 6, let y := x (if yes then a else b)
      sends (.merge a b) (toBoth s f (lanesOf y) (y.poison || (portTok f 3).poison) y.null 0 y.fmt))
    ∧ (∀ a : BitVec 6, sends (.steer a) (toOne s f f.colour (if yes then dst0 f else dst1 f) (lanesOf (x a))
        ((x a).poison || (portTok f 3).poison) (x a).null (x a).fmt))
    ∧ (∀ t : TEos, sends (.eos t) (toBoth s f [] false false t.l.toNat 0))
    ∧ (∀ a b : BitVec 6, (x a).poison = false → (x b).poison = false →
      sends (.emit a b) ((nodesOf f).map (fun n =>
        { outTok s f f.colour (32 * n) 0 f.tag (lanesOf (x a)) false ((x a).null || (x b).null) (x a).stop (x a).fmt with
          route := some ((x b).lanes.getD 1 0 ++ (x b).lanes.getD 0 0) })))
    ∧ (∀ a b : BitVec 6, (x a).poison = true ∨ (x b).poison = true → ∃ s', exec (.emit a b) s = .next s' ∧ s' = { s with dies := s'.dies }
        ∧ ((s'.dies.get (dieOf s.curCore)).mail).length = ((s.dies.get (dieOf s.curCore)).mail).length + (x a).width)
    ∧ (∀ t : TWadapt, FiresWith s (.wadapt t)
        (FireCfgs s f (fun q => { q with wads := (nodesOf f).foldl (fun m n => m.set n ⟨t.s, t.f.toNat⟩) q.wads }))
        (toBoth s f (lanesOf (x t.a)) (x t.a).poison (x t.a).null 0 (x t.a).fmt))
    ∧ (∀ t : TRed, let b := ((x t.b).lanes.headD 0).toNat
      let c : RedCfg := ⟨t.o.toNat, t.l.toNat, b % 1024, b / 1024 % 4⟩
      ((x t.a).poison = true ∨ (x t.b).poison = true → exec (.redCfg t) s = .next s)
      ∧ ((x t.a).poison = false → (x t.b).poison = false → exec (.redCfg t) s = .next (FireCfgs s f (fun q => { q with
          reds := (nodesOf f).foldl (fun m n => m.set n (if (m.get n).cfg = none then { m.get n with cfg := some c }
            else { m.get n with nextCfg := some c })) q.reds }))))
    ∧ ∀ a : BitVec 6, let l := if (x a).poison then (x a).lanes.set 10 ((x a).lanes.getD 10 0 ||| 3) else (x a).lanes
      exec (.agen a) s = .next (FireCfgs s f (fun q => { q with agens := (nodesOf f).foldl (fun m n => m.set n
        (if (m.get n).active then { m.get n with nextL := some (f.colour, f.tag, l) }
         else ⟨true, f.colour, f.tag, l, [0, 0, 0, 0], none, false⟩)) q.agens }))

/-- From R200, R339: one step of `isect` and `union` over the oldest tokens of their two fibres. A coordinate of one fibre alone is dropped by
`isect` and sent by `union`; a common one is sent with both positions; stops give the lower level; a coordinate that does not ascend is sent
with poison by both. -/
def Obligations.CoordinateStreams : Prop :=
  ∀ (s : State) (f : Firing) (a b : BitVec 6) (u : Bool), s.curFire = some f →
    let i := if u then Instr.unionCoord a b else .isect a b
    let x := srcTok s f a
    let y := srcTok s f b
    let cx := x.lanes.headD 0
    let cy := y.lanes.headD 0
    let k := (f.elem * 16 + f.slot) * 16 + f.colour
    let m := (fireCfg s f).fibs.get k
    let lowA : Bool := match m.lastA with | some l => !(l.ult cx) | none => false
    let lowB : Bool := match m.lastB with | some l => !(l.ult cy) | none => false
    let becomes (fib : Fib) : State := FireCfgs s f (fun q => { q with fibs := q.fibs.set k fib })
    let sends (fib : Fib) (c pa pb : Word) (bad : Bool) : Prop := FiresWith s i (becomes fib) ((outTags s f).flatMap (fun tag =>
      outTok s f f.colour (dst0 f).1 (dst0 f).2 tag [c] bad false 0 0
        :: (if oneDst f.word then [] else [outTok s f f.colour (dst1 f).1 (dst1 f).2 tag [pa, pb] bad false 0 0])))
    let fa : Fib := { m with posA := m.posA + 1, lastA := some cx }
    let fb : Fib := { m with posB := m.posB + 1, lastB := some cy }
    (x.stop ≠ 0 → y.stop ≠ 0 → FiresWith s i (becomes ⟨0, 0, none, none⟩) (toBoth s f [] false false (min x.stop y.stop) 0))
    ∧ (x.stop = 0 → (y.stop ≠ 0 ∨ cx.toNat < cy.toNat) →
      if u || lowA then sends fa cx (BitVec.ofNat 32 m.posA) 0xFFFFFFFF (lowA || x.poison) else exec i s = .next (becomes fa))
    ∧ (y.stop = 0 → (x.stop ≠ 0 ∨ cy.toNat < cx.toNat) →
      if u || lowB then sends fb cy 0xFFFFFFFF (BitVec.ofNat 32 m.posB) (lowB || y.poison) else exec i s = .next (becomes fb))
    ∧ (x.stop = 0 → y.stop = 0 → cx = cy →
      sends ⟨m.posA + 1, m.posB + 1, some cx, some cy⟩ cx (BitVec.ofNat 32 m.posA) (BitVec.ofNat 32 m.posB)
        (lowA || lowB || x.poison || y.poison))

/-- From R71 to R77: the shuffles, votes, reductions and scans wait for the lane event of their block, which gives each active member its
result over the active members at its address. -/
def Obligations.LaneCollectives : Prop :=
  (∀ e ∈ laneWordsA, ∀ (f : FA) (s : State), s.Issues (shape (e.1 f)) → BlockReady s e.2 →
    LaneCompletes s (e.1 f) e.2 (fun ms =>
      let v := laneValue e.2 ms ((me s).slot % 32) ((me s).src32 f.lit f.a) ((me s).src32 f.lit f.b)
      (.word f.nw f.d v.1, v.2, 0)))
  ∧ ∀ e ∈ laneWordsU, ∀ (f : FU) (s : State), s.Issues (shape (e.1 f)) → BlockReady s e.2 →
    LaneCompletes s (e.1 f) e.2 (fun ms =>
      let v := laneValue e.2 ms ((me s).slot % 32) ((me s).src32 f.lit f.a) 0
      (.word f.nw f.d v.1, v.2, 0))

/-- From R142, R154 to R158, R165 to R167: the collectives on numbers complete in the same way. -/
def Obligations.NumberCollectives : Prop :=
  (∀ e ∈ rowWords, ∀ (f : FA) (s : State), s.Issues (shape (e.1 f)) → BlockReady s e.2 →
    LaneCompletes s (e.1 f) e.2 (fun ms =>
      let p := (me s).src64 f.lit f.b
      let v := rowValue e.2 ms (me s) ((me s).src32 f.lit f.a) ((me s).src32 f.lit f.b) (p.extractLsb' 0 32) (p.extractLsb' 32 32)
      (.word f.nw f.d v.1, v.2, 0)))
  ∧ (∀ e ∈ [(Instr.vmxF4, LaneKind.vmxF4, e2m1), (.vmxE4, .vmxE4, e4m3), (.vmxE5, .vmxE5, e5m2)], ∀ (f : FV) (s : State),
    s.Issues (shape (e.1 f)) → BlockReady s e.2.1 →
    LaneCompletes s (e.1 f) e.2.1 (fun ms => (.word false f.d (w32 (vmxOf e.2.2 ms s f).1), (vmxOf e.2.2 ms s f).2, 1)))
  ∧ (∀ e ∈ [(Instr.qntF4, LaneKind.qntF4, Nf.e2m1), (.qntE4, .qntE4, .e4m3), (.qntE5, .qntE5, .e5m2)], ∀ (f : FA) (s : State),
    s.Issues (shape (e.1 f)) → BlockReady s e.2.1 → (e.1 f).wellFormed = true →
    LaneCompletes s (e.1 f) e.2.1 (fun ms =>
      (codesRes e.2.2 f (((List.range 8).map (fun i => (qntElem ms e.2.2 s f i).1 * 2 ^ (e.2.2.width * i))).sum),
       unionFlags (qntElem ms e.2.2 s f) 8, 8)))
  ∧ (∀ (f : FA) (s : State), s.Issues (shape (.amaxL f)) → BlockReady s .amaxL → (Instr.amaxL f).wellFormed = true →
    LaneCompletes s (.amaxL f) .amaxL (fun ms =>
      let j := (me s).slot % 32 / 4
      let block := (ms.filter (fun m => m.lane / 4 == j)).flatMap (fun m => (List.range 8).map (fun i => (m.lane, i, m.t.g.get (m.op.a.toNat + i))))
      let rest := block.filter (fun c => !(elected ms j).any (fun d => d.1 == c.1 && d.2.1 == c.2.1))
      (.word f.nw f.d (if block.any (fun c => (f32.decode c.2.2.toNat).isNan) then 0x7FC00000
        else w32 (rest.foldl (fun n c => max n (c.2.2.toNat % 2 ^ 31)) 0)),
       if block.any (fun c => (f32.decode c.2.2.toNat).isSnan) then 1 else 0, 0)))
  ∧ ∀ e ∈ [(Instr.qntF4o, LaneKind.qntF4o, Nf.e2m1), (.qntE4o, .qntE4o, .e4m3)], ∀ (f : FA) (s : State),
    s.Issues (shape (e.1 f)) → BlockReady s e.2.1 → (e.1 f).wellFormed = true →
    ∃ s1, exec (e.1 f) s = .next s1 ∧ (s1.thr s.cur).pc = (me s).pc
      ∧ ∀ va : DWord, let ms := lanePeers s1 (me s).plot (myBlock s) (me s).pc
        let total := (ms.map (fun m => (outlierOf ms m).2.1.length)).sum
        (∃ m ∈ ms, va = m.t.g.get (m.op.b.toNat + 3) ++ m.t.g.get (m.op.b.toNat + 2) ∧ ∀ q ∈ ms, m.lane ≤ q.lane) →
        (total = 0 ∨ ∃ o, va.toNat = 2 ^ 60 + o ∧ o + 4 * total ≤ (myPlot s).scratchLen ∧ o + 4 * total ≤ 2 ^ 60) →
        (∀ u, InBlock s u → (s.thr u).stores = [] ∧ (s.thr u).loads = []) → (me s).guard (shape (e.1 f)).g = true →
        ∃ s2, exec (.laneEvent (me s).plot (myBlock s)) s1 = .next s2
          ∧ let t' := s2.thr s.cur
            let codes := (outlierOf ms ⟨s.cur, (me s).slot % 32, me s1, ⟨e.2.1, f.d, f.a, f.b, 62, 0, f.nw, f.lit, shape (e.1 f), true⟩⟩).1
            t'.pc = (me s).pc + BitVec.ofNat 64 (shape (e.1 f)).len ∧ t'.wait = .none ∧ t'.b0 = none ∧ t'.b1 = none
            ∧ ∀ n, t'.g.get n =
              if n = f.b.toNat + 2 then (va + BitVec.ofNat 64 (4 * total)).extractLsb' 0 32
              else if n = f.b.toNat + 3 then (va + BitVec.ofNat 64 (4 * total)).extractLsb' 32 32
              else (codesRes e.2.2 f (((List.range 8).map (fun i => codes.getD i 0 * 2 ^ (e.2.2.width * i))).sum)).reg (me s).g n

/-- From R81, R88, R118, R128, R131, R134, R192, R216, R217: what the events of threads do where they are due: the packer, the ends of waits,
and the faults of limits that expire. R224 to R229: spawn bins and regroup bins are released when they are full or their timer has run
out. The first child starts in the lowest free slot with the lowest free stack area; the first thread of a regroup bin keeps its slot. -/
def Obligations.ThreadAndBinEvents : Prop :=
  ((∀ (c : Nat) (s : State), ∃ ps : List (List Nat), Gives s (.packerCycle c) { s with agenda := ps.map .peloton ++ s.agenda }
    ∧ ps.length ≤ 2
    ∧ (let may (u : Nat) : Prop := u ∈ s.threads.keys ∧ s.coreOf (s.thr u) = c ∧ s.ready u = true
      ((∃ u, may u ∧ (s.chainNext u = true → ∀ v ∈ s.chainMates u, may v)) → ps ≠ [])
      ∧ ∀ us ∈ ps, us ≠ [] ∧ (∀ u ∈ us, may u)
        ∧ ((∃ u ∈ us, s.chainNext u = true ∧ us = s.chainMates u)
          ∨ (us.length ≤ 32 ∧ ∀ u ∈ us, s.chainNext u = false ∧ ∀ v ∈ us,
              (s.thr v).ctx = (s.thr u).ctx ∧ (s.thr v).pc = (s.thr u).pc ∧ ((s.thr v).slot % 32 = (s.thr u).slot % 32 → v = u)))))
  ∧ (∀ (u : Nat) (s : State), (s.thr u).live = true → s.countsTime (s.thr u).plot = true → (s.thr u).since + 100000000 ≤ s.time →
    ((s.thr u).wait ∈ [Wait.full, .bar, .barStall, .nbar, .bobj] →
      Gives s (.barrierTimeout false u) (s.faultAt u (s.thr u).pend 14 0 0))
    ∧ ((s.thr u).wait.isLane = true →
      Gives s (.barrierTimeout false u) (((s.blockThreads (s.thr u).plot ((s.thr u).slot / 32)).filter
        (fun v => (s.thr v).wait.isLane)).foldl (fun s v => s.faultAt v (s.thr v).pend 14 0 0) s)))
  ∧ (∀ (p : Nat) (s : State), let q := (s.plots.get p).seq
    s.countsTime p = true → q.running = true → q.faulted = false → q.wait = .nbar → q.since + 100000000 ≤ s.time →
    Gives s (.barrierTimeout true p) (seqStopped s p 14))
  ∧ (∀ (u e : Nat) (s : State), (s.thr u).wait = .sleep e → (s.thr u).live = true → s.coreGoes (s.coreOf (s.thr u)) = true →
    (e ≤ s.clk (s.coreOf (s.thr u)) → Gives s (.sleepEnd u) (wakeTo s u id))
    ∧ (s.clk (s.coreOf (s.thr u)) < e → Gives s (.sleepEnd u) s))
  ∧ (∀ (u n : Nat) (s : State), (s.thr u).wait = .wfi n → (s.thr u).live = true →
    n < (s.dies.get (dieOf (s.coreOf (s.thr u)))).posted → Gives s (.wfiWake u) (wakeTo s u id))
  ∧ (∀ (u : Nat) (s : State), (s.thr u).wait = .stopped → (s.thr u).live = true →
    Gives s (.threadResume u) (wakeTo s u (fun t => { t with stop := none })))
  ∧ (∀ (u : Nat) (w l : Word) (s : State), s.nextWords u = some (w, l) → s.canTurn u = true →
    (s.thr u).wait ∈ [Wait.fence, .xfence] → s.fenceOver u w l = true → Gives s (.fenceWaitEnd u) { s with agenda := .thread u :: s.agenda })
  ∧ (∀ (u e : Nat) (m : Msg) (s : State), (s.thr u).wait = .space e m → LiveHere s u →
    (∀ s1, s.time ≤ e → s.deliver m = some s1 →
      Gives s (.sendSpaceAvailable u) (s1.modThr u (fun t => { goOn t m.nextPc with age := s.time })))
    ∧ (s.coreGoes (s.coreOf (s.thr u)) = true → e ≤ s.time → Gives s (.sendTimeout u) (s.faultAt u (s.thr u).pend 13 0 0)))
  ∧ (∀ (u e : Nat) (q : SpawnReq) (s : State), (s.thr u).wait = .queue e q → LiveHere s u →
    let full := 1024 ≤ s.pending (s.coreOf (s.thr u))
    let out := (s.launches.get (s.plotOf (s.thr u)).launch).idsOut
    let answered (s1 : State) (v : Bool) : State := s1.modThr u (fun t => { goOn (t.wrp q.nw q.p v) q.nextPc with age := s1.time })
    (¬ full → out = true → Gives s (.spawnQueueRoom u) (answered s false))
    ∧ (¬ full → out = false → Gives s (.spawnQueueRoom u) (answered (s.spawnChild u q.entry q.arg) true))
    ∧ (full → s.coreGoes (s.coreOf (s.thr u)) = true → e ≤ s.clk (s.coreOf (s.thr u)) → Gives s (.spawnWaitLimit u) (answered s false)))
  ∧ (∀ (s : State), (s.thr s.cur).live = true → Gives s .illegalOp (s.faultAt s.cur none 1 0 0))
  ∧ (∀ (s : State), s.SeqRuns → Gives s .cadenceIllegalOp (seqStopped s s.curPlot 1))
  ∧ (∀ (p : Nat) (pc : DWord) (s : State), let q := s.plots.get p
    q.live = true → q.seq.present = true → q.seq.faulted = true →
    Gives s (.sequencerResume p pc) (s.modSeq p (fun z => { z with faulted := false, pc := pc, wait := .none })))
  ∧ (∀ (c : Nat) (m : MmaRun) (s : State), (s.cores.get c).mmaBusy = some m →
    (m.ends ≤ s.clk c → Gives s (.mmaComplete c) (s.modCore c (fun q => { q with mmaBusy := none, arrayWarm := true, arrayLast := s.clk c })))
    ∧ (s.clk c < m.ends → Gives s (.mmaComplete c) s))
  ∧ (∀ (c : Nat) (s : State), let q := s.cores.get c
    q.arrayWarm = true → q.mmaBusy = none → q.arrayLast + 1024000 ≤ s.clk c →
    Gives s (.arrayIdle c) (s.modCore c (fun q => { q with arrayWarm := false })))
  ∧ (∀ (c u : Nat) (q : BankUpdate) (r : List (Nat × BankUpdate)) (s : State), (s.cores.get c).updates = (u, q) :: r →
    let s1 := s.modCore c (fun k => { k with updates := r })
    ((s.thr u).live = true → (s.thr u).wait = .bankWait →
      ((s.cores.get c).updateFits q = true → Gives s (.wcsUpdateApply c) (s1.applyUpdate c q))
      ∧ ((s.cores.get c).updateFits q = false → Gives s (.wcsUpdateApply c) (wakeTo s1 u (fun t => { t with bulk := none }))))
    ∧ ((s.thr u).live = false ∨ (s.thr u).wait ≠ .bankWait → Gives s (.wcsUpdateApply c) s1))
  ∧ ∀ (u : Nat) (r : MacroRun) (s : State), (s.thr u).mrun = some r → (s.thr u).live = true → (s.thr u).wait = .scoreboard →
    let ws := ((s.cores.get (s.coreOf (s.thr u))).banks.get r.bank).seqs.get r.sel
    (uCommit (uAt ws r.i) || uOp (uAt ws r.i) == 0x2F) = true → s.macroHit (s.thr u) r = false →
    ∃ s', Gives s (.macroCommit u) s' ∧ (s'.thr u).pc = r.next ∧ (s'.thr u).wait = .none ∧ (s'.thr u).mrun = none
      ∧ s' = { (s.commitAll u ws r) with threads := s'.threads } ∧ ∀ v, v ≠ u → s'.thr v = (s.commitAll u ws r).thr v)
  ∧ ((∀ (p : Nat) (entry : DWord) (b : Bin) (s : State), PlotHere s p → s.coreGoes (s.plots.get p).core = true →
    (s.plots.get p).bins.find? (fun b => b.entry == entry) = some b →
    let starts (i : Instr) : Prop := ∃ s', Gives s i s' ∧ ∀ k ks x xs j, b.kids = k :: ks → s.freeSlots p = x :: xs → s.freeArea p = some j →
      Started s s' p entry k ∧ (s'.thr s.nextThread).tid = k.tid ∧ (s'.thr s.nextThread).slot = x ∧ (s'.thr s.nextThread).area = j
    let due := b.ends ≤ s.clk (s.plots.get p).core
    ((32 ≤ b.kids.length ∧ s.allLanesFree p = true) ∨ (due ∧ s.freeSlots p ≠ []) → starts (.spawnBinRelease p entry))
    ∧ (due → s.freeSlots p ≠ [] → starts (.spawnBinTimer p entry))
    ∧ ∀ n r, due → s.freeSlots p = [] → s.freeBlocks (s.plots.get p).core = n :: r → ∃ s',
      Gives s (.spawnBinTimer p entry) s' ∧ n ∈ (s'.plots.get p).blocks ∧ ∀ m ∈ (s.plots.get p).blocks, m ∈ (s'.plots.get p).blocks)
  ∧ (∀ (p : Nat) (pc : DWord) (v : Word) (b : RBin) (s : State), PlotHere s p → s.coreGoes (s.plots.get p).core = true →
    (s.plots.get p).rbins.find? (fun b => b.pc == pc && b.val == v) = some b →
    let releases (i : Instr) : Prop := ∃ s', Gives s i s' ∧ ∀ u us, b.members = u :: us → u ∉ us → (s.thr u).slot < 2048 →
      s'.thr u = { s.thr u with wait := .none, age := s.time }
    (32 ≤ b.members.length ∨ (∀ u ∈ s.plotThreads p, (s.thr u).wait = .bin) → releases (.regroupBinRelease p pc v))
    ∧ (b.ends ≤ s.clk (s.plots.get p).core → releases (.regroupBinTimer p pc v))))

/-- From R214 to R222, R237 to R246, R249 to R255: launches are taken, promoted and placed; plots retire, are switched out and restored; a
context is killed. -/
def Obligations.LaunchEvents : Prop :=
  (∀ (k : Nat) (s : State), let l := s.launches.get k
    l.stage = .queued → l.pav = none → ((s.dies.get l.home).ingress.head? = some k ∨ (s.dies.get l.home).internal.head? = some k) →
    (∀ r, (unqueued s k).recordBad l = some r → Gives s (.launchTake k) ((unqueued s k).drop k r 0))
    ∧ ((unqueued s k).recordBad l = none → Gives s (.launchTake k) ((unqueued s k).takeGroups k))
    ∧ ((unqueued s k).recordBad l = none → l.groupTable = 0 → ∃ s', Gives s (.launchTake k) s'
      ∧ (s'.launches.get k).stage = .waiting ∧ k ∉ (s'.dies.get l.home).ingress ∧ k ∉ (s'.dies.get l.home).internal))
  ∧ (∀ (k : Nat) (s : State), (s.launches.get k).stage = .reading → Gives s (.groupTableReread k) (s.takeGroups k))
  ∧ (∀ (k : Nat) (s : State), let l := s.launches.get k
    l.stage ∈ [LStage.queued, .reading, .waiting] → l.pav = none → l.cls < 3 →
    (l.clsSince + [8000000, 2000000, 500000].getD l.cls 0 < s.time →
      Gives s (.launchPromotion k) (s.modLaunch k (fun l => { l with cls := l.cls + 1, clsSince := s.time })))
    ∧ (s.time ≤ l.clsSince + [8000000, 2000000, 500000].getD l.cls 0 → Gives s (.launchPromotion k) s))
  ∧ (∀ (d : Nat) (s : State),
    let picks := (((List.range 8).map s.served).filterMap (fun ks => s.pick [] ks)).filter (fun e => dieOf e.2 == d)
    (∀ k c, s.bestPick picks = some (k, c) → ∃ s', Gives s (.plotPlace d) s'
      ∧ (let p := s'.plots.get s.nextPlot
         p.live = true ∧ p.resident = true ∧ p.core = c ∧ p.launch = k ∧ p.num = (s.launches.get k).nextPlot
         ∧ p.ctx = (s.launches.get k).ctx ∧ p.seq.present = decide ((s.launches.get k).cadence ≠ 0))
      ∧ s'.nextPlot = s.nextPlot + 1 ∧ (s'.launches.get k).nextPlot = (s.launches.get k).nextPlot + 1
      ∧ s'.nextThread = s.nextThread + (s.launches.get k).plotThreads (s.launches.get k).nextPlot)
    ∧ ∀ x c, s.bestPick picks = none → s.bankWanted d ((List.range 8).map s.served).flatten = some (x, c) →
      Gives s (.plotPlace d) ((s.modDie d (fun q => { q with bankReq := q.bankReq ++ [(c, x)] })).post d ⟨.bank, [], [x, c]⟩))
  ∧ (∀ (p : Nat) (s : State), PlotHere s p → s.plotEnded p = true → s.plotQuiet p = true →
    let k := (s.plots.get p).launch
    ∃ s', Gives s (.plotRetire p) s' ∧ s'.plots.get p = default
      ∧ (∀ q, q ≠ p → (s.plots.get q).resident = true → s'.plots.get q = s.plots.get q) ∧ (∀ u, (s.thr u).plot ≠ p → s'.thr u = s.thr u)
      ∧ (s'.launches.get k).retired = (s.launches.get k).retired + 1
      ∧ ((s.launches.get k).stage = .placed → (s.launches.get k).retired + 1 = (s.launches.get k).plotCount →
          (s'.launches.get k).stage = .completed))
  ∧ (∀ (p : Nat) (s : State), PlotHere s p → isService (s.plots.get p).core = false →
    ((s.plots.get p).switching = none → ∃ s', Gives s (.contextSwitch p) s' ∧ (s'.plots.get p).switching = some s.time
      ∧ (s.plots.get p).ctx ∈ (s'.cores.get (s.plots.get p).core).barred)
    ∧ ∀ t, (s.plots.get p).switching = some t →
      (s.switchReady p = true → ∃ s', Gives s (.contextSwitch p) s' ∧ (s'.plots.get p).resident = false ∧ (s'.plots.get p).switching = none
        ∧ s'.threads = s.threads)
      ∧ (s.switchReady p = false → Gives s (.contextSwitch p) s))
  ∧ (∀ (p c : Nat) (s : State), (s.plots.get p).live = true → (s.plots.get p).resident = false → s.restoreCore (s.plots.get p) = some c →
    s.plots.wf = true →
    ∃ s', Gives s (.plotRestore p) s' ∧ (s'.plots.get p).resident = true ∧ (s'.plots.get p).core = c
      ∧ (s'.plots.get p).blocks.length ≤ (s.plots.get p).blocks.length ∧ ∀ q, q ≠ p → (s.plots.get q).core ≠ c → s'.plots.get q = s.plots.get q)
  ∧ ∀ (x : Nat) (s : State), ∃ s', Gives s (.contextKill x) s' ∧ ∀ p, (s'.plots.get p).live = true → (s'.plots.get p).ctx ≠ x

/-- From R230 to R234, R397, R398: ingress ports take tokens, launch records and their status; the launch ports of the Pavilions. -/
def Obligations.IngressEvents : Prop :=
  (∀ (n off : Nat) (data : List Byte) (s : State), s.portLive n = true → off < 0x80 →
    (off % 8 ≠ 0 ∨ data.length % 8 ≠ 0 ∨ 0x80 < off + data.length →
      Gives s (.ingressTokenWrite n off data) (s.modPort n (fun p => { p with badwr := true })))
    ∧ (off % 8 = 0 → data.length = 8 → off ≤ 0x78 → (s.ports.get n).open_.isSome = true → (s.ports.get n).dead = false →
      (s.ports.get n).skip = 0 →
      ((s.ports.get n).buf.length < 512 → Gives s (.ingressTokenWrite n off data)
        (s.modPort n (fun p => { p with buf := p.buf ++ [BitVec.ofNat 64 (leNat data)] })))
      ∧ (512 ≤ (s.ports.get n).buf.length → ∃ s', Gives s (.ingressTokenWrite n off data) s' ∧ (s'.ports.get n).ovf = true)))
  ∧ (∀ (n v : Nat) (h : DWord) (s : State), (s.ports.get n).open_ = some (h, v) → headMode h = 0 → 16 ≤ (s.ports.get n).buf.length →
    s.portLive n = true → (s.dies.get (portDie n)).stage = .up → (s.dies.get (portDie n)).ingress.length < 256 →
    let x := headCtx h
    let key := launchKey x (s.ctxs.get x).nextId
    ∃ s', Gives s (.ingressRecordEnqueue n) s' ∧ (s'.dies.get (portDie n)).ingress = (s.dies.get (portDie n)).ingress ++ [key]
      ∧ (s'.launches.get key).stage = .queued ∧ (s'.launches.get key).home = portDie n
      ∧ (s'.launches.get key).record = ((s.ports.get n).buf.take 16).flatMap (fun t => leBytes 8 t.toNat)
      ∧ (s'.ports.get n).lastId = BitVec.ofNat 32 (s.ctxs.get x).nextId)
  ∧ (∀ (n left c x : Nat) (h w : DWord) (rest : List DWord) (q : Cfg) (s : State), (s.ports.get n).open_ = some (h, left) →
    (s.ports.get n).buf = w :: rest → s.fedCfg n = some (c, q) → q.image.inTap = some x → s.portLive n = true → s.gridRuns c = true →
    q.tapEnd.get x = false → 2 ≤ left →
    let s1 := s.modPort n (fun p => { p with buf := rest, loadWait := false, open_ := some (h, left - 1) })
    (q.stage = .run → Gives s (.ingressTapFeed n) (s1.modNamed c q.name (fun q => { q with
      tapBuf := q.tapBuf.modify x (fun b => b ++ [w]), tapEnd := q.tapEnd.set x false })))
    ∧ (q.stage = .clearing → Gives s (.ingressTapFeed n) s1))
  ∧ (∀ (n : Nat) (v : Word) (s : State), s.portLive n = true →
    Gives s (.ingressStatusClear n v) (s.modPort n (fun p => { p with
      ovf := p.ovf && !v.getLsbD 2, badwr := p.badwr && !v.getLsbD 3, reject := p.reject && !v.getLsbD 4 }))
    ∧ Gives s (.ingressReset n) (s.modPort n (fun p => { p with buf := [], open_ := none, loadWait := false, skip := 0, dead := false })))
  ∧ ∀ (k : Nat) (v : DWord) (s : State), k < 4 →
    ((s.pavs.get k).busy = true → ∃ s', Gives s (.lgoWrite k) s' ∧ (s'.pavs.get k).reject = true ∧ s'.plots = s.plots)
    ∧ ((s.pavs.get k).busy = false → ∀ l0, l0 = s.lrecLaunch k → ((s.holdDesc l0.home l0.ctx).recordBad l0 = none → ∃ s',
      Gives s (.lgoWrite k) s' ∧ (s'.pavs.get k).busy = true ∧ (s'.plots.get s.nextPlot).live = true
        ∧ (s'.plots.get s.nextPlot).core = 1280 + k ∧ (s'.pavs.get k).lastId = (s.ctxs.get l0.ctx).nextId)
      ∧ ∀ r, (s.holdDesc l0.home l0.ctx).recordBad l0 = some r → ∃ s', Gives s (.lgoWrite k) s' ∧ (s'.pavs.get k).drop = true
        ∧ (s'.pavs.get k).reason = r ∧ s'.plots = s.plots)
    ∧ Gives s (.lstatClear k v) (s.modPav k (fun p => { p with drop := p.drop && !v.getLsbD 1, reject := p.reject && !v.getLsbD 2 }))
    ∧ ∃ s', Gives s (.lkillWrite k) s' ∧ (s'.pavs.get k).busy = false
      ∧ ∀ p, (s'.plots.get p).live = true → (s'.plots.get p).core ≠ 1280 + k

/-- From R257, R263 to R268, R284 to R292, R386, R399, R411: what walks, the runtime's answers, invalidation, the homes of accesses and the host
do where they are due. -/
def Obligations.MemoryEvents : Prop :=
  (∀ (d x acc : Nat) (va : DWord) (s : State) (u : Nat) (us : List Nat), s.walkers d ⟨x, va, 65536⟩ = u :: us →
    let r := (s.holdDesc d x).walk d x va.toNat (accOf acc)
    (s.thr u).ctx = x → dieOf (s.coreOf (s.thr u)) = d →
    (∀ e, r = .leaf e → ∃ s', Gives s (.translationWalk d x va acc) s' ∧ e ∈ (s'.dies.get d).tlb ∧ ∀ v ∈ u :: us, (s'.thr v).wait = .none)
    ∧ ∀ c l, r = .ending c l → s.pageOpen d x va = none → ∃ s', Gives s (.translationWalk d x va acc) s' ∧ (s'.pageOpen d x va).isSome = true
      ∧ ∀ v ∈ u :: us, ∀ a k, (s.thr v).wait = .walk a k → (s'.thr v).wait = .page a k)
  ∧ (∀ (d x : Nat) (va : DWord) (e : PageEv) (s : State), s.pageOpen d x va = some e →
    (∃ s', Gives s (.pageResolve d x va) s' ∧ s'.pageOpen d x va = none ∧ ∀ u ∈ s.pagers d e,
      (s'.thr u).wait = .none ∧ (s'.thr u).pend = none ∧ (s'.thr u).bulk = none
      ∧ (∀ q, (s.thr u).pend = some q → (s'.thr u).pc = q.pc ∧ (s'.thr u).g = q.g ∧ (s'.thr u).b0 = none ∧ (s'.thr u).b1 = none)
      ∧ ((s.thr u).pend = none → (s'.thr u).pc = (s.thr u).pc ∧ (s'.thr u).g = (s.thr u).g))
    ∧ ∀ u a k, s.pagers d e = [u] → s.pageSeqs d e = [] → s.pageLaunches d e = [] → (s.thr u).wait = .page a k →
      ∃ s1 : State, Gives s (.pageRefuse d x va) (s1.faultAt u (s.thr u).pend 3 0 a) ∧ s1.pageOpen d x va = none ∧ s1.threads = s.threads)
  ∧ (∀ (d : Nat) (v : DWord) (s : State),
    Gives s (.invWrite d v) (s.modDie d (fun q => { q with invPend := q.invPend ++ [v] }))
    ∧ Gives s (.ctxsyncWrite d v) (s.modDie d (fun q => { q with ctxPend := q.ctxPend ++ [v] }))
    ∧ Gives s (.bankdoneWrite d v) (s.modDie d (fun q => { q with bankReq := q.bankReq.filter (fun r => r.2 != v.toNat % 4096) }))
    ∧ (∀ r, (s.dies.get d).invPend = v :: r → s.invBusy v = false → ∃ s', Gives s (.invalidationComplete d) s'
      ∧ (s'.dies.get d).invPend = r ∧ (s'.dies.get d).invDone = (s.dies.get d).invDone + 1
      ∧ (let drops (e : TlbE) : Prop := e.ctx = v.toNat % 4096
            ∧ (v.getLsbD 12 = true ∨ (e.base ≤ v.toNat / 65536 * 65536 ∧ v.toNat / 65536 * 65536 < e.base + e.size))
          ∀ k e, (e ∈ (s'.dies.get k).tlb ↔ e ∈ (s.dies.get k).tlb ∧ ¬ drops e)
            ∧ (e ∈ (s'.cores.get k).tlb ↔ e ∈ (s.cores.get k).tlb ∧ ¬ drops e)))
    ∧ ∀ r, (s.dies.get d).ctxPend = v :: r → ∃ s', Gives s (.ctxsyncComplete d) s'
      ∧ (s'.dies.get d).ctxPend = r ∧ (s'.dies.get d).ctxDone = (s.dies.get d).ctxDone + 1
      ∧ ∀ k, (s'.dies.get k).held.get (v.toNat % 4096) = none ∧ ∀ x, x ≠ v.toNat % 4096 → (s'.dies.get k).held.get x = (s.dies.get k).held.get x)
  ∧ (∀ (pa : Nat) (v : DWord) (s : State),
    (0x400000000000 ≤ pa → pa < 0x400000000000 + 0x10000 * 21 → pa % 8 = 0 → Gives s (.registerWrite pa v) (s.regStore pa v))
    ∧ (pa < 0x400000000000 ∨ 0x400001000000 ≤ pa ∨ pa % 8 ≠ 0 → Gives s (.registerWrite pa v) s)
    ∧ ∀ d, d < 8 → let page := 0x400000000000 + 0x10000 * (8 + d)
      Gives s (.registerWrite page v) (s.modDie d (fun q => { q with invPend := q.invPend ++ [v] }))
      ∧ Gives s (.registerWrite (page + 0x10) v) (s.modDie d (fun q => { q with ctxBase := v.toNat / 2 ^ 19 * 2 ^ 19 }))
      ∧ Gives s (.registerWrite (page + 0x18) v) (s.modDie d (fun q => { q with ctxPend := q.ctxPend ++ [v] }))
      ∧ Gives s (.registerWrite (page + 0x08) v) s)
  ∧ (∀ (u n i : Nat) (l : Load) (p : Part) (s : State), i < 512 → (s.thr u).loads[n]? = some l → l.grp = 0 →
    l.parts[i]? = some p → p.data = none →
    (s.thr u).earlierOpen l.seq p.loc p.len = false → (s.plotOf (s.thr u)).resident = true →
    let t := s.thr u
    let filled (bs : List Byte) (s' : State) : Prop := Gives s (.homeRead u (512 * n + i)) s'
      ∧ (s'.thr u).loads = t.loads.map (fun q => if q.seq = l.seq then q.fill i bs else q) ∧ (s'.thr u).g = t.g ∧ s'.mem = s.mem
    (∀ c, s.homeFault t.plot p.loc p.len = some c →
      (l.dst = .line → Gives s (.homeRead u (512 * n + i)) (s.modThr u (fun t => { t with loads := t.loads.filter (fun k => k.seq != l.seq) })))
      ∧ (l.dst ≠ .line → t.wait ≠ .grid → Gives s (.homeRead u (512 * n + i)) (s.faultBack u l.seq l.snap l.pc c 0 (l.faultAddr p))))
    ∧ (s.homeFault t.plot p.loc p.len = none →
      (match p.loc with
      | .dev _ _ | .host _ => ∃ s', filled (s.loadBytes t l.seq p.loc p.len) s'
      | .reg pa => t.storesFirst l.seq p.loc p.len = false → ∃ s', filled (s.regRead pa p.len) s'
      | .scr o => (s.plotOf t).fullAt o p.len = true → ∃ s', filled (s.loadBytes t l.seq p.loc p.len) s'
      | .wgt d o => if (s.dies.get d).bankClosed (o / 2 ^ 9 % 2 ^ 6) then Gives s (.homeRead u (512 * n + i)) s
          else ∃ s', filled (s.loadBytes t l.seq p.loc p.len) s'
      | .rem _ _ => True)))
  ∧ (∀ (u n : Nat) (l : Load) (s : State), (s.thr u).loads[n]? = some l → (∀ p ∈ l.parts, p.data.isSome = true) →
    let bs := l.parts.flatMap (fun p => p.data.getD [])
    (∀ d k, l.dst = .regs d k false → d + k ≤ 60 → (bs.length + 3) / 4 = k → ∃ s', Gives s (.loadReturn u n) s'
      ∧ (s'.thr u).loads.length + 1 = (s.thr u).loads.length ∧ (s'.thr u).pc = (s.thr u).pc
      ∧ ∀ j, (s'.thr u).g.get j = if d ≤ j ∧ j < d + k then (wordsOf bs).getD (j - d) 0 else (s.thr u).g.get j)
    ∧ (∀ k, l.dst = .bulk k → (s.thr u).wait = .bulk → Gives s (.loadReturn u n) (s.modThr u (fun t =>
        { t with loads := t.loads.eraseIdx n, bulk := some bs, wait := .none, age := s.time }))))
  ∧ (∀ (u n : Nat) (h : Held) (bs : List Byte) (s : State), u < 2 ^ 32 → (s.thr u).stores[n]? = some h → h.op = .store bs → bs.length = h.len →
    s.heldReady (s.thr u) h = true → h.grp = 0 →
    let fault := s.homeFault (s.thr u).plot h.loc h.len
    (∀ c, plainHome h.loc = true → fault = some c →
      Gives s (.storePerform u n) ((s.imprecise u c h.pc h.addr 0).modThr u (fun t => { t with stores := t.stores.filter (· != h) })))
    ∧ (plainHome h.loc = true → fault = none → IsFirst s (h.acc u) h.loc h.len → ∃ s', Gives s (.storePerform u n) s'
      ∧ HomeStored s s' (s.thr u).plot h.loc bs ∧ s'.thr u = performed (s.thr u) h s.time ∧ ∀ v, v ≠ u → s'.thr v = s.thr v)
    ∧ ∀ pa, h.loc = .reg pa → fault = none →
      Gives s (.storePerform u n) ((s.regBytes pa bs).modThr u (fun t => performed t h s.time)))
  ∧ (∀ (p : Nat) (h : Held) (hs : List Held) (bs : List Byte) (s : State), (s.plots.get p).seq.stores = h :: hs → h.op = .store bs →
    bs.length = h.len → ∀ pa key, h.loc = .dev pa key → s.homeFault p h.loc h.len = none → IsFirst s (.tile p h.seq) h.loc h.len →
    ∃ s', Gives s (.storePerform (2 ^ 32 + p) 0) s' ∧ DevStored s s' pa key bs ∧ s'.threads = s.threads
      ∧ (s'.plots.get p).seq = { (s.plots.get p).seq with stores := (h :: hs).filter (· != h), tDone := max (s.plots.get p).seq.tDone s.time })
  ∧ (∀ (u n d : Nat) (h : Held) (op : AOp) (x y : DWord) (q : Snap) (s : State), (s.thr u).stores[n]? = some h → h.op = .amo op x y d q →
    s.heldReady (s.thr u) h = true → s.atomFull (s.thr u) h = true → plainHome h.loc = true →
    let fault := s.homeFault (s.thr u).plot h.loc h.len
    (∀ c, fault = some c → (s.thr u).precise h = true →
      Gives s (.atomicPerform u n) (s.faultBack u h.seq q h.pc c 0 h.addr))
    ∧ (fault = none → IsFirst s (h.acc u) h.loc h.len →
      let old := leNat (s.homeBytes (s.thr u).plot h.loc h.len)
      ∃ s', Gives s (.atomicPerform u n) s'
      ∧ HomeStored s s' (s.thr u).plot h.loc (leBytes h.len (atomNew op h.len (BitVec.ofNat 64 old) x y).toNat)
      ∧ (∀ k, k < 60 → (s'.thr u).g.get k = if d < 60 ∧ k = d then BitVec.ofNat 32 old
          else if d < 60 ∧ h.len = 8 ∧ k = d + 1 then BitVec.ofNat 32 (old / 2 ^ 32) else (s.thr u).g.get k)
      ∧ (s'.thr u).stores.length < (s.thr u).stores.length ∧ ∀ v, v ≠ u → s'.thr v = s.thr v))
  ∧ (∀ (pa : Nat) (data : List Byte) (s : State), data ≠ [] → pa + data.length ≤ 0xC000000000 → IsFirst s (.host pa) (.dev pa 0) data.length →
    ∃ s', Gives s (.hostWrite pa data) s' ∧ DevStored s s' pa 0 data ∧ s'.threads = s.threads ∧ s'.hostMem = s.hostMem)
  ∧ (∀ (pa n : Nat) (s : State), 0 < n → pa + n ≤ 0xC000000000 → Gives s (.hostRead pa n) { s with hostData := s.devRead pa 0 n })
  ∧ (∀ (pa op : Nat) (x y : DWord) (s : State), op < 3 → pa % 8 = 0 → pa + 8 ≤ 0xC000000000 → IsFirst s (.host pa) (.dev pa 0) 8 →
    let old := leNat (s.devRead pa 0 8)
    let new := [(old + x.toNat) % 2 ^ 64, x.toNat, if old = y.toNat then x.toNat else old].getD op 0
    ∃ s', Gives s (.hostAtomicop pa op x y) s' ∧ DevStored s s' pa 0 (leBytes 8 new) ∧ s'.hostData = leBytes 8 old)
  ∧ (∀ (d b : Nat) (s : State),
    ((s.dies.get d).bankClosed b = true → Gives s (.weightBankRefresh d b) s)
    ∧ ((s.dies.get d).bankClosed b = false → ∃ s', Gives s (.weightBankRefresh d b) s' ∧ ∀ u,
      s'.thr u = if (s.thr u).live ∧ (s.thr u).wait = .bank then { s.thr u with wait := .none, age := s.time } else s.thr u))
  ∧ ∀ (d off : Nat) (data : List Byte) (s : State), d < 8 → off + data.length ≤ 2 ^ 31 →
    (∀ x ∈ s.ctxsOn d, ∀ v, v < 16 → ∀ p o, s.boundDie (s.desc d x).vd v = some (p, o) → p ≠ d) →
    ∃ s', Gives s (.weightStoreLoad d off data) s' ∧ s' = { s with dies := s'.dies }
      ∧ ∀ a, (s'.dies.get d).weight.get a = if off ≤ a ∧ a < off + data.length then data.getD (a - off) 0 else (s.dies.get d).weight.get a

/-- From R115, R122 to R126, R274 to R280: the bytes of copies, the tiles of streams and the elements of gathers and scatters. -/
def Obligations.TransferEvents : Prop :=
  (∀ (c n k o i : Nat) (q : Copy) (s : State), (s.cores.get c).copies.find? (fun x => x.id == n) = some q → s.clockRuns c = true →
    (s.plots.get q.plot).resident = true →
    let e := q.desc.piece k
    e.2.2 ≠ 0 →
    q.sent.get k = false →
    (q.done.get k = 0 → ScratchAt s q.plot (BitVec.ofNat 64 e.1) e.2.2 o → ScratchAt s q.plot (BitVec.ofNat 64 e.2.1) e.2.2 i →
      CleanAt s q.plot e.2.2 o → CleanAt s q.plot e.2.2 i →
      ∃ s', Gives s (.copyBytesPerform c n k) s' ∧ ScrHas s s' q.plot o (scr s q.plot i e.2.2)
        ∧ (∃ q', (s'.cores.get c).copies.find? (fun x => x.id == n) = some q' ∧ q'.done.get k = s.time + 1) ∧ s'.threads = s.threads)
    ∧ (q.done.get k ≠ 0 → q.done.get k ≤ s.time → q.counted.get k = false → e.2.2 ≤ objLeft s q.plot q.desc.bobj →
      ∃ s', Gives s (.copyBytesPerform c n k) s' ∧ objLeft s' q.plot q.desc.bobj = objLeft s q.plot q.desc.bobj - e.2.2
        ∧ ∃ q', (s'.cores.get c).copies.find? (fun x => x.id == n) = some q' ∧ q'.counted.get k = true))
  ∧ (∀ (c n : Nat) (q : Copy) (s : State), (s.cores.get c).copies.find? (fun x => x.id == n) = some q →
    ((∀ k ∈ q.desc.pieces, q.counted.get k = true) →
      Gives s (.copyRetire c n) ((s.modCore c (fun k => { k with copies := k.copies.filter (fun x => x.id != n) })).restartSaved c))
    ∧ ((∃ k ∈ q.desc.pieces, q.counted.get k = false) → Gives s (.copyRetire c n) s))
  ∧ (∀ (c t : Nat) (k : Copy) (s : State), (s.cores.get c).copies = [k] → (s.plots.get k.plot).switching = some t →
    (t + 200000 ≤ s.time → ∃ s', Gives s (.copyCancel c) s' ∧ (s'.cores.get c).copies = []
      ∧ (s'.plots.get k.plot).savedCopies = (s.plots.get k.plot).savedCopies ++ [k.saved])
    ∧ (s.time < t + 200000 → ∃ s', Gives s (.copyCancel c) s' ∧ (s'.cores.get c).copies = [k] ∧ s'.plots = s.plots))
  ∧ (∀ (c h : Nat) (s s1 : State), let m := (s.cores.get c).streams.get h
    let p := s.plots.get m.plot
    let src := BitVec.ofInt 64 ((m.src.toNat : Int) + m.tstride * m.next + m.pos)
    let k := m.next % m.nslot
    let off := m.ring + k * (128 * m.slotB) + m.pos
    let line := m.ring / 128 + k * m.slotB + (m.pos / 128 - 1)
    m.active = true → p.resident = true → p.switching = none → s.clockRuns c = true → m.next < m.ntile → m.next < m.freed + m.nslot →
    m.slots.get k = .ready →
    (m.posAt = 0 ∨ m.pos % 128 ≠ 0 →
      (∀ ps, s.engCheck (s.whoPlot m.plot) (s.askEngine p m.thread 3) m.refused .read src 4 2 = (s1, .ok ps) →
        let bs := s1.readParts m.plot ps
        (∀ b ∈ ps, ∃ pa key, b.loc = .dev pa key) → s1.plots = s.plots → s1.cores = s.cores → bs.length = 4 →
        ∃ s', Gives s (.streamSlotFill c h) s' ∧ ScrHas s s' m.plot off bs
          ∧ ((s'.cores.get c).streams.get h).pos = m.pos + 4 ∧ ((s'.cores.get c).streams.get h).posAt = s.time + 1)
      ∧ (s.engCheck (s.whoPlot m.plot) (s.askEngine p m.thread 3) m.refused .read src 4 2 = (s1, .wait) → Gives s (.streamSlotFill c h) s1))
    ∧ (m.posAt ≠ 0 → m.pos % 128 = 0 →
      (s.time < m.posAt → Gives s (.streamSlotFill c h) s)
      ∧ (m.posAt ≤ s.time → 128 ≤ objLeft s m.plot m.bobj → ∃ s', Gives s (.streamSlotFill c h) s'
        ∧ (s'.plots.get m.plot).empty.get line = false ∧ objLeft s' m.plot m.bobj = objLeft s m.plot m.bobj - 128
        ∧ (m.pos = 128 * m.slotB → ((s'.cores.get c).streams.get h).next = m.next + 1
            ∧ ((s'.cores.get c).streams.get h).slots.get k = .filled m.next))))
  ∧ (∀ (c h k : Nat) (s : State), let m := (s.cores.get c).streams.get h
    m.active = true → ((List.range m.nslot).map (fun i => (m.freed + i) % m.nslot)).find? (fun k => m.slots.get k == .noticed) = some k →
    Gives s (.freedSlotNotice c h) (s.modStream c h (fun m => { m with slots := m.slots.set k .ready })))
  ∧ ∀ (p n i o1 o2 o3 : Nat) (g : Gs) (s : State), (s.plots.get p).gss.find? (fun g => g.seq == n) = some g → i < g.count →
    (s.plots.get p).resident = true → g.sent.get i = false →
    let idx := leNat (scr s p o1 4)
    (g.done.get i = 0 → (s.plots.get p).gsMay g i = true →
      ScratchAt s p (g.index + BitVec.ofNat 64 (4 * i)) 4 o1 → ScratchAt s p (g.dense + BitVec.ofNat 64 (g.esz * i)) g.esz o2 →
      ScratchAt s p (g.table + BitVec.ofNat 64 (idx * g.esz)) g.esz o3 → CleanAt s p 4 o1 → CleanAt s p g.esz o2 → CleanAt s p g.esz o3 →
      (g.scatter = false → ∃ s', Gives s (.gsElementPerform p n i) s' ∧ ScrHas s s' p o2 (scr s p o3 g.esz))
      ∧ (g.scatter = true → g.op = 0 → ∃ s', Gives s (.gsElementPerform p n i) s' ∧ ScrHas s s' p o3 (scr s p o2 g.esz))
      ∧ (g.scatter = true → g.op = 1 → g.esz = 4 → o3 % 4 = 0 → ∃ s', Gives s (.gsElementPerform p n i) s'
        ∧ ScrHas s s' p o3 (leBytes 4 ((leNat (scr s p o3 4) + leNat (scr s p o2 4)) % 2 ^ 32))))
    ∧ (g.done.get i ≠ 0 → g.done.get i ≤ s.time → g.counted.get i = false → g.esz ≤ objLeft s p g.bobj →
      ∃ s', Gives s (.gsElementPerform p n i) s' ∧ objLeft s' p g.bobj = objLeft s p g.bobj - g.esz)

/-- From R126, R197 to R201, R314 to R322, R334 to R340: the slots of configurations fire in the order of their elements, tokens are delivered,
and edge nodes and circuits act, where these events are due. -/
def Obligations.TrellisEvents : Prop :=
  (∀ (c k n e sl tag : Nat) (q : Cfg) (i : Instr) (fnd : Found) (s s1 : State), let g := s.grids.get c
    let v := (q.image.elems.get e).slots.get sl
    let f := g.mkFiring q k e sl n tag v fnd
    n < 16 → g.cfgs[k]? = some q → q.open_ e sl = true → s.gridRuns c = true → slotInstr (slotOpw v) = some i →
    g.found q i (slotPm v) e sl n tag = some fnd → fireBody i ⟨c, q⟩ f s = .done s1 →
    ((∀ r ∈ s.elemTries c e, r.2.2.stalls = false → fnd.last < r.1 ∨ (fnd.last = r.1 ∧ sl ≤ r.2.1)) →
      Gives s (.slotFire c (16 * (k + 1) + n) e sl tag)
        ((s1.modGrid c (fun g => g.consume (firedPorts i ⟨c, q⟩ f fnd) e)).afterFire ⟨c, q⟩ f fnd))
    ∧ ((∃ r ∈ s.elemTries c e, r.2.2.stalls = false ∧ (r.1 < fnd.last ∨ (r.1 = fnd.last ∧ r.2.1 < sl))) →
      Gives s (.slotFire c (16 * (k + 1) + n) e sl tag) s))
  ∧ (∀ (c col e sl last : Nat) (s s1 : State), let n := s.pelAt c col
    col < 16 → s.gridRuns c = true → s.pelTry n = some ((e, sl), last, .done s1) →
    ((∀ r ∈ s.elemTries c e, r.2.2.stalls = false → last < r.1 ∨ (last = r.1 ∧ sl ≤ r.2.1)) →
      Gives s (.slotFire c col e sl ((s.pel n).tag % 65536)) s1))
  ∧ (∀ (c n : Nat) (t : Tok) (q : Cfg) (s : State), Arrives s c n t q →
    let taken (s' : State) : Prop := toksOf s' c = (toksOf s c).eraseIdx n
    (t.edge = false → q.brings t = true →
      ((s.grids.get c).arbAt t.elem < 64 → ∃ s', Gives s (.tokenDeliver c n) s' ∧ s' = { s with grids := s'.grids } ∧ taken s'
        ∧ (s'.grids.get c).arb = (s.grids.get c).arb ++ [⟨t, false, s.clk c⟩])
      ∧ (64 ≤ (s.grids.get c).arbAt t.elem → (s.grids.get c).spilt t.ctx < 7281 → ∃ s', Gives s (.tokenDeliver c n) s' ∧ taken s'
        ∧ (s'.grids.get c).arb = (s.grids.get c).arb ++ [⟨t, true, s.clk c⟩])
      ∧ (64 ≤ (s.grids.get c).arbAt t.elem → 7281 ≤ (s.grids.get c).spilt t.ctx → Gives s (.tokenDeliver c n) s))
    ∧ (t.edge = false → q.brings t = false → Gives s (.tokenDeliver c n) s)
    ∧ (t.edge = true → t.elem < 16 → ∃ s', Gives s (.tokenDeliver c n) s' ∧ taken s'
      ∧ (s'.grids.get c).arb = (s.grids.get c).arb ++ [⟨t, false, s.clk c⟩])
    ∧ (t.edge = true → 28 ≤ t.elem → ∀ r pd w k e sl, t.route.getD 0 = r → r.toNat / 2 ^ 23 % 2 ^ 9 = 0 → routeRemote r = false →
      s.boundDie (s.desc (dieOf c) (routeCtx r)).vd (routeVdie r) = some (pd, w) →
      s.routeEnd pd t.core (routeCtx r) (routeHandle r) = some (k, e, sl) → k ≠ c →
      ∃ s', Gives s (.tokenDeliver c n) s' ∧ taken s'
        ∧ toksOf s' k = toksOf s k ++ [t.into k (routeCtx r) (routeHandle r) e sl (128 * (c + 1) + t.elem)]))
  ∧ (∀ (c n : Nat) (t : Tok) (q : Cfg) (k : RedCfg) (s : State), Arrives s c n t q → t.edge = true → 16 ≤ t.elem → t.elem < 24 →
    (q.reds.get t.elem).cfg = some k → let r := q.reds.get t.elem
    let w := (s.grids.get c).widthOf q t.colour t.width
    (t.null = false → t.stop = 0 → ∃ s' q', Gives s (.reductionArrival c n) s' ∧ toksOf s' c = (toksOf s c).eraseIdx n
      ∧ named s' c q.name = some q' ∧ q'.reds.get t.elem = r.take k t)
    ∧ (t.null = false → t.stop ≠ 0 → k.level ≤ t.stop → ∃ s' q', Gives s (.reductionArrival c n) s'
      ∧ toksOf s' c = (toksOf s c).eraseIdx n ++ [edgeTok c q t t.elem w k.dst k.port (r.emit k) (r.poison && r.j != 0) (r.j == 0) 0 0,
          edgeTok c q t t.elem w k.dst k.port [] false false t.stop 0]
      ∧ named s' c q.name = some q' ∧ q'.reds.get t.elem = ⟨if r.nextCfg.isSome then r.nextCfg else r.cfg, none, [], 0, false⟩)
    ∧ (t.null = true ∨ (t.stop ≠ 0 ∧ t.stop < k.level) → ∃ s', Gives s (.reductionArrival c n) s'
      ∧ toksOf s' c = (toksOf s c).eraseIdx n ∧ (s'.grids.get c).cfgs = (s.grids.get c).cfgs))
  ∧ (∀ (c n : Nat) (t : Tok) (q : Cfg) (s : State), Arrives s c n t q → t.edge = true → 24 ≤ t.elem → t.elem < 28 →
    let a := q.wads.get t.elem
    let w := (s.grids.get c).widthOf q t.colour t.width
    let sends (l : List Word) (poison null : Bool) (stop fmt : Nat) : Prop := ∃ s', Gives s (.widthAdapt c n) s'
      ∧ toksOf s' c = (toksOf s c).eraseIdx n ++ [edgeTok c q t t.elem w (32 * t.elem) 0 l poison null stop fmt]
    (t.stop ≠ 0 ∨ t.null = true → sends [] t.poison t.null t.stop 0)
    ∧ (t.stop = 0 → t.null = false → (t.adapt a).1 ≠ [] → (t.adapt a).1.length ≤ 32 → sends (t.adapt a).1 (t.adapt a).2 false 0 a.target))
  ∧ (∀ (c h node n e sl : Nat) (q : Cfg) (s : State), named s c h = some q → s.gridRuns c = true → q.stage = .run →
    (q.agens.get node).active = true → q.memSlot node = some (e, sl) →
    let a := q.agens.get node
    let grant := (s.grids.get c).widthOf q a.colour 1
    let width := if q.feedsCoord node then 1 else grant
    let per := max 1 (if a.size = 8 then width / 2 else width)
    let words := if a.size = 8 ∧ q.feedsCoord node = false then 2 * per else per
    let out (lanes : List Word) (poison : Bool) (stop : Nat) : Tok :=
      edgeTok c q { (default : Tok) with colour := a.colour, tag := a.tag } node grant (e * 16 + sl) 0 lanes poison false stop 0
    let stops (k : Nat) : List Tok := ((a.step k).2).map (fun l => out [] false l)
    n = min per (a.extent 0 - a.idx 0) → a.bad = false →
    (a.op = 3 → ∃ s' q', Gives s (.agenStep c h node) s'
      ∧ toksOf s' c = toksOf s c ++ out (List.replicate words 0) true 0 :: stops n
      ∧ named s' c h = some q' ∧ q'.agens.get node = a.after n)
    ∧ (a.op = 2 → ∃ s' q', Gives s (.agenStep c h node) s' ∧ toksOf s' c = toksOf s c ++ stops 1
      ∧ named s' c h = some q' ∧ q'.agens.get node = a.after 1)
    ∧ ∀ (ls : List (List Word × Bool)) (s1 : State), a.op = 0 → s.nodeAccess ⟨c, q⟩ (a.spot node)
        ((List.range n).map (fun k => ⟨a.addr (a.idx 0 + k), .load .none a.size false false⟩)) = (s1, .ok ls) → s1.grids = s.grids →
      (∀ l ∈ ls, l.2 = false) → ∃ s' q', Gives s (.agenStep c h node) s'
      ∧ toksOf s' c = toksOf s c
          ++ out (let w : List Word := ls.flatMap (fun l : List Word × Bool => l.1); (w ++ List.replicate (words - w.length) 0).take words) false 0
            :: stops n
      ∧ named s' c h = some q' ∧ q'.agens.get node = a.after n)
  ∧ (∀ (c h node e sl : Nat) (q : Cfg) (s : State), named s c h = some q → s.gridRuns c = true → q.stage = .run →
    q.tapSlot node = some (e, sl) →
    let g := (s.grids.get c).widthOf q 0 2
    let k := max 1 (g / 2)
    let b := q.tapBuf.get node
    let lanes (n : Nat) : List Word :=
      ((b.take n).flatMap (fun v : DWord => [v.extractLsb' 0 32, v.extractLsb' 32 32]) ++ List.replicate g 0).take g
    let out (l : List Word) (stop : Nat) : Tok :=
      edgeTok c q { (default : Tok) with tag := q.tapTag.get node } node g (e * 16 + sl) 0 l false false stop 0
    (k ≤ b.length → q.tapEnd.get node = false → ∃ s' q', Gives s (.ingressTapInject c h node) s' ∧ toksOf s' c = toksOf s c ++ [out (lanes k) 0]
      ∧ named s' c h = some q' ∧ q'.tapBuf.get node = b.drop k)
    ∧ (b ≠ [] → b.length ≤ k → q.tapEnd.get node = true → ∃ s' q', Gives s (.ingressTapInject c h node) s'
      ∧ toksOf s' c = toksOf s c ++ [out (lanes k) 0, out [] 3]
      ∧ named s' c h = some q' ∧ q'.tapBuf.get node = [] ∧ q'.tapEnd.get node = false))
  ∧ ∀ (c node dst xfers k : Nat) (s : State), s.gridRuns c = true →
    (0 < xfers → xfers ≤ 4095 → node < 32 → dst < 1280 → (∀ q ∈ (s.grids.get c).circuits, q.node ≠ node ∨ q.dst ≠ dst) →
      ∃ s' i, Gives s (.circuitSetup c node dst xfers) s' ∧ (s'.grids.get c).circuits = (s.grids.get c).circuits ++ [⟨node, dst, xfers, i, s.clk c⟩])
    ∧ Gives s (.circuitRelease c k) (s.modGrid c (fun g => { g with circuits := g.circuits.eraseIdx k }))
    ∧ ∀ q, (s.grids.get c).circuits[k]? = some q →
      (q.since + 16000 * (q.idle + 1) ≤ s.clk c →
        Gives s (.circuitIdle c k) (s.modGrid c (fun g => { g with circuits := g.circuits.eraseIdx k })))
      ∧ (s.clk c < q.since + 16000 * (q.idle + 1) → Gives s (.circuitIdle c k) s)

/-- From R297 to R304, R313, R325 to R332, R341 to R350: captures and drains, the shrinking, saving, clearing and releasing of regions, and
Kickstand, where these events are due. -/
def Obligations.TrellisRegionEvents : Prop :=
  (∀ (c x : Nat) (head : DWord) (b : Body) (s : State), s.gridRuns c = true →
    s.bodies.find? (fun b => b.core == c && b.ctx == x && b.head == head) = some b →
    let s1 := { s with bodies := s.bodies.filter (· != b) }
    let goes (s' : State) : Prop := ∀ u ∈ b.threads, (s.thr u).wait = .capture →
      (s'.thr u).pc = head ∧ (s'.thr u).wait = .none ∧ (s'.thr u).b0 = none ∧ (s'.thr u).b1 = none
    (∀ q, s1.captureCfg b = .body q →
      (∀ r, (s.grids.get c).place q = some r → Gives s (.capturePlace c x head) (s1.modGrid c (fun g => { g with cfgs := g.cfgs ++ [r] })))
      ∧ ((s.grids.get c).place q = none → ∃ s', Gives s (.capturePlace c x head) s' ∧ goes s' ∧ s' = { s1 with threads := s'.threads }))
    ∧ (s1.captureCfg b = .unread → ∃ s', Gives s (.capturePlace c x head) s' ∧ goes s' ∧ s' = { s1 with threads := s'.threads })
    ∧ (s1.captureCfg b = .broken → ∃ s', Gives s (.capturePlace c x head) s' ∧ goes s' ∧ (x, head) ∈ (s'.cores.get c).failed
      ∧ s'.bodies = s.bodies.filter (· != b)))
  ∧ (∀ (c x u : Nat) (head : DWord) (s : State), s.gridRuns c = true → s.entrantGroup c x head = [u] →
    let t := s.thr u
    let may := ∃ q col, (s.grids.get c).captureOf x head = some q ∧ t.mayEnter = true ∧ (s.grids.get c).pickColour = some col
      ∧ (s.plots.get t.plot).switching = none ∧ q.stage = .run
    (¬ may → ∃ s', Gives s (.captureEntry c x head) s' ∧ (s'.thr u).pc = head ∧ (s'.thr u).wait = .none
      ∧ (s'.thr u).b0 = none ∧ (s'.thr u).b1 = none ∧ s' = { s with threads := s'.threads })
    ∧ (may → (s.grids.get c).freeLanes = 0 ∨ t.inFlight = true → Gives s (.captureEntry c x head) s)
    ∧ ∀ q col, (s.grids.get c).captureOf x head = some q → t.mayEnter = true → (s.grids.get c).pickColour = some col →
      (s.plots.get t.plot).switching = none → q.stage = .run → 1 ≤ (s.grids.get c).freeLanes → t.inFlight = false →
      ∃ s', Gives s (.captureEntry c x head) s'
        ∧ (s'.thr u).wait = .grid ∧ (s'.thr u).pc = head ∧ (s'.thr u).pel = s.nextPel ∧ s'.nextPel = s.nextPel + 1
        ∧ (s'.thr u).b0 = none ∧ (s'.thr u).b1 = none
        ∧ (s'.pel s.nextPel).lanes = [u] ∧ (s'.pel s.nextPel).colour = col ∧ (s'.pel s.nextPel).tag = 0
        ∧ (s'.grids.get c).colours.get col = ⟨true, 1, x, 0, col, s.nextPel⟩)
  ∧ (∀ (c col : Nat) (s : State), PelHere s c col →
    let n := s.pelAt c col
    let p := s.pel n
    (∀ q, p.mayClose = true → (s.grids.get c).captureOf p.ctx p.head = some q → p.open_ < p.tag → p.left = [] → p.lanes ≠ [] →
      ∃ s', Gives s (.iterationClose c col) s' ∧ (s'.pel n).open_ = p.open_ + 1 ∧ (s'.pel n).tag = p.tag ∧ (s'.pel n).lanes = p.lanes
        ∧ ∀ u ∈ p.lanes, (s'.thr u).spec = some (s.commitSeq p p.open_ u))
    ∧ (p.drain = none → (s.plots.get p.plot).switching.isSome = true → ∃ s', Gives s (.drain c col) s'
        ∧ (s'.pel n).drain = some ⟨p.open_, s.clk c, some p.open_⟩ ∧ s'.threads = s.threads)
    ∧ (p.drain = none → (s.plots.get p.plot).switching = none → Gives s (.drain c col) s)
    ∧ (∀ d, p.drain = some d → d.b = none → d.f ≤ p.open_ → ∃ s', Gives s (.drain c col) s'
        ∧ (s'.pel n).drain = some { d with b := some d.f } ∧ s'.threads = s.threads)
    ∧ (∀ d, p.drain = some d → d.b = none → d.since + 65536000 ≤ s.clk c → ∃ s', Gives s (.drainCloseLimit c col) s'
        ∧ (s'.pel n).drain = some { d with b := some (min d.f p.open_) } ∧ s'.threads = s.threads)
    ∧ ∀ d b u, p.drain = some d → d.b = some b → b ≤ p.open_ → b ≤ p.tag → p.lanes = [u] → (s.thr u).scrOwed = false →
        let over_ (s' : State) : Prop := Gives s (.drainComplete c col) s' ∧ (s'.pel n).live = false
          ∧ ((s'.grids.get c).colours.get p.colour).taken = false
        (∀ k, p.left = [] → p.ckpts.get b = [k] → k.thread = u → ∃ s', over_ s'
          ∧ s'.thr u = { ((s.thr u).restore k.snap).breakLatches with
              pc := p.head
              loads := (s.thr u).loads.filter (fun l => decide (l.seq < k.seq))
              stores := (s.thr u).stores.filter (fun h => decide (h.seq < k.seq) || (match (s.thr u).spec with
                | some q => decide (h.seq < q)
                | none => true))
              wait := .none, pel := 0, spec := none, age := s.time, pend := none })
        ∧ ∀ g, p.left = [(u, g)] → g < b → ∃ s', over_ s'
          ∧ s'.thr u = { (s.thr u).breakLatches with wait := .none, pel := 0, spec := none, age := s.time, pend := none })
  ∧ (∀ (c h : Nat) (q : Cfg) (s : State), named s c h = some q → s.gridRuns c = true →
    (∀ quarter, (if q.phases ≠ 0 then q.addr else if quarter then q.image.altqtr else q.image.althalf) ≠ 0 → q.stage = .run →
      ∃ s' q', Gives s (.regionShrink c h quarter) s' ∧ named s' c h = some q' ∧ q' = { q with stage := .halted true })
    ∧ (∀ quarter bs s1 r, q.phases = 0 → (if quarter then q.image.altqtr else q.image.althalf) ≠ 0 → q.stage = .halted true → q.faults = [] →
      (s.grids.get c).occupied q = false → s.cfgImage ⟨c, q⟩ (if quarter then q.image.altqtr else q.image.althalf) = (s1, some bs) →
      s1.withImage c q bs (if quarter then 4 else 2) (keptBy quarter) = some r → s1.grids = s.grids →
      ∃ s' q', Gives s (.regionShrink c h quarter) s' ∧ named s' c h = some q' ∧ q'.stage = .run ∧ q'.phases = (if quarter then 4 else 2)
        ∧ q'.image.elems = (parseImage bs).elems ∧ (∀ e, q'.phase.get e = 0)
        ∧ ∀ e ∈ (parseImage bs).elems.keys, (if quarter then e / 8 < 4 ∨ e % 8 < 4 else e % 8 < 4))
    ∧ (∀ e, q.phases ≠ 0 → e ∈ q.image.elems.keys → q.phaseSince.get e + 256000 ≤ s.clk c → ∃ s' q', Gives s (.phaseSwitch c h e) s'
      ∧ named s' c h = some q' ∧ ∀ x, q'.phase.get x = if x = e then (q.phase.get e + 1) % q.phases else q.phase.get x)
    ∧ (∀ va, q.stage = .run → ∃ s' q', Gives s (.regionSave c h va) s' ∧ named s' c h = some q' ∧ q' = { q with stage := .halted false })
    ∧ (∀ va bs s1 s2 ls, q.stage = .halted false → (s.grids.get c).occupied q = false → s.cfgImage ⟨c, q⟩ q.addr = (s1, some bs) →
      128 ≤ bs.length →
      s1.nodeAccess ⟨c, q⟩ Site.imageSpot [⟨va, .store (q.savedImage (s.grids.get c) bs) none⟩] = (s2, .ok ls) →
      ∃ s', Gives s (.regionSave c h va) s' ∧ named s' c h = none ∧ s' = { s2 with grids := s'.grids })
    ∧ (∃ s' q', Gives s (.regionClear c h) s' ∧ named s' c h = some q' ∧ q'.stage = .clearing ∧ q'.agens = []
      ∧ ∀ a ∈ (s'.grids.get c).arb, q.owns a.tok = false)
    ∧ (q.stage = .clearing → (s.grids.get c).occupied q = false → ∃ s', Gives s (.regionRelease c h) s' ∧ named s' c h = none)
    ∧ (q.stage = .clearing → (s.grids.get c).occupied q = true → Gives s (.regionRelease c h) s)
    ∧ (q.stage = .dropping → q.hung = false → (s.grids.get c).occupied q = false →
      ∃ s', Gives s (.cfgDropDone c h) s' ∧ named s' c h = none))
  ∧ (∀ (c h k : Nat) (t : Tok) (s : State), let q := (s.grids.get c).cfgs.getD k default
    s.gridRuns c = true → (s.grids.get c).placeNamed h = some k → s.tokenOf c q = some t → q.hung = false →
    (q.lastFire + 1000 * 2 ^ 24 ≤ s.clk c → ∃ s', Gives s (.hangDetect c h) s'
      ∧ (s'.grids.get c).cfgs = (s.grids.get c).cfgs.modify k (fun q => { q with hung := true })
      ∧ (s'.dies.get (dieOf c)).mail.length = (s.dies.get (dieOf c)).mail.length + 1)
    ∧ (s.clk c < q.lastFire + 1000 * 2 ^ 24 → Gives s (.hangDetect c h) s))
  ∧ ∀ (c : Nat) (s : State), s.gridCore c = true →
    let g := s.grids.get c
    (g.kick.stop = false → ∃ s', Gives s (.kctlStop c) s' ∧ s'.threads = s.threads ∧ (s'.grids.get c).kick =
      { g.kick with stop := true, stopAt := s.time, stopClk := s.clk c, kdcnt := (g.arb ++ (s.pelsOf c).flatMap s.pelOpds).length })
    ∧ (g.kick.stop = true → ∃ s', Gives s (.kctlResume c) s' ∧ (s'.grids.get c).kick.stop = false
      ∧ (s'.grids.get c).toks = g.toks
      ∧ (s'.grids.get c).arb = g.arb.map (fun a => { a with at_ := a.at_ + (s.clk c - g.kick.stopClk) }))
    ∧ (∀ on, ∃ s', Gives s (.kctlTrace c on) s' ∧ (s'.grids.get c).kick = { g.kick with trace := on })
    ∧ (∀ second b, b < 8 → g.kick.hsel < 1024 → ∃ s', Gives s (.hvalClear c second) s'
      ∧ (s'.grids.get c).histSel b = if decide (4 ≤ b) == second then 0 else g.histSel b)
    ∧ ∀ v : DWord, v.toNat < 2 ^ 20 → v ≠ 0 → ∃ s', Gives s (.kclrWrite c v) s'
      ∧ ∀ q ∈ (s'.grids.get c).cfgs, q.captured = false → q.handle = v.toNat → q.stage = .clearing

/-- From R401 to R405, R412, R423, R424: the rings and lanes of the Pavilions, corrections of device time, errors and self-tests. -/
def Obligations.PavilionAndErrorEvents : Prop :=
  (∀ (k : Nat) (s : State), k < 4 → (s.pavs.get k).started = false → ∃ s', Gives s (.pavilionStart k) s'
    ∧ (s'.pavs.get k).started = true ∧ ∀ n, n < 1024 → ((s'.pavs.get k).rings.get n).acq = true ∧ ((s'.pavs.get k).rings.get n).drive = 0x800
      ∧ ((s'.pavs.get k).rings.get n).lock = false)
  ∧ (∀ (k n : Nat) (v : Word) (s : State), k < 4 → n < 1024 →
    let r := (s.pavs.get k).rings.get n
    (v.getLsbD 12 = true → r.acq = true → ∃ s', Gives s (.htrWrite k n v) s' ∧ s'.pavs.get k = s.pavs.get k)
    ∧ (v.getLsbD 12 = true → r.acq = false → ∃ s', Gives s (.htrWrite k n v) s'
      ∧ (let r' := (s'.pavs.get k).rings.get n
         r'.drive = v.toNat % 4096 ∧ r'.off = false ∧ r'.acq = r.off ∧ (r.off = false → r'.lock = r.lock))
      ∧ ∀ m, m ≠ n → (s'.pavs.get k).rings.get m = (s.pavs.get k).rings.get m)
    ∧ (v.getLsbD 12 = false → r.acq = false → ∃ s', Gives s (.htrWrite k n v) s'
      ∧ (let r' := (s'.pavs.get k).rings.get n
         r'.drive = v.toNat % 4096 ∧ r'.off = true ∧ r'.lock = false ∧ r'.mon = 0)
      ∧ (n % 16 ≠ 15 → r.off = false → ((s.pavs.get k).banks.get (n / 16)).moved = false →
          n % 16 ∈ ((s'.pavs.get k).banks.get (n / 16)).down)))
  ∧ (∀ (k n drive : Nat) (s : State), ((s.pavs.get k).rings.get n).acq = true → drive < 4096 →
    (∃ s', Gives s (.ringAcquisitionDone k n true drive) s'
      ∧ (let r := (s'.pavs.get k).rings.get n
         r.drive = drive ∧ r.acq = false ∧ r.lock = true ∧ -8 ≤ r.err ∧ r.err ≤ 8 ∧ r.since = s.time))
    ∧ ∃ s', Gives s (.ringAcquisitionDone k n false drive) s'
      ∧ (let r := (s'.pavs.get k).rings.get n
         r.drive = 0 ∧ r.off = true ∧ r.acq = false ∧ r.lock = false ∧ r.err = 0))
  ∧ (∀ (k n : Nat) (err : Word) (s : State), let r := (s.pavs.get k).rings.get n
    let e : Int := (err.setWidth 16).toInt
    r.acq = false → r.off = false →
    (r.lock = true → (e < -8 ∨ 8 < e) → ∃ s', Gives s (.ringLockLost k n err) s'
      ∧ (s'.pavs.get k).rings.get n = { r with err := e, lock := false, since := s.time }
      ∧ (n % 16 = 15 → ((s'.pavs.get k).banks.get (n / 16)).sbf = true))
    ∧ (r.lock = false → -8 ≤ e → e ≤ 8 → ∃ s', Gives s (.ringLockRegained k n err) s'
      ∧ (s'.pavs.get k).rings.get n = { r with err := e, lock := true, since := s.time }))
  ∧ (∀ (k b i : Nat) (s : State), k < 4 → b < 64 → let p := s.pavs.get k
    (p.acqBank b = false → i < 15 → ∃ s', Gives s (.bankSubSet k b i) s'
      ∧ (let q := (s'.pavs.get k).banks.get b
         q.sub = i ∧ q.suben = true ∧ q.tuning = some i) ∧ ((s'.pavs.get k).rings.get (16 * b + 15)).acq = true)
    ∧ (p.acqBank b = false → (p.banks.get b).suben = true → ∃ s', Gives s (.bankSubClear k b) s'
      ∧ (let q := (s'.pavs.get k).banks.get b
         q.suben = false ∧ q.tuning = some 15 ∧ q.moved = false) ∧ ((s'.pavs.get k).rings.get (16 * b + 15)).acq = true)
    ∧ (i < 15 → i ∉ (p.banks.get b).down → (p.carrier b i).lock = false → (p.carrier b i).since + 10000 ≤ s.time →
      ∃ s', Gives s (.laneRetire k b i) s' ∧ (∀ j, j ∈ ((s'.pavs.get k).banks.get b).down ↔ j = i ∨ j ∈ (p.banks.get b).down))
    ∧ (i ∈ (p.banks.get b).down → (p.carrier b i).lock = true → (p.carrier b i).since + 10000 ≤ s.time →
      ∃ s', Gives s (.laneReturn k b i) s' ∧ (∀ j, j ∈ ((s'.pavs.get k).banks.get b).down ↔ j ≠ i ∧ j ∈ (p.banks.get b).down)))
  ∧ (∀ (link ns : Nat) (s : State),
    (s.fabricTime ≠ some link → Gives s (.fabricTimeWord ns link) s)
    ∧ (s.fabricTime = none → (link = (if s.hostDown.get 0 then 1 else 0) → s.hostDown.get link = false →
        Gives s (.ptmExchange ns link) { s with skew := (ns : Int) - s.time })
      ∧ (link ≠ (if s.hostDown.get 0 then 1 else 0) → Gives s (.ptmExchange ns link) s))
    ∧ (s.fabricTime = some link → Gives s (.fabricTimeWord ns link) { s with skew := (ns : Int) - s.time })
    ∧ (s.fabricTime ≠ none → Gives s (.ptmExchange ns link) s)
    ∧ (link < 2 → Gives s (.hostLinkDown link) { s with hostDown := s.hostDown.set link true }
      ∧ Gives s (.hostLinkUp link) { s with hostDown := s.hostDown.set link false }))
  ∧ (∀ (d : Nat) (s : State), ∃ s', Gives s (.platformMessage d) s' ∧ (s'.dies.get d).posted = (s.dies.get d).posted + 1
    ∧ (s'.dies.get d).mail.length = (s.dies.get d).mail.length + 1)
  ∧ (∀ (u : UnitId) (s : State), u.kind ≤ 6 → ∃ s', Gives s (.errorDetect u) s'
    ∧ (s'.dies.get u.die).tests = (s.dies.get u.die).tests ++ [(u.kind, u.idx, s.time)]
    ∧ (s'.dies.get u.die).errs.get (u.kind * 65536 + u.idx % 65536) = (s.dies.get u.die).errs.get (u.kind * 65536 + u.idx % 65536) + 1)
  ∧ ∀ (u : UnitId) (s : State), (u.kind, u.idx, s.time) ∈ (s.dies.get u.die).tests →
    (∀ t ∈ (s.dies.get u.die).tests, t = (u.kind, u.idx, s.time)) →
    (∃ s', Gives s (.selfTestDone u 0) s' ∧ (s'.dies.get u.die).tests = []
      ∧ (s'.dies.get u.die).mail.length = (s.dies.get u.die).mail.length + 1 ∧ s'.cores = s.cores)
    ∧ ((u.kind = 1 ∨ u.kind = 3 ∨ u.kind = 7) → ∃ s', Gives s (.selfTestDone u 1) s' ∧ (s'.dies.get u.die).tests = []
      ∧ (s'.dies.get u.die).spares.get (u.kind * 65536 + u.idx % 65536) = (s.dies.get u.die).spares.get (u.kind * 65536 + u.idx % 65536) + 1)
    ∧ (u.kind = 5 → s.ctxsAt (· == 160 * u.die + u.idx % 160) = [] → ∃ s', Gives s (.selfTestDone u 1) s'
      ∧ (s'.cores.get (160 * u.die + u.idx % 160)).fenced = true ∧ (s'.dies.get u.die).tests = [])

/-- From R134, R290 to R292, R382, R412 to R422: the energy registers and windows, operating points, gating, waking, fencing and resetting of
dies, key slots, and the resets of a core and of the package. -/
def Obligations.DieAndEnergyEvents : Prop :=
  (∀ (v : DWord) (s : State),
    Gives s (.pwinWrite v) { s with energy := { s.energy with pwin := v.toNat % 2 ^ 32 } }
    ∧ Gives s (.prsvWrite v) { s with energy := { s.energy with prsv := v.toNat } }
    ∧ Gives s (.pcapWrite v) { s with energy := { s.energy with capGap := 7 - v.toNat % 8 } }
    ∧ (let x := v.toNat % 4096
       let b := (s.ctxs.get x).pannier + (v.extractLsb' 12 52).toInt
       ∃ s', Gives s (.pancrWrite v) s' ∧ (s'.ctxs.get x).pannier = b ∧ ∀ y, y ≠ x → s'.ctxs.get y = s.ctxs.get y)
    ∧ let k := launchKey (s.energy.plimid.toNat % 4096) (s.energy.plimid.toNat / 2 ^ 32)
      (s.launches.get k).live = true → (s.launches.get k).record.length = 128 → ∃ s', Gives s (.plimsetWrite v) s'
        ∧ (s'.launches.get k).field 56 8 = v.toNat
        ∧ ((s'.launches.get k).paused = true ↔ (s.launches.get k).paused = true ∨ (v ≠ 0 ∧ v.toNat < (s.launches.get k).debit)))
  ∧ (∀ (m : Measure) (s : State), ∃ s', Gives s (.energyWindow m) s' ∧ s'.energy.windows = s.energy.windows + 1
    ∧ s'.energy.used = windowEnergy m ∧ s'.energy.prsv = s.energy.prsv - (windowEnergy m - s.energy.pwin)
    ∧ (∀ d, d < 8 → s'.nextPoint m d ≠ (s'.dies.get d).op → (s'.dies.get d).opNext = some (s'.nextPoint m d))
    ∧ ∀ k, windowLaunches m = [k] →
      let x := k / 2 ^ 32
      let e := windowDebit m (fun q => q / 2 ^ 32 == x)
      ((e : Int) ≤ (s.ctxs.get x).pannier → (s'.ctxs.get x).pannier = (s.ctxs.get x).pannier - e
        ∧ (s'.ctxs.get x).panRsv = (s.ctxs.get x).panRsv)
      ∧ ((s.launches.get k).live = true → (s'.launches.get k).debit = (s.launches.get k).debit + windowDebit m (· == k)))
  ∧ (∀ (d p : Nat) (s : State), (s.dies.get d).opNext = some p → p < 8 → ∃ s', Gives s (.opPointSettled d) s'
    ∧ (s'.dies.get d).opNext = none ∧ (s'.dies.get d).op = p ∧ s' = { s with dies := s'.dies })
  ∧ (∀ (d : Nat) (s : State), s.mayGate d = true → ∃ s', Gives s (.dieGate d) s' ∧ (s'.dies.get d).stage = .gated
    ∧ (s'.dies.get d).weight = [] ∧ (∀ c, 160 * d ≤ c → c < 160 * (d + 1) → (s'.cores.get c).off = true ∧ (s'.cores.get c).banks = [])
    ∧ (∀ c, c < 160 * d ∨ 160 * (d + 1) ≤ c → s'.cores.get c = s.cores.get c) ∧ s'.mem = s.mem ∧ ∀ e, e ≠ d → s'.dies.get e = s.dies.get e)
  ∧ (∀ (d : Nat) (s : State), (s.dies.get d).stage = .gated → (s.dies.get d).disabled = false → ∃ s', Gives s (.dieWake d) s'
    ∧ (s'.dies.get d).stage = .waking (s.time + 200000) ∧ (s'.dies.get d).cols = 0)
  ∧ (∀ (d t : Nat) (s : State), (s.dies.get d).stage = .waking t →
    (s.time < t → Gives s (.columnStart d) s)
    ∧ (t ≤ s.time → ∃ s', Gives s (.columnStart d) s' ∧ (s'.dies.get d).cols = (s.dies.get d).cols + 1
      ∧ (s'.dies.get d).stage = (if (s.dies.get d).cols + 1 < 20 then .waking (t + 2000) else .up)
      ∧ ∀ i, i < 8 → (s'.cores.get (160 * d + 8 * (s.dies.get d).cols + i)).off = false))
  ∧ (∀ (d : Nat) (v : DWord) (s : State),
    let n := v.toNat / 2 ^ 16 % 2 ^ 16 * 10000
    let deadline := if n = 0 then 500000 else max 50000 (min n 100000000)
    ∃ s', Gives s (.drstWrite d v) s' ∧ (s'.dies.get d).stage =
      (if v.getLsbD 0 = true ∧ (s.dies.get d).stage = .up ∧ (s.dies.get d).disabled = false then .draining (s.time + deadline)
       else (s.dies.get d).stage) ∧ s' = { s with dies := s'.dies })
  ∧ (∀ (d t : Nat) (s : State), (s.dies.get d).stage = .draining t →
    (s.dieQuiet d = true → ∃ s', Gives s (.dieFence d) s' ∧ (s'.dies.get d).fenced = true ∧ (s'.dies.get d).stage = .resetting)
    ∧ (s.dieQuiet d = false → Gives s (.dieFence d) s)
    ∧ (t ≤ s.time → ∃ s', Gives s (.dieResetDeadline d) s' ∧ (s'.dies.get d).fenced = true ∧ (s'.dies.get d).stage = .resetting
      ∧ ∀ p, (s'.plots.get p).live = true → (s'.plots.get p).ctx ∉ s.ctxsOn d)
    ∧ (s.time < t → Gives s (.dieResetDeadline d) s))
  ∧ (∀ (d : Nat) (s : State), (s.dies.get d).stage = .resetting → ∃ s', Gives s (.dieResetWake d) s'
    ∧ (s'.dies.get d).stage = .waking (s.time + 200000) ∧ (s'.dies.get d).fenced = false ∧ (s'.dies.get d).weight = []
    ∧ (s'.dies.get d).ctxBase = (s.dies.get d).ctxBase)
  ∧ (∀ (c : Nat) (s : State), ∃ s', Gives s (.coreReset c) s' ∧ (s'.cores.get c).banks = [] ∧ (s'.cores.get c).updates = []
    ∧ s'.mem = s.mem)
  ∧ (∀ (n : Nat) (s : State), 0 < n → n < 8192 →
    Gives s (.keySlotEmpty n) { s with keys := s.keys.set n false }
    ∧ ∃ s', Gives s (.keySlotLoad n) s' ∧ s'.keys.get n = true ∧ s' = { s with keys := s'.keys, keyGen := s'.keyGen }
      ∧ s'.keyGen.get n = s.keyGen.get n + 1 ∧ ∀ k, k ≠ n → s'.keys.get k = s.keys.get k ∧ s'.keyGen.get k = s.keyGen.get k)
  ∧ ∀ (s : State), ∃ s', Gives s .packageReset s' ∧ s'.time = State.reset.time ∧ s'.threads = [] ∧ s'.plots = [] ∧ s'.launches = []
    ∧ s'.ctxs = [] ∧ s'.keys = State.reset.keys ∧ s'.hostMem = s.hostMem ∧ ∀ d, (s.dies.get d).disabled = true → (s'.dies.get d).disabled = true

/-- From R406 to R410: what a packet from another package does, what its answer is, what an answer does, and the links. -/
def Obligations.TarnilEvents : Prop :=
  (∀ (s : State) (q : Packet), Comes s 0 q → ∀ s1 ps, (received s q).packetCheck q .read q.offset (2 ^ q.size) = (s1, .ok ps) →
    ∃ s', Gives s (.tarnilRead q) s' ∧ s'.outbox = s1.outbox ++ [answerTo q 1 0 (s1.readParts 0 ps)] ∧ s'.mem = s1.mem)
  ∧ (∀ (s : State) (q : Packet), Comes s 0 q → s.admits q.ctx = false →
    Gives s (.tarnilRead q) { received s q with outbox := s.outbox ++ [answerTo q 9 2 [2]] })
  ∧ (∀ (s : State) (q : Packet), Comes s 2 q →
    (∀ s1 ps, (received s q).packetCheck q .write q.offset (2 ^ q.size) = (s1, .ok ps) →
      Gives s (.tarnilWrite q) (s1.writeParts 0 (q.data.take (2 ^ q.size)) ps))
    ∧ (∀ s1 k, (received s q).packetCheck q .write q.offset (2 ^ q.size) = (s1, .refuse k) → k < 256 →
      Gives s (.tarnilWrite q) { s1 with outbox := s1.outbox ++ [answerTo q 9 k [BitVec.ofNat 8 k]] }))
  ∧ (∀ (s s1 : State) (q : Packet) (op : AOp) (pa key n : Nat), Comes s 3 q → aopOf q.aop = some op → n = 2 ^ q.size → n = 4 ∨ n = 8 →
    q.offset % n = 0 → (received s q).packetCheck q .atomic q.offset n = (s1, .ok [⟨.dev pa key, 0, n, none⟩]) →
    let old := leNat (s1.devRead pa key n)
    let w (l : List Byte) : DWord := BitVec.ofNat 64 (leNat (l.take n))
    let new := atomNew op n (BitVec.ofNat 64 old) (w (if op = .cas then q.data.drop n else q.data)) (if op = .cas then w q.data else 0)
    ∃ s', Gives s (.tarnilAtomic q) s' ∧ s'.outbox = s1.outbox ++ [answerTo q 4 0 (leBytes n old)]
      ∧ DevStored s1 s' pa key (leBytes n new.toNat))
  ∧ (∀ (s : State) (q : Packet) (r : RemReq), requestOf s q = some r → r.late = false →
    let s1 := { received s q with remReqs := s.remReqs.filter (· != r) }
    (∀ seq off, Comes s 1 q → r.kind = .load seq off → ∃ s', Gives s (.tarnilReadData q) s' ∧ s'.remReqs = s.remReqs.filter (· != r)
      ∧ ∀ l ∈ (s'.thr r.thread).loads, l.seq = seq → ∀ p ∈ l.parts, p.off = off →
          p.data = some ((q.data ++ List.replicate p.len 0).take p.len))
    ∧ (∀ seq h op x y d z, Comes s 4 q → r.kind = .amo seq → (s.thr r.thread).stores.find? (fun h => h.seq == seq) = some h →
      h.op = .amo op x y d z → Gives s (.tarnilAtomicData q) (s1.atomDone r.thread h d (BitVec.ofNat 64 (leNat (q.data.take h.len)))))
    ∧ (∀ k off n, Comes s 1 q → r.kind = .fetch k off n →
      Gives s (.tarnilReadData q) { s1 with remGot := s.remGot ++ [⟨k, off, 0, (q.data ++ List.replicate n 0).take n⟩] })
    ∧ (∀ k off, Comes s 4 q → r.kind = .addTo k off →
      Gives s (.tarnilAtomicData q) { s1 with remGot := s.remGot ++ [⟨k, off, 0, q.data⟩] })
    ∧ (Comes s 9 q → s.remReqs.filter (fun k => k.tag == q.tag && k.pkg == q.src) = [r] →
      Gives s (.tarnilRefusal q) (({ received s q with
        remReqs := s.remReqs.filter (fun k => !(k.tag == q.tag && k.pkg == q.src))
        fabCircs := s.fabCircs.filter (fun f => !(f.outward && f.peer == q.src && f.tag == q.tag)) }).refuse r q.reason)))
  ∧ (∀ (s : State) (q : Packet), Comes s 5 q → q.offset / 2 ^ 24 = 0 →
    ∀ pd w k e sl, s.boundDie (s.desc 0 q.ctx).vd (q.offset % 16) = some (pd, w) →
    s.routeEnd pd (tokOf q.data).core q.ctx (q.offset / 16 % 2 ^ 20) = some (k, e, sl) →
    k / 160 = pd ∧ k % 160 = (tokOf q.data).core % 160
    ∧ ∃ s', Gives s (.tarnilToken q) s'
      ∧ (s'.grids.get k).toks = (s.grids.get k).toks ++ [(tokOf q.data).into k q.ctx (q.offset / 16 % 2 ^ 20) e sl (2 ^ 20 + q.src)])
  ∧ (∀ (s : State) (q : Packet), Comes s 6 q →
    (s.admits q.ctx = true → ∃ s', Gives s (.tarnilCircuitSetup q) s'
      ∧ (⟨false, q.src, q.ctx, q.tag, q.offset, min 4095 (leNat (q.data.take 2)), s.clk 1280⟩ : FabCirc) ∈ s'.fabCircs)
    ∧ (s.admits q.ctx = false → Gives s (.tarnilCircuitSetup q) { received s q with outbox := s.outbox ++ [answerTo q 9 2 [2]] }))
  ∧ (∀ (s s1 : State) (q : Packet) (f : FabCirc) (ps : List Part), Comes s 7 q → s.fabCircs = [f] → f.outward = false → f.peer = q.src →
    f.tag = q.tag → q.data ≠ [] → (received s q).packetCheck { q with ctx := f.ctx } .write f.addr q.data.length = (s1, .ok ps) →
    s1.fabCircs = [f] → (∀ p ∈ ps, ∃ pa key, p.loc = .dev pa key) →
    ∃ s', Gives s (.tarnilCircuitData q) s' ∧ s'.fabCircs = (if f.left - 1 = 0 then [] else
      [{ f with addr := f.addr + q.data.length, left := f.left - 1, since := s1.clk 1280 }])
      ∧ s'.mem = (s1.writeParts 0 q.data ps).mem)
  ∧ (∀ (s : State) (q : Packet), Comes s 8 q →
    Gives s (.tarnilCircuitRelease q) { received s q with fabCircs := s.fabCircs.filter (fun f => f.peer != q.src || f.tag != q.tag) })
  ∧ (∀ (s : State) (k : Nat) (f : FabCirc), s.fabCircs[k]? = some f → f.since + 4096000 ≤ s.clk 1280 →
    Gives s (.fabricCircuitIdle k) { s with
      fabCircs := s.fabCircs.eraseIdx k
      outbox := if f.outward then s.outbox ++ [packetTo 8 f.peer f.ctx f.tag 0 0 0 []] else s.outbox })
  ∧ (∀ (s : State) (n : Nat), n < 128 → (s.links.get n).down = false →
    ((s.links.get n).retraining = false →
      Gives s (.linkReplay n) (s.modLink n (fun l => { l with replays := l.replays + 1, errors := l.errors + 1 })))
    ∧ (16 ≤ (s.links.get n).replays → Gives s (.linkRetrain n) (s.modLink n (fun l => { l with retraining := true, replays := 0 })))
    ∧ ((s.links.get n).replays < 16 → Gives s (.linkRetrain n) s)
    ∧ ((s.links.get n).retraining = true → Gives s (.linkRetrainComplete n) (s.modLink n (fun l => { l with retraining := false })))
    ∧ ((∀ r ∈ s.remReqs, s.linkTo r.pkg ≠ some n) → ∃ s', Gives s (.tarnilLinkDown n) s' ∧ (s'.links.get n).down = true
      ∧ (∀ f, f ∈ s'.fabCircs ↔ f ∈ s.fabCircs ∧ s.linkTo f.peer ≠ some n) ∧ s'.threads = s.threads))
  ∧ ∀ (s : State) (tag : Nat) (r : RemReq), s.remReqs.find? (fun r => r.tag == tag && !r.late) = some r →
    (r.issued + 10000000 ≤ s.time → Gives s (.remoteTimeout tag) (s.lateReq r))
    ∧ (s.time < r.issued + 10000000 → Gives s (.remoteTimeout tag) s)

/-- From R27, R33, R35, R168, R169, R197, R217: a step runs what the turn at the head of the agenda names: for a thread the instruction that
the words at its program counter decode to, for a sequencer the word at its own, for a firing the word of its slot, and for an event the
event. A thread word that does not decode takes its fault. -/
def Obligations.StepRunsTheDecodedInstruction : Prop :=
  (∀ (s : State) (u : Nat) (rest : List Turn) (w l : Word) (i : Instr), let s1 := threadTurn s u rest
    (s.agenda = .thread u :: rest ∨ s.agenda = [.peloton [u]] ∧ rest = []) → s.canTurn u = true →
    s1.fetch (s1.who (me s1)) (me s1).pc = .word w → (hasLiteral w = true → s1.fetch (s1.who (me s1)) ((me s1).pc + 4) = .word l) →
    (decodeIn .thread w (if hasLiteral w then l else 0) = .ok i → ∀ s', exec i s1 = .next s' → step s = .next s')
    ∧ (decodeIn .thread w (if hasLiteral w then l else 0) = .error .op → ∀ s', exec .illegalOp s1 = .next s' → step s = .next s')
    ∧ (decodeIn .thread w (if hasLiteral w then l else 0) = .error .field →
      step s = .next (s1.faultAt u ((me s1).chainOf (threadShape w (if hasLiteral w then l else 0))) 2 0 0)))
  ∧ (∀ (s : State) (p : Nat) (rest : List Turn) (w : Word) (i : Instr) (ps : List Part), let s1 := { s with agenda := rest, curPlot := p }
    s.agenda = .seq p :: rest → s.canSeq p = true → (s.plots.get p).seq.pc.toNat % 4 = 0 → (s.plots.get p).seq.owes ps = false →
    s1.check (s1.whoSeq p) .fetch (s.plots.get p).seq.pc 4 = .ok ps →
    s1.fetch (s1.whoSeq p) (s.plots.get p).seq.pc = .word w → decodeIn .cadence w 0 = .ok i → step s = exec i s1)
  ∧ (∀ (s : State) (c : Nat) (f : Firing) (rest : List Turn) (i : Instr), s.agenda = .fire c f :: rest →
    decodeIn .trellis (slotOpw f.word) 0 = .ok i → step s = exec i { s with agenda := rest, curCore := c, curFire := some f })
  ∧ (∀ (s : State) (rest : List Turn) (i : Instr), s.agenda = .event i :: rest → encode i = [] → step s = exec i { s with agenda := rest })
  ∧ ∀ (s : State) (rest : List Turn) (n : Nat), s.agenda = .wait n :: rest →
    step s = .next ({ s with agenda := rest }.advance n).drainPhys

/-- The worked encodings of the spec, read back: thread words, Trellis-only words and Cadence words. -/
def Obligations.SampleWords : Prop :=
  decodeIn .thread 0x01C50830 0 = .ok (.add ⟨7, 5, 2, 3, false, 0⟩)
  ∧ decodeIn .thread 0x0DC72094 0 = .ok (.divS ⟨7, 7, 8, 9, false, 0⟩)
  ∧ decodeIn .thread 0x15C21052 0 = .ok (.cmpLtS ⟨7, 2, 4, 5, false, 0⟩)
  ∧ decodeIn .thread 0x19C60831 0 = .ok (.sel ⟨7, 6, 2, 3, false, 1, 0⟩)
  ∧ decodeIn .thread 0x35F313FF 0 = .ok (.cmpiGtS ⟨7, 3, 4, 0x3FF, 0⟩)
  ∧ decodeIn .thread 0x39CAFFFE 0 = .ok (.movi ⟨7, 10, 0xFFFE⟩)
  ∧ decodeIn .thread 0x41C41460 0 = .ok (.fadd ⟨7, 4, 5, 6, false, 0⟩)
  ∧ decodeIn .thread 0xC9C00014 0 = .ok (.call ⟨7, 20⟩)
  ∧ decodeIn .thread 0xCDC00002 0 = .ok (.ret ⟨7⟩)
  ∧ decodeIn .thread 0xE8000000 0 = .error .op
  ∧ decodeIn .cadence 0x14040000 0 = .ok (.tsetW 0 4)
  ∧ decodeIn .cadence 0x1D480100 0 = .ok (.kmovi 10 256)
  ∧ decodeIn .cadence 0x20060006 0 = .ok (.krep 6 6)
  ∧ decodeIn .cadence 0x22000000 0 = .ok .kend
  ∧ decodeIn .cadence 0x28000000 0 = .ok .cend
  ∧ decodeIn .trellis 0xE9C00400 0 = .ok (.calloc 1)

/-- From R27, R33, R35, R41, R42, R45, R47, R169: decoding the words of a well-formed instruction, in the stream where it stands, gives it
back, with every operand and its literal. -/
def Obligations.DecodeAfterEncode : Prop :=
  ∀ (i : Instr) (w : Word) (rest : List Word), i.wellFormed = true → encode i = w :: rest → decodeIn (streamIn i) w (rest.headD 0) = .ok i

/-- From R35, R41, R42, R45, R169: a decoder answers with well-formed instructions only, and encoding what it answers gives the words back, so
that no two words of one stream stand for one instruction. -/
def Obligations.EncodeAfterDecode : Prop :=
  ∀ (st : Stream) (w lit : Word) (i : Instr), decodeIn st w lit = .ok i →
    i.wellFormed = true ∧ streamIn i = st ∧ (encode i = [w] ∨ encode i = [w, lit])

/-- Every step keeps device memory and host memory in their canonical form, which is the model's (DESIGN CHOICE, notes/assumptions/4.md). -/
def Obligations.StepKeepsMemoryForm : Prop := ∀ s s' : State, s.MemOk → step s = .next s' → s'.MemOk

/-- A step answers a next state: whatever a turn finds, from any state, unless an event that asks for the fault of an illegal word stands
on the agenda by itself. The agenda of turns is the model's (DESIGN CHOICE, notes/assumptions/1.md). -/
def Obligations.StepAnswersNext : Prop :=
  ∀ s : State, (∀ rest, s.agenda ≠ .event .illegalOp :: rest ∧ s.agenda ≠ .event .cadenceIllegalOp :: rest) → Goes (step s)

/-- From R23, R288, R289, R382, R398, R401, R413: the machine after reset: memories in canonical form, no thread, plot or launch, device time 0,
and the registers whose reset values the spec gives. -/
def Obligations.ResetState : Prop :=
  let s := State.reset
  s.MemOk ∧ s.threads = [] ∧ s.plots = [] ∧ s.launches = [] ∧ s.time = 0 ∧ s.agenda = []
  ∧ s.energy.windows = 0 ∧ 7 - s.energy.capGap = 7
  ∧ (∀ d, (s.dies.get d).invDone = 0 ∧ (s.dies.get d).ctxDone = 0 ∧ (s.dies.get d).op = 5)
  ∧ (∀ k n, ((s.pavs.get k).rings.get n).drive = 0x800 ∧ ((s.pavs.get k).rings.get n).mon = 0 ∧ (s.pavs.get k).lctx = 0)
  ∧ ∀ c b, ((s.cores.get c).banks.get b) = default ∧ (s.cores.get c).copies = []

/-- R70: `sel gD, pN, A, B` (0x06) writes `p(FN) ? src32(A) : src32(B)` to D, FN holding N; with FN = 7 it always selects A. Its guard is
independent of the selecting predicate: where the guard is false it writes nothing. -/
def Obligations.SelectResult : Prop :=
  (∀ (f : FSel) (s : State), s.Runs (shape (.sel f)) →
    let t := me s
    Plain s (.sel f) (.word f.nw f.d (if f.p = 7 ∨ t.p.getLsbD f.p.toNat = true then t.src32 f.lit f.a else t.src32 f.lit f.b)))
  ∧ (∀ (f : FSel) (s : State), s.Issues (shape (.sel f)) → (me s).guard f.g = false →
    ∃ t', exec (.sel f) s = .next (withMe s t') ∧ t'.g = (me s).g ∧ t'.p = (me s).p ∧ t'.fpsr = (me s).fpsr ∧ t'.pc = nextPc s (.sel f))
  ∧ ∀ (w l : Word) (f : FSel), decodeIn .thread w l = .ok (.sel f) → w.extractLsb' 26 6 = 6 ∧ f.p = w.extractLsb' 0 3
    ∧ f.d = w.extractLsb' 16 6 ∧ f.a = w.extractLsb' 10 6 ∧ f.b = w.extractLsb' 4 6
end

