-- ==== Sys2Proof/Laws/Decode.lean ====
section
/-! SUPPORT. The operand shape that is read from a word's bits is that of the instruction that the thread map reads from it. -/

namespace Sys2Proof

/-- The shapes of the words that only a thread runs. -/
theorem sysShape_eq (w lit : Word) : sysShape w lit = (rawSys w lit).map Machine.shape := by
  have hn : (w.extractLsb' 0 3).toNat < 8 := (w.extractLsb' 0 3).isLt
  simp only [sysShape, rawSys]
  generalize (w.extractLsb' 0 3).toNat = n at hn
  split <;> first | rfl | (interval_cases n <;> rfl)

/-- The shape of a thread word (R27, R35). -/
theorem threadShape_eq (w lit : Word) : threadShape w lit = (rawThread w lit).map Machine.shape := by
  simp only [threadShape, rawThread, sysShape_eq]
  cases rawLoop w lit <;> rfl

end Sys2Proof
end

