-- ==== Sys2Proof/Laws/Maps.lean ====
section
/-! SUPPORT. The laws of sparse maps and memories: reading after writing, and that every operation keeps the canonical form. -/

namespace Sys2Proof.Machine

variable {α : Type} [Inhabited α] [DecidableEq α]

omit [Inhabited α] [DecidableEq α] in
theorem FMap.above_cons (k j : Nat) (v : α) (m : FMap α) : FMap.above k ((j, v) :: m) = (decide (k < j) && FMap.above k m) := by
  simp [FMap.above]

omit [Inhabited α] [DecidableEq α] in
theorem FMap.above_mono {j k : Nat} (h : j ≤ k) {m : FMap α} (hm : FMap.above k m = true) : FMap.above j m = true := by
  simp only [FMap.above, List.all_eq_true, decide_eq_true_eq] at *
  exact fun e he => Nat.lt_of_le_of_lt h (hm e he)

omit [Inhabited α] [DecidableEq α] in
theorem FMap.above_insert {j k : Nat} {v : α} {m : FMap α} :
    FMap.above j (FMap.insert k v m) = (decide (j < k) && FMap.above j m) := by
  induction m with
  | nil => simp [FMap.insert, FMap.above]
  | cons e m ih =>
    obtain ⟨i, w⟩ := e
    simp only [FMap.insert]
    split
    · simp [FMap.above]
    · simp only [FMap.above_cons, ih]
      cases decide (j < i) <;> cases decide (j < k) <;> rfl

omit [Inhabited α] [DecidableEq α] in
theorem FMap.above_erase {j k : Nat} {m : FMap α} (h : FMap.above j m = true) : FMap.above j (FMap.erase m k) = true := by
  simp only [FMap.above, FMap.erase, List.all_eq_true, List.mem_filter, decide_eq_true_eq] at *
  exact fun e he => h e he.1

theorem FMap.wf_erase {m : FMap α} (k : Nat) (h : m.wf = true) : (FMap.erase m k).wf = true := by
  induction m with
  | nil => rfl
  | cons e m ih =>
    obtain ⟨i, w⟩ := e
    simp only [FMap.wf, Bool.and_eq_true, decide_eq_true_eq] at h
    simp only [FMap.erase, List.filter_cons]
    split
    · simp only [FMap.wf, Bool.and_eq_true, decide_eq_true_eq]
      exact ⟨⟨h.1.1, FMap.above_erase h.1.2⟩, ih h.2⟩
    · exact ih h.2

theorem FMap.wf_insert {m : FMap α} {k : Nat} {v : α} (hv : v ≠ default) (hk : ∀ e ∈ m, e.1 ≠ k) (h : m.wf = true) :
    (FMap.insert k v m).wf = true := by
  induction m with
  | nil => simp [FMap.insert, FMap.wf, FMap.above, hv]
  | cons e m ih =>
    obtain ⟨i, w⟩ := e
    have hi : i ≠ k := hk (i, w) (by simp)
    have hm : ∀ e ∈ m, e.1 ≠ k := fun e he => hk e (List.mem_cons_of_mem _ he)
    simp only [FMap.wf, Bool.and_eq_true, decide_eq_true_eq] at h
    simp only [FMap.insert]
    split
    case isTrue hlt =>
      simp only [FMap.wf, FMap.above_cons, Bool.and_eq_true, decide_eq_true_eq]
      exact ⟨⟨hv, hlt, FMap.above_mono (Nat.le_of_lt hlt) h.1.2⟩, h⟩
    case isFalse hlt =>
      simp only [FMap.wf, FMap.above_insert, Bool.and_eq_true, decide_eq_true_eq]
      exact ⟨⟨h.1.1, by omega, h.1.2⟩, ih hm h.2⟩

omit [Inhabited α] [DecidableEq α] in
theorem FMap.erase_ne (m : FMap α) (k : Nat) : ∀ e ∈ FMap.erase m k, e.1 ≠ k := by
  intro e he
  simpa [FMap.erase] using (List.mem_filter.1 he).2

/-- Writing one entry keeps the canonical form. -/
theorem FMap.wf_set {m : FMap α} (k : Nat) (v : α) (h : m.wf = true) : (m.set k v).wf = true := by
  simp only [FMap.set]
  split
  · exact FMap.wf_erase k h
  · exact FMap.wf_insert ‹_› (FMap.erase_ne m k) (FMap.wf_erase k h)

/-- Changing one entry keeps the canonical form. -/
theorem FMap.wf_modify {m : FMap α} (k : Nat) (f : α → α) (h : m.wf = true) : (m.modify k f).wf = true := FMap.wf_set k _ h

/-- Writing entries one after another keeps the canonical form. -/
theorem FMap.wf_setMany {m : FMap α} (k : Nat) (vs : List α) (h : m.wf = true) : (m.setMany k vs).wf = true := by
  induction vs generalizing m k with
  | nil => exact h
  | cons v vs ih => exact ih (k + 1) (FMap.wf_set k v h)

omit [DecidableEq α] in
theorem FMap.get_insert {m : FMap α} {k j : Nat} {v : α} (hk : ∀ e ∈ m, e.1 ≠ k) :
    (FMap.insert k v m).get j = if k = j then v else m.get j := by
  induction m with
  | nil => simp [FMap.insert, FMap.get]
  | cons e m ih =>
    obtain ⟨i, w⟩ := e
    have hm : ∀ e ∈ m, e.1 ≠ k := fun e he => hk e (List.mem_cons_of_mem _ he)
    have hi : i ≠ k := hk (i, w) (by simp)
    simp only [FMap.insert]
    split
    · simp [FMap.get]
    · simp only [FMap.get, ih hm]
      split
      · split
        · omega
        · rfl
      · rfl

omit [DecidableEq α] in
theorem FMap.get_erase (m : FMap α) (k j : Nat) : (FMap.erase m k).get j = if k = j then default else m.get j := by
  induction m with
  | nil => simp [FMap.erase, FMap.get]
  | cons e m ih =>
    obtain ⟨i, w⟩ := e
    simp only [FMap.erase, List.filter_cons] at *
    by_cases hi : i = k
    · subst hi
      simp only [ne_eq, not_true_eq_false, decide_false, Bool.false_eq_true, if_false, FMap.get, ih]
      split <;> rfl
    · simp only [ne_eq, hi, not_false_eq_true, decide_true, if_true, FMap.get, ih]
      by_cases hj : i = j
      · subst hj; simp [Ne.symm hi]
      · simp [hj]

/-- Reading after writing. -/
theorem FMap.get_set (m : FMap α) (k j : Nat) (v : α) : (m.set k v).get j = if k = j then v else m.get j := by
  simp only [FMap.set]
  split
  case isTrue h =>
    rw [FMap.get_erase]
    split
    · exact h.symm
    · rfl
  case isFalse h =>
    rw [FMap.get_insert (FMap.erase_ne m k), FMap.get_erase]
    split <;> rfl

/-- Reading where one has just written. -/
@[simp] theorem FMap.get_set_same (m : FMap α) (k : Nat) (v : α) : (m.set k v).get k = v := by simp [FMap.get_set]

/-- Reading elsewhere. -/
theorem FMap.get_set_ne {m : FMap α} {k j : Nat} {v : α} (h : k ≠ j) : (m.set k v).get j = m.get j := by simp [FMap.get_set, h]

/-- Reading what one has just changed. -/
@[simp] theorem FMap.get_modify_same (m : FMap α) (k : Nat) (f : α → α) : (m.modify k f).get k = f (m.get k) := by
  simp [FMap.modify]

/-- Reading elsewhere. -/
theorem FMap.get_modify_ne {m : FMap α} {k j : Nat} {f : α → α} (h : k ≠ j) : (m.modify k f).get j = m.get j := by
  simp [FMap.modify, FMap.get_set, h]

/-- Reading outside the entries written. -/
theorem FMap.get_setMany_of_lt (m : FMap α) (k : Nat) (vs : List α) (j : Nat) (h : j < k ∨ k + vs.length ≤ j) :
    (m.setMany k vs).get j = m.get j := by
  induction vs generalizing m k with
  | nil => rfl
  | cons v vs ih =>
    simp only [List.length_cons] at h
    rw [FMap.setMany, ih (m.set k v) (k + 1) (by omega), FMap.get_set_ne (by omega)]

/-- Reading among the entries written. -/
theorem FMap.get_setMany (m : FMap α) (k : Nat) (vs : List α) (i : Nat) (h : i < vs.length) :
    (m.setMany k vs).get (k + i) = vs[i] := by
  induction vs generalizing m k i with
  | nil => simp at h
  | cons v vs ih =>
    cases i with
    | zero =>
      rw [FMap.setMany, FMap.get_setMany_of_lt _ _ _ _ (by omega)]
      simp
    | succ i =>
      have := ih (m.set k v) (k + 1) i (by simpa using h)
      simpa [FMap.setMany, Nat.add_assoc, Nat.add_comm 1 i] using this

/-- A memory write keeps the canonical form. -/
theorem Memory.wf_write {m : Memory} (a : Nat) (bs : List Byte) (h : m.wf = true) : (m.write a bs).wf = true := FMap.wf_setMany a bs h

/-- A memory write leaves every other byte alone. -/
theorem Memory.get_write_ne (m : Memory) (a : Nat) (bs : List Byte) (j : Nat) (h : j < a ∨ a + bs.length ≤ j) :
    (m.write a bs).get j = m.get j := FMap.get_setMany_of_lt m a bs j h

omit [DecidableEq α] in
theorem FMap.getMany_eq (m n : FMap α) (a k : Nat) (h : ∀ i, i < k → m.get (a + i) = n.get (a + i)) : m.getMany a k = n.getMany a k := by
  induction k generalizing a with
  | zero => rfl
  | succ k ih =>
    simp only [FMap.getMany]
    rw [show m.get a = n.get a by simpa using h 0 (by omega), ih (a + 1) (fun i hi => by
      have := h (i + 1) (by omega)
      rwa [show a + 1 + i = a + (i + 1) by omega])]

omit [DecidableEq α] in
theorem FMap.getMany_list (m : FMap α) (a : Nat) (vs : List α) (h : ∀ i (hi : i < vs.length), m.get (a + i) = vs[i]) :
    m.getMany a vs.length = vs := by
  induction vs generalizing a with
  | nil => rfl
  | cons v vs ih =>
    simp only [List.length_cons, FMap.getMany]
    rw [show m.get a = v from h 0 (by simp), ih (a + 1) (fun i hi => by
      have := h (i + 1) (by simpa using hi)
      rw [show a + 1 + i = a + (i + 1) by omega, this]
      rfl)]

/-- Reading back what has just been written. -/
theorem Memory.read_write (m : Memory) (a : Nat) (bs : List Byte) : (m.write a bs).read a bs.length = bs :=
  FMap.getMany_list _ a bs (fun i hi => FMap.get_setMany m a bs i hi)

/-- Reading beside what has just been written. -/
theorem Memory.read_write_ne (m : Memory) (a b n : Nat) (bs : List Byte) (h : b + n ≤ a ∨ a + bs.length ≤ b) :
    (m.write a bs).read b n = m.read b n :=
  FMap.getMany_eq _ _ b n (fun i hi => Memory.get_write_ne m a bs (b + i) (by omega))

/-- The low `n` bytes of a number are `n` bytes. -/
@[simp] theorem length_leBytes (n v : Nat) : (leBytes n v).length = n := by
  induction n generalizing v with
  | zero => rfl
  | succ n ih => simp [leBytes, ih]

/-- Bytes read back as the number they were made from (R13). -/
theorem leNat_leBytes (n v : Nat) : leNat (leBytes n v) = v % 256 ^ n := by
  induction n generalizing v with
  | zero => simp [leBytes, leNat, Nat.mod_one]
  | succ n ih =>
    simp only [leBytes, leNat, ih, BitVec.toNat_ofNat]
    have e : v % 256 ^ (n + 1) = v % 256 + 256 * (v / 256 % 256 ^ n) := by rw [Nat.pow_succ', Nat.mod_mul]
    rw [e]

/-! ### Memory of the package -/

/-- Bringing a line under a key slot keeps device memory canonical. -/
theorem State.memWf_rekey (s : State) (pa key : Nat) (h : s.mem.wf = true) : (s.rekey pa key).mem.wf = true := by
  simp only [State.rekey]
  split
  · exact h
  · split
    · exact h
    · exact FMap.wf_setMany _ _ h

/-- Writing a byte of device memory keeps it canonical. -/
theorem State.memWf_devSet (s : State) (pa key : Nat) (b : Byte) (h : s.mem.wf = true) : (s.devSet pa key b).mem.wf = true :=
  FMap.wf_set _ _ (State.memWf_rekey s pa key h)

/-- Writing device memory keeps it canonical. -/
theorem State.memWf_devWrite (s : State) (pa key : Nat) (bs : List Byte) (h : s.mem.wf = true) :
    (s.devWrite pa key bs).mem.wf = true := by
  induction bs generalizing s pa with
  | nil => exact h
  | cons b bs ih => exact ih _ _ (State.memWf_devSet s pa key b h)

/-- Memory after reset lists nothing, and is canonical. -/
theorem State.memWf_reset : State.reset.mem.wf = true := rfl

end Sys2Proof.Machine
end

