-- ==== Sys2Proof/Laws/State.lean ====
section
/-! SUPPORT. One lemma for each field and each update of the state, so that no proof unfolds a record update, and what the updates leave
in the entry they change. -/

namespace Sys2Proof.Machine

variable (s : State)

/-! ### setThr -/

@[simp] theorem State.setThr_plots (u : Nat) (t : Thread) : (s.setThr u t).plots = s.plots := rfl
@[simp] theorem State.setThr_cores (u : Nat) (t : Thread) : (s.setThr u t).cores = s.cores := rfl
@[simp] theorem State.setThr_dies (u : Nat) (t : Thread) : (s.setThr u t).dies = s.dies := rfl
@[simp] theorem State.setThr_ctxs (u : Nat) (t : Thread) : (s.setThr u t).ctxs = s.ctxs := rfl
@[simp] theorem State.setThr_launches (u : Nat) (t : Thread) : (s.setThr u t).launches = s.launches := rfl
@[simp] theorem State.setThr_ports (u : Nat) (t : Thread) : (s.setThr u t).ports = s.ports := rfl
@[simp] theorem State.setThr_nextThread (u : Nat) (t : Thread) : (s.setThr u t).nextThread = s.nextThread := rfl
@[simp] theorem State.setThr_nextPlot (u : Nat) (t : Thread) : (s.setThr u t).nextPlot = s.nextPlot := rfl
@[simp] theorem State.setThr_grids (u : Nat) (t : Thread) : (s.setThr u t).grids = s.grids := rfl
@[simp] theorem State.setThr_pels (u : Nat) (t : Thread) : (s.setThr u t).pels = s.pels := rfl
@[simp] theorem State.setThr_nextPel (u : Nat) (t : Thread) : (s.setThr u t).nextPel = s.nextPel := rfl
@[simp] theorem State.setThr_bodies (u : Nat) (t : Thread) : (s.setThr u t).bodies = s.bodies := rfl
@[simp] theorem State.setThr_counted (u : Nat) (t : Thread) : (s.setThr u t).counted = s.counted := rfl
@[simp] theorem State.setThr_pavs (u : Nat) (t : Thread) : (s.setThr u t).pavs = s.pavs := rfl
@[simp] theorem State.setThr_links (u : Nat) (t : Thread) : (s.setThr u t).links = s.links := rfl
@[simp] theorem State.setThr_routes (u : Nat) (t : Thread) : (s.setThr u t).routes = s.routes := rfl
@[simp] theorem State.setThr_remReqs (u : Nat) (t : Thread) : (s.setThr u t).remReqs = s.remReqs := rfl
@[simp] theorem State.setThr_remGot (u : Nat) (t : Thread) : (s.setThr u t).remGot = s.remGot := rfl
@[simp] theorem State.setThr_outbox (u : Nat) (t : Thread) : (s.setThr u t).outbox = s.outbox := rfl
@[simp] theorem State.setThr_fabCircs (u : Nat) (t : Thread) : (s.setThr u t).fabCircs = s.fabCircs := rfl
@[simp] theorem State.setThr_fabPages (u : Nat) (t : Thread) : (s.setThr u t).fabPages = s.fabPages := rfl
@[simp] theorem State.setThr_energy (u : Nat) (t : Thread) : (s.setThr u t).energy = s.energy := rfl
@[simp] theorem State.setThr_bad (u : Nat) (t : Thread) : (s.setThr u t).bad = s.bad := rfl
@[simp] theorem State.setThr_badHost (u : Nat) (t : Thread) : (s.setThr u t).badHost = s.badHost := rfl
@[simp] theorem State.setThr_mem (u : Nat) (t : Thread) : (s.setThr u t).mem = s.mem := rfl
@[simp] theorem State.setThr_hostMem (u : Nat) (t : Thread) : (s.setThr u t).hostMem = s.hostMem := rfl
@[simp] theorem State.setThr_leaseEnd (u : Nat) (t : Thread) : (s.setThr u t).leaseEnd = s.leaseEnd := rfl
@[simp] theorem State.setThr_lastP (u : Nat) (t : Thread) : (s.setThr u t).lastP = s.lastP := rfl
@[simp] theorem State.setThr_lineQ (u : Nat) (t : Thread) : (s.setThr u t).lineQ = s.lineQ := rfl
@[simp] theorem State.setThr_phys (u : Nat) (t : Thread) : (s.setThr u t).phys = s.phys := rfl
@[simp] theorem State.setThr_lineKey (u : Nat) (t : Thread) : (s.setThr u t).lineKey = s.lineKey := rfl
@[simp] theorem State.setThr_keyGen (u : Nat) (t : Thread) : (s.setThr u t).keyGen = s.keyGen := rfl
@[simp] theorem State.setThr_slices (u : Nat) (t : Thread) : (s.setThr u t).slices = s.slices := rfl
@[simp] theorem State.setThr_keys (u : Nat) (t : Thread) : (s.setThr u t).keys = s.keys := rfl
@[simp] theorem State.setThr_time (u : Nat) (t : Thread) : (s.setThr u t).time = s.time := rfl
@[simp] theorem State.setThr_skew (u : Nat) (t : Thread) : (s.setThr u t).skew = s.skew := rfl
@[simp] theorem State.setThr_slewRest (u : Nat) (t : Thread) : (s.setThr u t).slewRest = s.slewRest := rfl
@[simp] theorem State.setThr_fabricTime (u : Nat) (t : Thread) : (s.setThr u t).fabricTime = s.fabricTime := rfl
@[simp] theorem State.setThr_hostDown (u : Nat) (t : Thread) : (s.setThr u t).hostDown = s.hostDown := rfl
@[simp] theorem State.setThr_hostData (u : Nat) (t : Thread) : (s.setThr u t).hostData = s.hostData := rfl
@[simp] theorem State.setThr_cur (u : Nat) (t : Thread) : (s.setThr u t).cur = s.cur := rfl
@[simp] theorem State.setThr_curPlot (u : Nat) (t : Thread) : (s.setThr u t).curPlot = s.curPlot := rfl
@[simp] theorem State.setThr_curCore (u : Nat) (t : Thread) : (s.setThr u t).curCore = s.curCore := rfl
@[simp] theorem State.setThr_curFire (u : Nat) (t : Thread) : (s.setThr u t).curFire = s.curFire := rfl
@[simp] theorem State.setThr_agenda (u : Nat) (t : Thread) : (s.setThr u t).agenda = s.agenda := rfl
@[simp] theorem State.setThr_free (u : Nat) (t : Thread) : (s.setThr u t).free = s.free := rfl

/-! ### modThr -/

@[simp] theorem State.modThr_plots (u : Nat) (f : Thread → Thread) : (s.modThr u f).plots = s.plots := rfl
@[simp] theorem State.modThr_cores (u : Nat) (f : Thread → Thread) : (s.modThr u f).cores = s.cores := rfl
@[simp] theorem State.modThr_dies (u : Nat) (f : Thread → Thread) : (s.modThr u f).dies = s.dies := rfl
@[simp] theorem State.modThr_ctxs (u : Nat) (f : Thread → Thread) : (s.modThr u f).ctxs = s.ctxs := rfl
@[simp] theorem State.modThr_launches (u : Nat) (f : Thread → Thread) : (s.modThr u f).launches = s.launches := rfl
@[simp] theorem State.modThr_ports (u : Nat) (f : Thread → Thread) : (s.modThr u f).ports = s.ports := rfl
@[simp] theorem State.modThr_nextThread (u : Nat) (f : Thread → Thread) : (s.modThr u f).nextThread = s.nextThread := rfl
@[simp] theorem State.modThr_nextPlot (u : Nat) (f : Thread → Thread) : (s.modThr u f).nextPlot = s.nextPlot := rfl
@[simp] theorem State.modThr_grids (u : Nat) (f : Thread → Thread) : (s.modThr u f).grids = s.grids := rfl
@[simp] theorem State.modThr_pels (u : Nat) (f : Thread → Thread) : (s.modThr u f).pels = s.pels := rfl
@[simp] theorem State.modThr_nextPel (u : Nat) (f : Thread → Thread) : (s.modThr u f).nextPel = s.nextPel := rfl
@[simp] theorem State.modThr_bodies (u : Nat) (f : Thread → Thread) : (s.modThr u f).bodies = s.bodies := rfl
@[simp] theorem State.modThr_counted (u : Nat) (f : Thread → Thread) : (s.modThr u f).counted = s.counted := rfl
@[simp] theorem State.modThr_pavs (u : Nat) (f : Thread → Thread) : (s.modThr u f).pavs = s.pavs := rfl
@[simp] theorem State.modThr_links (u : Nat) (f : Thread → Thread) : (s.modThr u f).links = s.links := rfl
@[simp] theorem State.modThr_routes (u : Nat) (f : Thread → Thread) : (s.modThr u f).routes = s.routes := rfl
@[simp] theorem State.modThr_remReqs (u : Nat) (f : Thread → Thread) : (s.modThr u f).remReqs = s.remReqs := rfl
@[simp] theorem State.modThr_remGot (u : Nat) (f : Thread → Thread) : (s.modThr u f).remGot = s.remGot := rfl
@[simp] theorem State.modThr_outbox (u : Nat) (f : Thread → Thread) : (s.modThr u f).outbox = s.outbox := rfl
@[simp] theorem State.modThr_fabCircs (u : Nat) (f : Thread → Thread) : (s.modThr u f).fabCircs = s.fabCircs := rfl
@[simp] theorem State.modThr_fabPages (u : Nat) (f : Thread → Thread) : (s.modThr u f).fabPages = s.fabPages := rfl
@[simp] theorem State.modThr_energy (u : Nat) (f : Thread → Thread) : (s.modThr u f).energy = s.energy := rfl
@[simp] theorem State.modThr_bad (u : Nat) (f : Thread → Thread) : (s.modThr u f).bad = s.bad := rfl
@[simp] theorem State.modThr_badHost (u : Nat) (f : Thread → Thread) : (s.modThr u f).badHost = s.badHost := rfl
@[simp] theorem State.modThr_mem (u : Nat) (f : Thread → Thread) : (s.modThr u f).mem = s.mem := rfl
@[simp] theorem State.modThr_hostMem (u : Nat) (f : Thread → Thread) : (s.modThr u f).hostMem = s.hostMem := rfl
@[simp] theorem State.modThr_leaseEnd (u : Nat) (f : Thread → Thread) : (s.modThr u f).leaseEnd = s.leaseEnd := rfl
@[simp] theorem State.modThr_lastP (u : Nat) (f : Thread → Thread) : (s.modThr u f).lastP = s.lastP := rfl
@[simp] theorem State.modThr_lineQ (u : Nat) (f : Thread → Thread) : (s.modThr u f).lineQ = s.lineQ := rfl
@[simp] theorem State.modThr_phys (u : Nat) (f : Thread → Thread) : (s.modThr u f).phys = s.phys := rfl
@[simp] theorem State.modThr_lineKey (u : Nat) (f : Thread → Thread) : (s.modThr u f).lineKey = s.lineKey := rfl
@[simp] theorem State.modThr_keyGen (u : Nat) (f : Thread → Thread) : (s.modThr u f).keyGen = s.keyGen := rfl
@[simp] theorem State.modThr_slices (u : Nat) (f : Thread → Thread) : (s.modThr u f).slices = s.slices := rfl
@[simp] theorem State.modThr_keys (u : Nat) (f : Thread → Thread) : (s.modThr u f).keys = s.keys := rfl
@[simp] theorem State.modThr_time (u : Nat) (f : Thread → Thread) : (s.modThr u f).time = s.time := rfl
@[simp] theorem State.modThr_skew (u : Nat) (f : Thread → Thread) : (s.modThr u f).skew = s.skew := rfl
@[simp] theorem State.modThr_slewRest (u : Nat) (f : Thread → Thread) : (s.modThr u f).slewRest = s.slewRest := rfl
@[simp] theorem State.modThr_fabricTime (u : Nat) (f : Thread → Thread) : (s.modThr u f).fabricTime = s.fabricTime := rfl
@[simp] theorem State.modThr_hostDown (u : Nat) (f : Thread → Thread) : (s.modThr u f).hostDown = s.hostDown := rfl
@[simp] theorem State.modThr_hostData (u : Nat) (f : Thread → Thread) : (s.modThr u f).hostData = s.hostData := rfl
@[simp] theorem State.modThr_cur (u : Nat) (f : Thread → Thread) : (s.modThr u f).cur = s.cur := rfl
@[simp] theorem State.modThr_curPlot (u : Nat) (f : Thread → Thread) : (s.modThr u f).curPlot = s.curPlot := rfl
@[simp] theorem State.modThr_curCore (u : Nat) (f : Thread → Thread) : (s.modThr u f).curCore = s.curCore := rfl
@[simp] theorem State.modThr_curFire (u : Nat) (f : Thread → Thread) : (s.modThr u f).curFire = s.curFire := rfl
@[simp] theorem State.modThr_agenda (u : Nat) (f : Thread → Thread) : (s.modThr u f).agenda = s.agenda := rfl
@[simp] theorem State.modThr_free (u : Nat) (f : Thread → Thread) : (s.modThr u f).free = s.free := rfl

/-! ### modPlot -/

@[simp] theorem State.modPlot_threads (p : Nat) (f : Plot → Plot) : (s.modPlot p f).threads = s.threads := rfl
@[simp] theorem State.modPlot_cores (p : Nat) (f : Plot → Plot) : (s.modPlot p f).cores = s.cores := rfl
@[simp] theorem State.modPlot_dies (p : Nat) (f : Plot → Plot) : (s.modPlot p f).dies = s.dies := rfl
@[simp] theorem State.modPlot_ctxs (p : Nat) (f : Plot → Plot) : (s.modPlot p f).ctxs = s.ctxs := rfl
@[simp] theorem State.modPlot_launches (p : Nat) (f : Plot → Plot) : (s.modPlot p f).launches = s.launches := rfl
@[simp] theorem State.modPlot_ports (p : Nat) (f : Plot → Plot) : (s.modPlot p f).ports = s.ports := rfl
@[simp] theorem State.modPlot_nextThread (p : Nat) (f : Plot → Plot) : (s.modPlot p f).nextThread = s.nextThread := rfl
@[simp] theorem State.modPlot_nextPlot (p : Nat) (f : Plot → Plot) : (s.modPlot p f).nextPlot = s.nextPlot := rfl
@[simp] theorem State.modPlot_grids (p : Nat) (f : Plot → Plot) : (s.modPlot p f).grids = s.grids := rfl
@[simp] theorem State.modPlot_pels (p : Nat) (f : Plot → Plot) : (s.modPlot p f).pels = s.pels := rfl
@[simp] theorem State.modPlot_nextPel (p : Nat) (f : Plot → Plot) : (s.modPlot p f).nextPel = s.nextPel := rfl
@[simp] theorem State.modPlot_bodies (p : Nat) (f : Plot → Plot) : (s.modPlot p f).bodies = s.bodies := rfl
@[simp] theorem State.modPlot_counted (p : Nat) (f : Plot → Plot) : (s.modPlot p f).counted = s.counted := rfl
@[simp] theorem State.modPlot_pavs (p : Nat) (f : Plot → Plot) : (s.modPlot p f).pavs = s.pavs := rfl
@[simp] theorem State.modPlot_links (p : Nat) (f : Plot → Plot) : (s.modPlot p f).links = s.links := rfl
@[simp] theorem State.modPlot_routes (p : Nat) (f : Plot → Plot) : (s.modPlot p f).routes = s.routes := rfl
@[simp] theorem State.modPlot_remReqs (p : Nat) (f : Plot → Plot) : (s.modPlot p f).remReqs = s.remReqs := rfl
@[simp] theorem State.modPlot_remGot (p : Nat) (f : Plot → Plot) : (s.modPlot p f).remGot = s.remGot := rfl
@[simp] theorem State.modPlot_outbox (p : Nat) (f : Plot → Plot) : (s.modPlot p f).outbox = s.outbox := rfl
@[simp] theorem State.modPlot_fabCircs (p : Nat) (f : Plot → Plot) : (s.modPlot p f).fabCircs = s.fabCircs := rfl
@[simp] theorem State.modPlot_fabPages (p : Nat) (f : Plot → Plot) : (s.modPlot p f).fabPages = s.fabPages := rfl
@[simp] theorem State.modPlot_energy (p : Nat) (f : Plot → Plot) : (s.modPlot p f).energy = s.energy := rfl
@[simp] theorem State.modPlot_bad (p : Nat) (f : Plot → Plot) : (s.modPlot p f).bad = s.bad := rfl
@[simp] theorem State.modPlot_badHost (p : Nat) (f : Plot → Plot) : (s.modPlot p f).badHost = s.badHost := rfl
@[simp] theorem State.modPlot_mem (p : Nat) (f : Plot → Plot) : (s.modPlot p f).mem = s.mem := rfl
@[simp] theorem State.modPlot_hostMem (p : Nat) (f : Plot → Plot) : (s.modPlot p f).hostMem = s.hostMem := rfl
@[simp] theorem State.modPlot_leaseEnd (p : Nat) (f : Plot → Plot) : (s.modPlot p f).leaseEnd = s.leaseEnd := rfl
@[simp] theorem State.modPlot_lastP (p : Nat) (f : Plot → Plot) : (s.modPlot p f).lastP = s.lastP := rfl
@[simp] theorem State.modPlot_lineQ (p : Nat) (f : Plot → Plot) : (s.modPlot p f).lineQ = s.lineQ := rfl
@[simp] theorem State.modPlot_phys (p : Nat) (f : Plot → Plot) : (s.modPlot p f).phys = s.phys := rfl
@[simp] theorem State.modPlot_lineKey (p : Nat) (f : Plot → Plot) : (s.modPlot p f).lineKey = s.lineKey := rfl
@[simp] theorem State.modPlot_keyGen (p : Nat) (f : Plot → Plot) : (s.modPlot p f).keyGen = s.keyGen := rfl
@[simp] theorem State.modPlot_slices (p : Nat) (f : Plot → Plot) : (s.modPlot p f).slices = s.slices := rfl
@[simp] theorem State.modPlot_keys (p : Nat) (f : Plot → Plot) : (s.modPlot p f).keys = s.keys := rfl
@[simp] theorem State.modPlot_time (p : Nat) (f : Plot → Plot) : (s.modPlot p f).time = s.time := rfl
@[simp] theorem State.modPlot_skew (p : Nat) (f : Plot → Plot) : (s.modPlot p f).skew = s.skew := rfl
@[simp] theorem State.modPlot_slewRest (p : Nat) (f : Plot → Plot) : (s.modPlot p f).slewRest = s.slewRest := rfl
@[simp] theorem State.modPlot_fabricTime (p : Nat) (f : Plot → Plot) : (s.modPlot p f).fabricTime = s.fabricTime := rfl
@[simp] theorem State.modPlot_hostDown (p : Nat) (f : Plot → Plot) : (s.modPlot p f).hostDown = s.hostDown := rfl
@[simp] theorem State.modPlot_hostData (p : Nat) (f : Plot → Plot) : (s.modPlot p f).hostData = s.hostData := rfl
@[simp] theorem State.modPlot_cur (p : Nat) (f : Plot → Plot) : (s.modPlot p f).cur = s.cur := rfl
@[simp] theorem State.modPlot_curPlot (p : Nat) (f : Plot → Plot) : (s.modPlot p f).curPlot = s.curPlot := rfl
@[simp] theorem State.modPlot_curCore (p : Nat) (f : Plot → Plot) : (s.modPlot p f).curCore = s.curCore := rfl
@[simp] theorem State.modPlot_curFire (p : Nat) (f : Plot → Plot) : (s.modPlot p f).curFire = s.curFire := rfl
@[simp] theorem State.modPlot_agenda (p : Nat) (f : Plot → Plot) : (s.modPlot p f).agenda = s.agenda := rfl
@[simp] theorem State.modPlot_free (p : Nat) (f : Plot → Plot) : (s.modPlot p f).free = s.free := rfl

/-! ### modCore -/

@[simp] theorem State.modCore_threads (c : Nat) (f : Core → Core) : (s.modCore c f).threads = s.threads := rfl
@[simp] theorem State.modCore_plots (c : Nat) (f : Core → Core) : (s.modCore c f).plots = s.plots := rfl
@[simp] theorem State.modCore_dies (c : Nat) (f : Core → Core) : (s.modCore c f).dies = s.dies := rfl
@[simp] theorem State.modCore_ctxs (c : Nat) (f : Core → Core) : (s.modCore c f).ctxs = s.ctxs := rfl
@[simp] theorem State.modCore_launches (c : Nat) (f : Core → Core) : (s.modCore c f).launches = s.launches := rfl
@[simp] theorem State.modCore_ports (c : Nat) (f : Core → Core) : (s.modCore c f).ports = s.ports := rfl
@[simp] theorem State.modCore_nextThread (c : Nat) (f : Core → Core) : (s.modCore c f).nextThread = s.nextThread := rfl
@[simp] theorem State.modCore_nextPlot (c : Nat) (f : Core → Core) : (s.modCore c f).nextPlot = s.nextPlot := rfl
@[simp] theorem State.modCore_grids (c : Nat) (f : Core → Core) : (s.modCore c f).grids = s.grids := rfl
@[simp] theorem State.modCore_pels (c : Nat) (f : Core → Core) : (s.modCore c f).pels = s.pels := rfl
@[simp] theorem State.modCore_nextPel (c : Nat) (f : Core → Core) : (s.modCore c f).nextPel = s.nextPel := rfl
@[simp] theorem State.modCore_bodies (c : Nat) (f : Core → Core) : (s.modCore c f).bodies = s.bodies := rfl
@[simp] theorem State.modCore_counted (c : Nat) (f : Core → Core) : (s.modCore c f).counted = s.counted := rfl
@[simp] theorem State.modCore_pavs (c : Nat) (f : Core → Core) : (s.modCore c f).pavs = s.pavs := rfl
@[simp] theorem State.modCore_links (c : Nat) (f : Core → Core) : (s.modCore c f).links = s.links := rfl
@[simp] theorem State.modCore_routes (c : Nat) (f : Core → Core) : (s.modCore c f).routes = s.routes := rfl
@[simp] theorem State.modCore_remReqs (c : Nat) (f : Core → Core) : (s.modCore c f).remReqs = s.remReqs := rfl
@[simp] theorem State.modCore_remGot (c : Nat) (f : Core → Core) : (s.modCore c f).remGot = s.remGot := rfl
@[simp] theorem State.modCore_outbox (c : Nat) (f : Core → Core) : (s.modCore c f).outbox = s.outbox := rfl
@[simp] theorem State.modCore_fabCircs (c : Nat) (f : Core → Core) : (s.modCore c f).fabCircs = s.fabCircs := rfl
@[simp] theorem State.modCore_fabPages (c : Nat) (f : Core → Core) : (s.modCore c f).fabPages = s.fabPages := rfl
@[simp] theorem State.modCore_energy (c : Nat) (f : Core → Core) : (s.modCore c f).energy = s.energy := rfl
@[simp] theorem State.modCore_bad (c : Nat) (f : Core → Core) : (s.modCore c f).bad = s.bad := rfl
@[simp] theorem State.modCore_badHost (c : Nat) (f : Core → Core) : (s.modCore c f).badHost = s.badHost := rfl
@[simp] theorem State.modCore_mem (c : Nat) (f : Core → Core) : (s.modCore c f).mem = s.mem := rfl
@[simp] theorem State.modCore_hostMem (c : Nat) (f : Core → Core) : (s.modCore c f).hostMem = s.hostMem := rfl
@[simp] theorem State.modCore_leaseEnd (c : Nat) (f : Core → Core) : (s.modCore c f).leaseEnd = s.leaseEnd := rfl
@[simp] theorem State.modCore_lastP (c : Nat) (f : Core → Core) : (s.modCore c f).lastP = s.lastP := rfl
@[simp] theorem State.modCore_lineQ (c : Nat) (f : Core → Core) : (s.modCore c f).lineQ = s.lineQ := rfl
@[simp] theorem State.modCore_phys (c : Nat) (f : Core → Core) : (s.modCore c f).phys = s.phys := rfl
@[simp] theorem State.modCore_lineKey (c : Nat) (f : Core → Core) : (s.modCore c f).lineKey = s.lineKey := rfl
@[simp] theorem State.modCore_keyGen (c : Nat) (f : Core → Core) : (s.modCore c f).keyGen = s.keyGen := rfl
@[simp] theorem State.modCore_slices (c : Nat) (f : Core → Core) : (s.modCore c f).slices = s.slices := rfl
@[simp] theorem State.modCore_keys (c : Nat) (f : Core → Core) : (s.modCore c f).keys = s.keys := rfl
@[simp] theorem State.modCore_time (c : Nat) (f : Core → Core) : (s.modCore c f).time = s.time := rfl
@[simp] theorem State.modCore_skew (c : Nat) (f : Core → Core) : (s.modCore c f).skew = s.skew := rfl
@[simp] theorem State.modCore_slewRest (c : Nat) (f : Core → Core) : (s.modCore c f).slewRest = s.slewRest := rfl
@[simp] theorem State.modCore_fabricTime (c : Nat) (f : Core → Core) : (s.modCore c f).fabricTime = s.fabricTime := rfl
@[simp] theorem State.modCore_hostDown (c : Nat) (f : Core → Core) : (s.modCore c f).hostDown = s.hostDown := rfl
@[simp] theorem State.modCore_hostData (c : Nat) (f : Core → Core) : (s.modCore c f).hostData = s.hostData := rfl
@[simp] theorem State.modCore_cur (c : Nat) (f : Core → Core) : (s.modCore c f).cur = s.cur := rfl
@[simp] theorem State.modCore_curPlot (c : Nat) (f : Core → Core) : (s.modCore c f).curPlot = s.curPlot := rfl
@[simp] theorem State.modCore_curCore (c : Nat) (f : Core → Core) : (s.modCore c f).curCore = s.curCore := rfl
@[simp] theorem State.modCore_curFire (c : Nat) (f : Core → Core) : (s.modCore c f).curFire = s.curFire := rfl
@[simp] theorem State.modCore_agenda (c : Nat) (f : Core → Core) : (s.modCore c f).agenda = s.agenda := rfl
@[simp] theorem State.modCore_free (c : Nat) (f : Core → Core) : (s.modCore c f).free = s.free := rfl

/-! ### modDie -/

@[simp] theorem State.modDie_threads (d : Nat) (f : Die → Die) : (s.modDie d f).threads = s.threads := rfl
@[simp] theorem State.modDie_plots (d : Nat) (f : Die → Die) : (s.modDie d f).plots = s.plots := rfl
@[simp] theorem State.modDie_cores (d : Nat) (f : Die → Die) : (s.modDie d f).cores = s.cores := rfl
@[simp] theorem State.modDie_ctxs (d : Nat) (f : Die → Die) : (s.modDie d f).ctxs = s.ctxs := rfl
@[simp] theorem State.modDie_launches (d : Nat) (f : Die → Die) : (s.modDie d f).launches = s.launches := rfl
@[simp] theorem State.modDie_ports (d : Nat) (f : Die → Die) : (s.modDie d f).ports = s.ports := rfl
@[simp] theorem State.modDie_nextThread (d : Nat) (f : Die → Die) : (s.modDie d f).nextThread = s.nextThread := rfl
@[simp] theorem State.modDie_nextPlot (d : Nat) (f : Die → Die) : (s.modDie d f).nextPlot = s.nextPlot := rfl
@[simp] theorem State.modDie_grids (d : Nat) (f : Die → Die) : (s.modDie d f).grids = s.grids := rfl
@[simp] theorem State.modDie_pels (d : Nat) (f : Die → Die) : (s.modDie d f).pels = s.pels := rfl
@[simp] theorem State.modDie_nextPel (d : Nat) (f : Die → Die) : (s.modDie d f).nextPel = s.nextPel := rfl
@[simp] theorem State.modDie_bodies (d : Nat) (f : Die → Die) : (s.modDie d f).bodies = s.bodies := rfl
@[simp] theorem State.modDie_counted (d : Nat) (f : Die → Die) : (s.modDie d f).counted = s.counted := rfl
@[simp] theorem State.modDie_pavs (d : Nat) (f : Die → Die) : (s.modDie d f).pavs = s.pavs := rfl
@[simp] theorem State.modDie_links (d : Nat) (f : Die → Die) : (s.modDie d f).links = s.links := rfl
@[simp] theorem State.modDie_routes (d : Nat) (f : Die → Die) : (s.modDie d f).routes = s.routes := rfl
@[simp] theorem State.modDie_remReqs (d : Nat) (f : Die → Die) : (s.modDie d f).remReqs = s.remReqs := rfl
@[simp] theorem State.modDie_remGot (d : Nat) (f : Die → Die) : (s.modDie d f).remGot = s.remGot := rfl
@[simp] theorem State.modDie_outbox (d : Nat) (f : Die → Die) : (s.modDie d f).outbox = s.outbox := rfl
@[simp] theorem State.modDie_fabCircs (d : Nat) (f : Die → Die) : (s.modDie d f).fabCircs = s.fabCircs := rfl
@[simp] theorem State.modDie_fabPages (d : Nat) (f : Die → Die) : (s.modDie d f).fabPages = s.fabPages := rfl
@[simp] theorem State.modDie_energy (d : Nat) (f : Die → Die) : (s.modDie d f).energy = s.energy := rfl
@[simp] theorem State.modDie_bad (d : Nat) (f : Die → Die) : (s.modDie d f).bad = s.bad := rfl
@[simp] theorem State.modDie_badHost (d : Nat) (f : Die → Die) : (s.modDie d f).badHost = s.badHost := rfl
@[simp] theorem State.modDie_mem (d : Nat) (f : Die → Die) : (s.modDie d f).mem = s.mem := rfl
@[simp] theorem State.modDie_hostMem (d : Nat) (f : Die → Die) : (s.modDie d f).hostMem = s.hostMem := rfl
@[simp] theorem State.modDie_leaseEnd (d : Nat) (f : Die → Die) : (s.modDie d f).leaseEnd = s.leaseEnd := rfl
@[simp] theorem State.modDie_lastP (d : Nat) (f : Die → Die) : (s.modDie d f).lastP = s.lastP := rfl
@[simp] theorem State.modDie_lineQ (d : Nat) (f : Die → Die) : (s.modDie d f).lineQ = s.lineQ := rfl
@[simp] theorem State.modDie_phys (d : Nat) (f : Die → Die) : (s.modDie d f).phys = s.phys := rfl
@[simp] theorem State.modDie_lineKey (d : Nat) (f : Die → Die) : (s.modDie d f).lineKey = s.lineKey := rfl
@[simp] theorem State.modDie_keyGen (d : Nat) (f : Die → Die) : (s.modDie d f).keyGen = s.keyGen := rfl
@[simp] theorem State.modDie_slices (d : Nat) (f : Die → Die) : (s.modDie d f).slices = s.slices := rfl
@[simp] theorem State.modDie_keys (d : Nat) (f : Die → Die) : (s.modDie d f).keys = s.keys := rfl
@[simp] theorem State.modDie_time (d : Nat) (f : Die → Die) : (s.modDie d f).time = s.time := rfl
@[simp] theorem State.modDie_skew (d : Nat) (f : Die → Die) : (s.modDie d f).skew = s.skew := rfl
@[simp] theorem State.modDie_slewRest (d : Nat) (f : Die → Die) : (s.modDie d f).slewRest = s.slewRest := rfl
@[simp] theorem State.modDie_fabricTime (d : Nat) (f : Die → Die) : (s.modDie d f).fabricTime = s.fabricTime := rfl
@[simp] theorem State.modDie_hostDown (d : Nat) (f : Die → Die) : (s.modDie d f).hostDown = s.hostDown := rfl
@[simp] theorem State.modDie_hostData (d : Nat) (f : Die → Die) : (s.modDie d f).hostData = s.hostData := rfl
@[simp] theorem State.modDie_cur (d : Nat) (f : Die → Die) : (s.modDie d f).cur = s.cur := rfl
@[simp] theorem State.modDie_curPlot (d : Nat) (f : Die → Die) : (s.modDie d f).curPlot = s.curPlot := rfl
@[simp] theorem State.modDie_curCore (d : Nat) (f : Die → Die) : (s.modDie d f).curCore = s.curCore := rfl
@[simp] theorem State.modDie_curFire (d : Nat) (f : Die → Die) : (s.modDie d f).curFire = s.curFire := rfl
@[simp] theorem State.modDie_agenda (d : Nat) (f : Die → Die) : (s.modDie d f).agenda = s.agenda := rfl
@[simp] theorem State.modDie_free (d : Nat) (f : Die → Die) : (s.modDie d f).free = s.free := rfl

/-! ### modCtx -/

@[simp] theorem State.modCtx_threads (x : Nat) (f : Ctx → Ctx) : (s.modCtx x f).threads = s.threads := rfl
@[simp] theorem State.modCtx_plots (x : Nat) (f : Ctx → Ctx) : (s.modCtx x f).plots = s.plots := rfl
@[simp] theorem State.modCtx_cores (x : Nat) (f : Ctx → Ctx) : (s.modCtx x f).cores = s.cores := rfl
@[simp] theorem State.modCtx_dies (x : Nat) (f : Ctx → Ctx) : (s.modCtx x f).dies = s.dies := rfl
@[simp] theorem State.modCtx_launches (x : Nat) (f : Ctx → Ctx) : (s.modCtx x f).launches = s.launches := rfl
@[simp] theorem State.modCtx_ports (x : Nat) (f : Ctx → Ctx) : (s.modCtx x f).ports = s.ports := rfl
@[simp] theorem State.modCtx_nextThread (x : Nat) (f : Ctx → Ctx) : (s.modCtx x f).nextThread = s.nextThread := rfl
@[simp] theorem State.modCtx_nextPlot (x : Nat) (f : Ctx → Ctx) : (s.modCtx x f).nextPlot = s.nextPlot := rfl
@[simp] theorem State.modCtx_grids (x : Nat) (f : Ctx → Ctx) : (s.modCtx x f).grids = s.grids := rfl
@[simp] theorem State.modCtx_pels (x : Nat) (f : Ctx → Ctx) : (s.modCtx x f).pels = s.pels := rfl
@[simp] theorem State.modCtx_nextPel (x : Nat) (f : Ctx → Ctx) : (s.modCtx x f).nextPel = s.nextPel := rfl
@[simp] theorem State.modCtx_bodies (x : Nat) (f : Ctx → Ctx) : (s.modCtx x f).bodies = s.bodies := rfl
@[simp] theorem State.modCtx_counted (x : Nat) (f : Ctx → Ctx) : (s.modCtx x f).counted = s.counted := rfl
@[simp] theorem State.modCtx_pavs (x : Nat) (f : Ctx → Ctx) : (s.modCtx x f).pavs = s.pavs := rfl
@[simp] theorem State.modCtx_links (x : Nat) (f : Ctx → Ctx) : (s.modCtx x f).links = s.links := rfl
@[simp] theorem State.modCtx_routes (x : Nat) (f : Ctx → Ctx) : (s.modCtx x f).routes = s.routes := rfl
@[simp] theorem State.modCtx_remReqs (x : Nat) (f : Ctx → Ctx) : (s.modCtx x f).remReqs = s.remReqs := rfl
@[simp] theorem State.modCtx_remGot (x : Nat) (f : Ctx → Ctx) : (s.modCtx x f).remGot = s.remGot := rfl
@[simp] theorem State.modCtx_outbox (x : Nat) (f : Ctx → Ctx) : (s.modCtx x f).outbox = s.outbox := rfl
@[simp] theorem State.modCtx_fabCircs (x : Nat) (f : Ctx → Ctx) : (s.modCtx x f).fabCircs = s.fabCircs := rfl
@[simp] theorem State.modCtx_fabPages (x : Nat) (f : Ctx → Ctx) : (s.modCtx x f).fabPages = s.fabPages := rfl
@[simp] theorem State.modCtx_energy (x : Nat) (f : Ctx → Ctx) : (s.modCtx x f).energy = s.energy := rfl
@[simp] theorem State.modCtx_bad (x : Nat) (f : Ctx → Ctx) : (s.modCtx x f).bad = s.bad := rfl
@[simp] theorem State.modCtx_badHost (x : Nat) (f : Ctx → Ctx) : (s.modCtx x f).badHost = s.badHost := rfl
@[simp] theorem State.modCtx_mem (x : Nat) (f : Ctx → Ctx) : (s.modCtx x f).mem = s.mem := rfl
@[simp] theorem State.modCtx_hostMem (x : Nat) (f : Ctx → Ctx) : (s.modCtx x f).hostMem = s.hostMem := rfl
@[simp] theorem State.modCtx_leaseEnd (x : Nat) (f : Ctx → Ctx) : (s.modCtx x f).leaseEnd = s.leaseEnd := rfl
@[simp] theorem State.modCtx_lastP (x : Nat) (f : Ctx → Ctx) : (s.modCtx x f).lastP = s.lastP := rfl
@[simp] theorem State.modCtx_lineQ (x : Nat) (f : Ctx → Ctx) : (s.modCtx x f).lineQ = s.lineQ := rfl
@[simp] theorem State.modCtx_phys (x : Nat) (f : Ctx → Ctx) : (s.modCtx x f).phys = s.phys := rfl
@[simp] theorem State.modCtx_lineKey (x : Nat) (f : Ctx → Ctx) : (s.modCtx x f).lineKey = s.lineKey := rfl
@[simp] theorem State.modCtx_keyGen (x : Nat) (f : Ctx → Ctx) : (s.modCtx x f).keyGen = s.keyGen := rfl
@[simp] theorem State.modCtx_slices (x : Nat) (f : Ctx → Ctx) : (s.modCtx x f).slices = s.slices := rfl
@[simp] theorem State.modCtx_keys (x : Nat) (f : Ctx → Ctx) : (s.modCtx x f).keys = s.keys := rfl
@[simp] theorem State.modCtx_time (x : Nat) (f : Ctx → Ctx) : (s.modCtx x f).time = s.time := rfl
@[simp] theorem State.modCtx_skew (x : Nat) (f : Ctx → Ctx) : (s.modCtx x f).skew = s.skew := rfl
@[simp] theorem State.modCtx_slewRest (x : Nat) (f : Ctx → Ctx) : (s.modCtx x f).slewRest = s.slewRest := rfl
@[simp] theorem State.modCtx_fabricTime (x : Nat) (f : Ctx → Ctx) : (s.modCtx x f).fabricTime = s.fabricTime := rfl
@[simp] theorem State.modCtx_hostDown (x : Nat) (f : Ctx → Ctx) : (s.modCtx x f).hostDown = s.hostDown := rfl
@[simp] theorem State.modCtx_hostData (x : Nat) (f : Ctx → Ctx) : (s.modCtx x f).hostData = s.hostData := rfl
@[simp] theorem State.modCtx_cur (x : Nat) (f : Ctx → Ctx) : (s.modCtx x f).cur = s.cur := rfl
@[simp] theorem State.modCtx_curPlot (x : Nat) (f : Ctx → Ctx) : (s.modCtx x f).curPlot = s.curPlot := rfl
@[simp] theorem State.modCtx_curCore (x : Nat) (f : Ctx → Ctx) : (s.modCtx x f).curCore = s.curCore := rfl
@[simp] theorem State.modCtx_curFire (x : Nat) (f : Ctx → Ctx) : (s.modCtx x f).curFire = s.curFire := rfl
@[simp] theorem State.modCtx_agenda (x : Nat) (f : Ctx → Ctx) : (s.modCtx x f).agenda = s.agenda := rfl
@[simp] theorem State.modCtx_free (x : Nat) (f : Ctx → Ctx) : (s.modCtx x f).free = s.free := rfl

/-! ### modLaunch -/

@[simp] theorem State.modLaunch_threads (l : Nat) (f : Launch → Launch) : (s.modLaunch l f).threads = s.threads := rfl
@[simp] theorem State.modLaunch_plots (l : Nat) (f : Launch → Launch) : (s.modLaunch l f).plots = s.plots := rfl
@[simp] theorem State.modLaunch_cores (l : Nat) (f : Launch → Launch) : (s.modLaunch l f).cores = s.cores := rfl
@[simp] theorem State.modLaunch_dies (l : Nat) (f : Launch → Launch) : (s.modLaunch l f).dies = s.dies := rfl
@[simp] theorem State.modLaunch_ctxs (l : Nat) (f : Launch → Launch) : (s.modLaunch l f).ctxs = s.ctxs := rfl
@[simp] theorem State.modLaunch_ports (l : Nat) (f : Launch → Launch) : (s.modLaunch l f).ports = s.ports := rfl
@[simp] theorem State.modLaunch_nextThread (l : Nat) (f : Launch → Launch) : (s.modLaunch l f).nextThread = s.nextThread := rfl
@[simp] theorem State.modLaunch_nextPlot (l : Nat) (f : Launch → Launch) : (s.modLaunch l f).nextPlot = s.nextPlot := rfl
@[simp] theorem State.modLaunch_grids (l : Nat) (f : Launch → Launch) : (s.modLaunch l f).grids = s.grids := rfl
@[simp] theorem State.modLaunch_pels (l : Nat) (f : Launch → Launch) : (s.modLaunch l f).pels = s.pels := rfl
@[simp] theorem State.modLaunch_nextPel (l : Nat) (f : Launch → Launch) : (s.modLaunch l f).nextPel = s.nextPel := rfl
@[simp] theorem State.modLaunch_bodies (l : Nat) (f : Launch → Launch) : (s.modLaunch l f).bodies = s.bodies := rfl
@[simp] theorem State.modLaunch_counted (l : Nat) (f : Launch → Launch) : (s.modLaunch l f).counted = s.counted := rfl
@[simp] theorem State.modLaunch_pavs (l : Nat) (f : Launch → Launch) : (s.modLaunch l f).pavs = s.pavs := rfl
@[simp] theorem State.modLaunch_links (l : Nat) (f : Launch → Launch) : (s.modLaunch l f).links = s.links := rfl
@[simp] theorem State.modLaunch_routes (l : Nat) (f : Launch → Launch) : (s.modLaunch l f).routes = s.routes := rfl
@[simp] theorem State.modLaunch_remReqs (l : Nat) (f : Launch → Launch) : (s.modLaunch l f).remReqs = s.remReqs := rfl
@[simp] theorem State.modLaunch_remGot (l : Nat) (f : Launch → Launch) : (s.modLaunch l f).remGot = s.remGot := rfl
@[simp] theorem State.modLaunch_outbox (l : Nat) (f : Launch → Launch) : (s.modLaunch l f).outbox = s.outbox := rfl
@[simp] theorem State.modLaunch_fabCircs (l : Nat) (f : Launch → Launch) : (s.modLaunch l f).fabCircs = s.fabCircs := rfl
@[simp] theorem State.modLaunch_fabPages (l : Nat) (f : Launch → Launch) : (s.modLaunch l f).fabPages = s.fabPages := rfl
@[simp] theorem State.modLaunch_energy (l : Nat) (f : Launch → Launch) : (s.modLaunch l f).energy = s.energy := rfl
@[simp] theorem State.modLaunch_bad (l : Nat) (f : Launch → Launch) : (s.modLaunch l f).bad = s.bad := rfl
@[simp] theorem State.modLaunch_badHost (l : Nat) (f : Launch → Launch) : (s.modLaunch l f).badHost = s.badHost := rfl
@[simp] theorem State.modLaunch_mem (l : Nat) (f : Launch → Launch) : (s.modLaunch l f).mem = s.mem := rfl
@[simp] theorem State.modLaunch_hostMem (l : Nat) (f : Launch → Launch) : (s.modLaunch l f).hostMem = s.hostMem := rfl
@[simp] theorem State.modLaunch_leaseEnd (l : Nat) (f : Launch → Launch) : (s.modLaunch l f).leaseEnd = s.leaseEnd := rfl
@[simp] theorem State.modLaunch_lastP (l : Nat) (f : Launch → Launch) : (s.modLaunch l f).lastP = s.lastP := rfl
@[simp] theorem State.modLaunch_lineQ (l : Nat) (f : Launch → Launch) : (s.modLaunch l f).lineQ = s.lineQ := rfl
@[simp] theorem State.modLaunch_phys (l : Nat) (f : Launch → Launch) : (s.modLaunch l f).phys = s.phys := rfl
@[simp] theorem State.modLaunch_lineKey (l : Nat) (f : Launch → Launch) : (s.modLaunch l f).lineKey = s.lineKey := rfl
@[simp] theorem State.modLaunch_keyGen (l : Nat) (f : Launch → Launch) : (s.modLaunch l f).keyGen = s.keyGen := rfl
@[simp] theorem State.modLaunch_slices (l : Nat) (f : Launch → Launch) : (s.modLaunch l f).slices = s.slices := rfl
@[simp] theorem State.modLaunch_keys (l : Nat) (f : Launch → Launch) : (s.modLaunch l f).keys = s.keys := rfl
@[simp] theorem State.modLaunch_time (l : Nat) (f : Launch → Launch) : (s.modLaunch l f).time = s.time := rfl
@[simp] theorem State.modLaunch_skew (l : Nat) (f : Launch → Launch) : (s.modLaunch l f).skew = s.skew := rfl
@[simp] theorem State.modLaunch_slewRest (l : Nat) (f : Launch → Launch) : (s.modLaunch l f).slewRest = s.slewRest := rfl
@[simp] theorem State.modLaunch_fabricTime (l : Nat) (f : Launch → Launch) : (s.modLaunch l f).fabricTime = s.fabricTime := rfl
@[simp] theorem State.modLaunch_hostDown (l : Nat) (f : Launch → Launch) : (s.modLaunch l f).hostDown = s.hostDown := rfl
@[simp] theorem State.modLaunch_hostData (l : Nat) (f : Launch → Launch) : (s.modLaunch l f).hostData = s.hostData := rfl
@[simp] theorem State.modLaunch_cur (l : Nat) (f : Launch → Launch) : (s.modLaunch l f).cur = s.cur := rfl
@[simp] theorem State.modLaunch_curPlot (l : Nat) (f : Launch → Launch) : (s.modLaunch l f).curPlot = s.curPlot := rfl
@[simp] theorem State.modLaunch_curCore (l : Nat) (f : Launch → Launch) : (s.modLaunch l f).curCore = s.curCore := rfl
@[simp] theorem State.modLaunch_curFire (l : Nat) (f : Launch → Launch) : (s.modLaunch l f).curFire = s.curFire := rfl
@[simp] theorem State.modLaunch_agenda (l : Nat) (f : Launch → Launch) : (s.modLaunch l f).agenda = s.agenda := rfl
@[simp] theorem State.modLaunch_free (l : Nat) (f : Launch → Launch) : (s.modLaunch l f).free = s.free := rfl

/-! ### modPort -/

@[simp] theorem State.modPort_threads (n : Nat) (f : Port → Port) : (s.modPort n f).threads = s.threads := rfl
@[simp] theorem State.modPort_plots (n : Nat) (f : Port → Port) : (s.modPort n f).plots = s.plots := rfl
@[simp] theorem State.modPort_cores (n : Nat) (f : Port → Port) : (s.modPort n f).cores = s.cores := rfl
@[simp] theorem State.modPort_dies (n : Nat) (f : Port → Port) : (s.modPort n f).dies = s.dies := rfl
@[simp] theorem State.modPort_ctxs (n : Nat) (f : Port → Port) : (s.modPort n f).ctxs = s.ctxs := rfl
@[simp] theorem State.modPort_launches (n : Nat) (f : Port → Port) : (s.modPort n f).launches = s.launches := rfl
@[simp] theorem State.modPort_nextThread (n : Nat) (f : Port → Port) : (s.modPort n f).nextThread = s.nextThread := rfl
@[simp] theorem State.modPort_nextPlot (n : Nat) (f : Port → Port) : (s.modPort n f).nextPlot = s.nextPlot := rfl
@[simp] theorem State.modPort_grids (n : Nat) (f : Port → Port) : (s.modPort n f).grids = s.grids := rfl
@[simp] theorem State.modPort_pels (n : Nat) (f : Port → Port) : (s.modPort n f).pels = s.pels := rfl
@[simp] theorem State.modPort_nextPel (n : Nat) (f : Port → Port) : (s.modPort n f).nextPel = s.nextPel := rfl
@[simp] theorem State.modPort_bodies (n : Nat) (f : Port → Port) : (s.modPort n f).bodies = s.bodies := rfl
@[simp] theorem State.modPort_counted (n : Nat) (f : Port → Port) : (s.modPort n f).counted = s.counted := rfl
@[simp] theorem State.modPort_pavs (n : Nat) (f : Port → Port) : (s.modPort n f).pavs = s.pavs := rfl
@[simp] theorem State.modPort_links (n : Nat) (f : Port → Port) : (s.modPort n f).links = s.links := rfl
@[simp] theorem State.modPort_routes (n : Nat) (f : Port → Port) : (s.modPort n f).routes = s.routes := rfl
@[simp] theorem State.modPort_remReqs (n : Nat) (f : Port → Port) : (s.modPort n f).remReqs = s.remReqs := rfl
@[simp] theorem State.modPort_remGot (n : Nat) (f : Port → Port) : (s.modPort n f).remGot = s.remGot := rfl
@[simp] theorem State.modPort_outbox (n : Nat) (f : Port → Port) : (s.modPort n f).outbox = s.outbox := rfl
@[simp] theorem State.modPort_fabCircs (n : Nat) (f : Port → Port) : (s.modPort n f).fabCircs = s.fabCircs := rfl
@[simp] theorem State.modPort_fabPages (n : Nat) (f : Port → Port) : (s.modPort n f).fabPages = s.fabPages := rfl
@[simp] theorem State.modPort_energy (n : Nat) (f : Port → Port) : (s.modPort n f).energy = s.energy := rfl
@[simp] theorem State.modPort_bad (n : Nat) (f : Port → Port) : (s.modPort n f).bad = s.bad := rfl
@[simp] theorem State.modPort_badHost (n : Nat) (f : Port → Port) : (s.modPort n f).badHost = s.badHost := rfl
@[simp] theorem State.modPort_mem (n : Nat) (f : Port → Port) : (s.modPort n f).mem = s.mem := rfl
@[simp] theorem State.modPort_hostMem (n : Nat) (f : Port → Port) : (s.modPort n f).hostMem = s.hostMem := rfl
@[simp] theorem State.modPort_leaseEnd (n : Nat) (f : Port → Port) : (s.modPort n f).leaseEnd = s.leaseEnd := rfl
@[simp] theorem State.modPort_lastP (n : Nat) (f : Port → Port) : (s.modPort n f).lastP = s.lastP := rfl
@[simp] theorem State.modPort_lineQ (n : Nat) (f : Port → Port) : (s.modPort n f).lineQ = s.lineQ := rfl
@[simp] theorem State.modPort_phys (n : Nat) (f : Port → Port) : (s.modPort n f).phys = s.phys := rfl
@[simp] theorem State.modPort_lineKey (n : Nat) (f : Port → Port) : (s.modPort n f).lineKey = s.lineKey := rfl
@[simp] theorem State.modPort_keyGen (n : Nat) (f : Port → Port) : (s.modPort n f).keyGen = s.keyGen := rfl
@[simp] theorem State.modPort_slices (n : Nat) (f : Port → Port) : (s.modPort n f).slices = s.slices := rfl
@[simp] theorem State.modPort_keys (n : Nat) (f : Port → Port) : (s.modPort n f).keys = s.keys := rfl
@[simp] theorem State.modPort_time (n : Nat) (f : Port → Port) : (s.modPort n f).time = s.time := rfl
@[simp] theorem State.modPort_skew (n : Nat) (f : Port → Port) : (s.modPort n f).skew = s.skew := rfl
@[simp] theorem State.modPort_slewRest (n : Nat) (f : Port → Port) : (s.modPort n f).slewRest = s.slewRest := rfl
@[simp] theorem State.modPort_fabricTime (n : Nat) (f : Port → Port) : (s.modPort n f).fabricTime = s.fabricTime := rfl
@[simp] theorem State.modPort_hostDown (n : Nat) (f : Port → Port) : (s.modPort n f).hostDown = s.hostDown := rfl
@[simp] theorem State.modPort_hostData (n : Nat) (f : Port → Port) : (s.modPort n f).hostData = s.hostData := rfl
@[simp] theorem State.modPort_cur (n : Nat) (f : Port → Port) : (s.modPort n f).cur = s.cur := rfl
@[simp] theorem State.modPort_curPlot (n : Nat) (f : Port → Port) : (s.modPort n f).curPlot = s.curPlot := rfl
@[simp] theorem State.modPort_curCore (n : Nat) (f : Port → Port) : (s.modPort n f).curCore = s.curCore := rfl
@[simp] theorem State.modPort_curFire (n : Nat) (f : Port → Port) : (s.modPort n f).curFire = s.curFire := rfl
@[simp] theorem State.modPort_agenda (n : Nat) (f : Port → Port) : (s.modPort n f).agenda = s.agenda := rfl
@[simp] theorem State.modPort_free (n : Nat) (f : Port → Port) : (s.modPort n f).free = s.free := rfl

/-! ### modGrid -/

@[simp] theorem State.modGrid_threads (c : Nat) (f : Grid → Grid) : (s.modGrid c f).threads = s.threads := rfl
@[simp] theorem State.modGrid_plots (c : Nat) (f : Grid → Grid) : (s.modGrid c f).plots = s.plots := rfl
@[simp] theorem State.modGrid_cores (c : Nat) (f : Grid → Grid) : (s.modGrid c f).cores = s.cores := rfl
@[simp] theorem State.modGrid_dies (c : Nat) (f : Grid → Grid) : (s.modGrid c f).dies = s.dies := rfl
@[simp] theorem State.modGrid_ctxs (c : Nat) (f : Grid → Grid) : (s.modGrid c f).ctxs = s.ctxs := rfl
@[simp] theorem State.modGrid_launches (c : Nat) (f : Grid → Grid) : (s.modGrid c f).launches = s.launches := rfl
@[simp] theorem State.modGrid_ports (c : Nat) (f : Grid → Grid) : (s.modGrid c f).ports = s.ports := rfl
@[simp] theorem State.modGrid_nextThread (c : Nat) (f : Grid → Grid) : (s.modGrid c f).nextThread = s.nextThread := rfl
@[simp] theorem State.modGrid_nextPlot (c : Nat) (f : Grid → Grid) : (s.modGrid c f).nextPlot = s.nextPlot := rfl
@[simp] theorem State.modGrid_pels (c : Nat) (f : Grid → Grid) : (s.modGrid c f).pels = s.pels := rfl
@[simp] theorem State.modGrid_nextPel (c : Nat) (f : Grid → Grid) : (s.modGrid c f).nextPel = s.nextPel := rfl
@[simp] theorem State.modGrid_bodies (c : Nat) (f : Grid → Grid) : (s.modGrid c f).bodies = s.bodies := rfl
@[simp] theorem State.modGrid_counted (c : Nat) (f : Grid → Grid) : (s.modGrid c f).counted = s.counted := rfl
@[simp] theorem State.modGrid_pavs (c : Nat) (f : Grid → Grid) : (s.modGrid c f).pavs = s.pavs := rfl
@[simp] theorem State.modGrid_links (c : Nat) (f : Grid → Grid) : (s.modGrid c f).links = s.links := rfl
@[simp] theorem State.modGrid_routes (c : Nat) (f : Grid → Grid) : (s.modGrid c f).routes = s.routes := rfl
@[simp] theorem State.modGrid_remReqs (c : Nat) (f : Grid → Grid) : (s.modGrid c f).remReqs = s.remReqs := rfl
@[simp] theorem State.modGrid_remGot (c : Nat) (f : Grid → Grid) : (s.modGrid c f).remGot = s.remGot := rfl
@[simp] theorem State.modGrid_outbox (c : Nat) (f : Grid → Grid) : (s.modGrid c f).outbox = s.outbox := rfl
@[simp] theorem State.modGrid_fabCircs (c : Nat) (f : Grid → Grid) : (s.modGrid c f).fabCircs = s.fabCircs := rfl
@[simp] theorem State.modGrid_fabPages (c : Nat) (f : Grid → Grid) : (s.modGrid c f).fabPages = s.fabPages := rfl
@[simp] theorem State.modGrid_energy (c : Nat) (f : Grid → Grid) : (s.modGrid c f).energy = s.energy := rfl
@[simp] theorem State.modGrid_bad (c : Nat) (f : Grid → Grid) : (s.modGrid c f).bad = s.bad := rfl
@[simp] theorem State.modGrid_badHost (c : Nat) (f : Grid → Grid) : (s.modGrid c f).badHost = s.badHost := rfl
@[simp] theorem State.modGrid_mem (c : Nat) (f : Grid → Grid) : (s.modGrid c f).mem = s.mem := rfl
@[simp] theorem State.modGrid_hostMem (c : Nat) (f : Grid → Grid) : (s.modGrid c f).hostMem = s.hostMem := rfl
@[simp] theorem State.modGrid_leaseEnd (c : Nat) (f : Grid → Grid) : (s.modGrid c f).leaseEnd = s.leaseEnd := rfl
@[simp] theorem State.modGrid_lastP (c : Nat) (f : Grid → Grid) : (s.modGrid c f).lastP = s.lastP := rfl
@[simp] theorem State.modGrid_lineQ (c : Nat) (f : Grid → Grid) : (s.modGrid c f).lineQ = s.lineQ := rfl
@[simp] theorem State.modGrid_phys (c : Nat) (f : Grid → Grid) : (s.modGrid c f).phys = s.phys := rfl
@[simp] theorem State.modGrid_lineKey (c : Nat) (f : Grid → Grid) : (s.modGrid c f).lineKey = s.lineKey := rfl
@[simp] theorem State.modGrid_keyGen (c : Nat) (f : Grid → Grid) : (s.modGrid c f).keyGen = s.keyGen := rfl
@[simp] theorem State.modGrid_slices (c : Nat) (f : Grid → Grid) : (s.modGrid c f).slices = s.slices := rfl
@[simp] theorem State.modGrid_keys (c : Nat) (f : Grid → Grid) : (s.modGrid c f).keys = s.keys := rfl
@[simp] theorem State.modGrid_time (c : Nat) (f : Grid → Grid) : (s.modGrid c f).time = s.time := rfl
@[simp] theorem State.modGrid_skew (c : Nat) (f : Grid → Grid) : (s.modGrid c f).skew = s.skew := rfl
@[simp] theorem State.modGrid_slewRest (c : Nat) (f : Grid → Grid) : (s.modGrid c f).slewRest = s.slewRest := rfl
@[simp] theorem State.modGrid_fabricTime (c : Nat) (f : Grid → Grid) : (s.modGrid c f).fabricTime = s.fabricTime := rfl
@[simp] theorem State.modGrid_hostDown (c : Nat) (f : Grid → Grid) : (s.modGrid c f).hostDown = s.hostDown := rfl
@[simp] theorem State.modGrid_hostData (c : Nat) (f : Grid → Grid) : (s.modGrid c f).hostData = s.hostData := rfl
@[simp] theorem State.modGrid_cur (c : Nat) (f : Grid → Grid) : (s.modGrid c f).cur = s.cur := rfl
@[simp] theorem State.modGrid_curPlot (c : Nat) (f : Grid → Grid) : (s.modGrid c f).curPlot = s.curPlot := rfl
@[simp] theorem State.modGrid_curCore (c : Nat) (f : Grid → Grid) : (s.modGrid c f).curCore = s.curCore := rfl
@[simp] theorem State.modGrid_curFire (c : Nat) (f : Grid → Grid) : (s.modGrid c f).curFire = s.curFire := rfl
@[simp] theorem State.modGrid_agenda (c : Nat) (f : Grid → Grid) : (s.modGrid c f).agenda = s.agenda := rfl
@[simp] theorem State.modGrid_free (c : Nat) (f : Grid → Grid) : (s.modGrid c f).free = s.free := rfl

/-! ### modPel -/

@[simp] theorem State.modPel_threads (n : Nat) (f : Pel → Pel) : (s.modPel n f).threads = s.threads := rfl
@[simp] theorem State.modPel_plots (n : Nat) (f : Pel → Pel) : (s.modPel n f).plots = s.plots := rfl
@[simp] theorem State.modPel_cores (n : Nat) (f : Pel → Pel) : (s.modPel n f).cores = s.cores := rfl
@[simp] theorem State.modPel_dies (n : Nat) (f : Pel → Pel) : (s.modPel n f).dies = s.dies := rfl
@[simp] theorem State.modPel_ctxs (n : Nat) (f : Pel → Pel) : (s.modPel n f).ctxs = s.ctxs := rfl
@[simp] theorem State.modPel_launches (n : Nat) (f : Pel → Pel) : (s.modPel n f).launches = s.launches := rfl
@[simp] theorem State.modPel_ports (n : Nat) (f : Pel → Pel) : (s.modPel n f).ports = s.ports := rfl
@[simp] theorem State.modPel_nextThread (n : Nat) (f : Pel → Pel) : (s.modPel n f).nextThread = s.nextThread := rfl
@[simp] theorem State.modPel_nextPlot (n : Nat) (f : Pel → Pel) : (s.modPel n f).nextPlot = s.nextPlot := rfl
@[simp] theorem State.modPel_grids (n : Nat) (f : Pel → Pel) : (s.modPel n f).grids = s.grids := rfl
@[simp] theorem State.modPel_nextPel (n : Nat) (f : Pel → Pel) : (s.modPel n f).nextPel = s.nextPel := rfl
@[simp] theorem State.modPel_bodies (n : Nat) (f : Pel → Pel) : (s.modPel n f).bodies = s.bodies := rfl
@[simp] theorem State.modPel_counted (n : Nat) (f : Pel → Pel) : (s.modPel n f).counted = s.counted := rfl
@[simp] theorem State.modPel_pavs (n : Nat) (f : Pel → Pel) : (s.modPel n f).pavs = s.pavs := rfl
@[simp] theorem State.modPel_links (n : Nat) (f : Pel → Pel) : (s.modPel n f).links = s.links := rfl
@[simp] theorem State.modPel_routes (n : Nat) (f : Pel → Pel) : (s.modPel n f).routes = s.routes := rfl
@[simp] theorem State.modPel_remReqs (n : Nat) (f : Pel → Pel) : (s.modPel n f).remReqs = s.remReqs := rfl
@[simp] theorem State.modPel_remGot (n : Nat) (f : Pel → Pel) : (s.modPel n f).remGot = s.remGot := rfl
@[simp] theorem State.modPel_outbox (n : Nat) (f : Pel → Pel) : (s.modPel n f).outbox = s.outbox := rfl
@[simp] theorem State.modPel_fabCircs (n : Nat) (f : Pel → Pel) : (s.modPel n f).fabCircs = s.fabCircs := rfl
@[simp] theorem State.modPel_fabPages (n : Nat) (f : Pel → Pel) : (s.modPel n f).fabPages = s.fabPages := rfl
@[simp] theorem State.modPel_energy (n : Nat) (f : Pel → Pel) : (s.modPel n f).energy = s.energy := rfl
@[simp] theorem State.modPel_bad (n : Nat) (f : Pel → Pel) : (s.modPel n f).bad = s.bad := rfl
@[simp] theorem State.modPel_badHost (n : Nat) (f : Pel → Pel) : (s.modPel n f).badHost = s.badHost := rfl
@[simp] theorem State.modPel_mem (n : Nat) (f : Pel → Pel) : (s.modPel n f).mem = s.mem := rfl
@[simp] theorem State.modPel_hostMem (n : Nat) (f : Pel → Pel) : (s.modPel n f).hostMem = s.hostMem := rfl
@[simp] theorem State.modPel_leaseEnd (n : Nat) (f : Pel → Pel) : (s.modPel n f).leaseEnd = s.leaseEnd := rfl
@[simp] theorem State.modPel_lastP (n : Nat) (f : Pel → Pel) : (s.modPel n f).lastP = s.lastP := rfl
@[simp] theorem State.modPel_lineQ (n : Nat) (f : Pel → Pel) : (s.modPel n f).lineQ = s.lineQ := rfl
@[simp] theorem State.modPel_phys (n : Nat) (f : Pel → Pel) : (s.modPel n f).phys = s.phys := rfl
@[simp] theorem State.modPel_lineKey (n : Nat) (f : Pel → Pel) : (s.modPel n f).lineKey = s.lineKey := rfl
@[simp] theorem State.modPel_keyGen (n : Nat) (f : Pel → Pel) : (s.modPel n f).keyGen = s.keyGen := rfl
@[simp] theorem State.modPel_slices (n : Nat) (f : Pel → Pel) : (s.modPel n f).slices = s.slices := rfl
@[simp] theorem State.modPel_keys (n : Nat) (f : Pel → Pel) : (s.modPel n f).keys = s.keys := rfl
@[simp] theorem State.modPel_time (n : Nat) (f : Pel → Pel) : (s.modPel n f).time = s.time := rfl
@[simp] theorem State.modPel_skew (n : Nat) (f : Pel → Pel) : (s.modPel n f).skew = s.skew := rfl
@[simp] theorem State.modPel_slewRest (n : Nat) (f : Pel → Pel) : (s.modPel n f).slewRest = s.slewRest := rfl
@[simp] theorem State.modPel_fabricTime (n : Nat) (f : Pel → Pel) : (s.modPel n f).fabricTime = s.fabricTime := rfl
@[simp] theorem State.modPel_hostDown (n : Nat) (f : Pel → Pel) : (s.modPel n f).hostDown = s.hostDown := rfl
@[simp] theorem State.modPel_hostData (n : Nat) (f : Pel → Pel) : (s.modPel n f).hostData = s.hostData := rfl
@[simp] theorem State.modPel_cur (n : Nat) (f : Pel → Pel) : (s.modPel n f).cur = s.cur := rfl
@[simp] theorem State.modPel_curPlot (n : Nat) (f : Pel → Pel) : (s.modPel n f).curPlot = s.curPlot := rfl
@[simp] theorem State.modPel_curCore (n : Nat) (f : Pel → Pel) : (s.modPel n f).curCore = s.curCore := rfl
@[simp] theorem State.modPel_curFire (n : Nat) (f : Pel → Pel) : (s.modPel n f).curFire = s.curFire := rfl
@[simp] theorem State.modPel_agenda (n : Nat) (f : Pel → Pel) : (s.modPel n f).agenda = s.agenda := rfl
@[simp] theorem State.modPel_free (n : Nat) (f : Pel → Pel) : (s.modPel n f).free = s.free := rfl

/-! ### modPav -/

@[simp] theorem State.modPav_threads (k : Nat) (f : Pav → Pav) : (s.modPav k f).threads = s.threads := rfl
@[simp] theorem State.modPav_plots (k : Nat) (f : Pav → Pav) : (s.modPav k f).plots = s.plots := rfl
@[simp] theorem State.modPav_cores (k : Nat) (f : Pav → Pav) : (s.modPav k f).cores = s.cores := rfl
@[simp] theorem State.modPav_dies (k : Nat) (f : Pav → Pav) : (s.modPav k f).dies = s.dies := rfl
@[simp] theorem State.modPav_ctxs (k : Nat) (f : Pav → Pav) : (s.modPav k f).ctxs = s.ctxs := rfl
@[simp] theorem State.modPav_launches (k : Nat) (f : Pav → Pav) : (s.modPav k f).launches = s.launches := rfl
@[simp] theorem State.modPav_ports (k : Nat) (f : Pav → Pav) : (s.modPav k f).ports = s.ports := rfl
@[simp] theorem State.modPav_nextThread (k : Nat) (f : Pav → Pav) : (s.modPav k f).nextThread = s.nextThread := rfl
@[simp] theorem State.modPav_nextPlot (k : Nat) (f : Pav → Pav) : (s.modPav k f).nextPlot = s.nextPlot := rfl
@[simp] theorem State.modPav_grids (k : Nat) (f : Pav → Pav) : (s.modPav k f).grids = s.grids := rfl
@[simp] theorem State.modPav_pels (k : Nat) (f : Pav → Pav) : (s.modPav k f).pels = s.pels := rfl
@[simp] theorem State.modPav_nextPel (k : Nat) (f : Pav → Pav) : (s.modPav k f).nextPel = s.nextPel := rfl
@[simp] theorem State.modPav_bodies (k : Nat) (f : Pav → Pav) : (s.modPav k f).bodies = s.bodies := rfl
@[simp] theorem State.modPav_counted (k : Nat) (f : Pav → Pav) : (s.modPav k f).counted = s.counted := rfl
@[simp] theorem State.modPav_links (k : Nat) (f : Pav → Pav) : (s.modPav k f).links = s.links := rfl
@[simp] theorem State.modPav_routes (k : Nat) (f : Pav → Pav) : (s.modPav k f).routes = s.routes := rfl
@[simp] theorem State.modPav_remReqs (k : Nat) (f : Pav → Pav) : (s.modPav k f).remReqs = s.remReqs := rfl
@[simp] theorem State.modPav_remGot (k : Nat) (f : Pav → Pav) : (s.modPav k f).remGot = s.remGot := rfl
@[simp] theorem State.modPav_outbox (k : Nat) (f : Pav → Pav) : (s.modPav k f).outbox = s.outbox := rfl
@[simp] theorem State.modPav_fabCircs (k : Nat) (f : Pav → Pav) : (s.modPav k f).fabCircs = s.fabCircs := rfl
@[simp] theorem State.modPav_fabPages (k : Nat) (f : Pav → Pav) : (s.modPav k f).fabPages = s.fabPages := rfl
@[simp] theorem State.modPav_energy (k : Nat) (f : Pav → Pav) : (s.modPav k f).energy = s.energy := rfl
@[simp] theorem State.modPav_bad (k : Nat) (f : Pav → Pav) : (s.modPav k f).bad = s.bad := rfl
@[simp] theorem State.modPav_badHost (k : Nat) (f : Pav → Pav) : (s.modPav k f).badHost = s.badHost := rfl
@[simp] theorem State.modPav_mem (k : Nat) (f : Pav → Pav) : (s.modPav k f).mem = s.mem := rfl
@[simp] theorem State.modPav_hostMem (k : Nat) (f : Pav → Pav) : (s.modPav k f).hostMem = s.hostMem := rfl
@[simp] theorem State.modPav_leaseEnd (k : Nat) (f : Pav → Pav) : (s.modPav k f).leaseEnd = s.leaseEnd := rfl
@[simp] theorem State.modPav_lastP (k : Nat) (f : Pav → Pav) : (s.modPav k f).lastP = s.lastP := rfl
@[simp] theorem State.modPav_lineQ (k : Nat) (f : Pav → Pav) : (s.modPav k f).lineQ = s.lineQ := rfl
@[simp] theorem State.modPav_phys (k : Nat) (f : Pav → Pav) : (s.modPav k f).phys = s.phys := rfl
@[simp] theorem State.modPav_lineKey (k : Nat) (f : Pav → Pav) : (s.modPav k f).lineKey = s.lineKey := rfl
@[simp] theorem State.modPav_keyGen (k : Nat) (f : Pav → Pav) : (s.modPav k f).keyGen = s.keyGen := rfl
@[simp] theorem State.modPav_slices (k : Nat) (f : Pav → Pav) : (s.modPav k f).slices = s.slices := rfl
@[simp] theorem State.modPav_keys (k : Nat) (f : Pav → Pav) : (s.modPav k f).keys = s.keys := rfl
@[simp] theorem State.modPav_time (k : Nat) (f : Pav → Pav) : (s.modPav k f).time = s.time := rfl
@[simp] theorem State.modPav_skew (k : Nat) (f : Pav → Pav) : (s.modPav k f).skew = s.skew := rfl
@[simp] theorem State.modPav_slewRest (k : Nat) (f : Pav → Pav) : (s.modPav k f).slewRest = s.slewRest := rfl
@[simp] theorem State.modPav_fabricTime (k : Nat) (f : Pav → Pav) : (s.modPav k f).fabricTime = s.fabricTime := rfl
@[simp] theorem State.modPav_hostDown (k : Nat) (f : Pav → Pav) : (s.modPav k f).hostDown = s.hostDown := rfl
@[simp] theorem State.modPav_hostData (k : Nat) (f : Pav → Pav) : (s.modPav k f).hostData = s.hostData := rfl
@[simp] theorem State.modPav_cur (k : Nat) (f : Pav → Pav) : (s.modPav k f).cur = s.cur := rfl
@[simp] theorem State.modPav_curPlot (k : Nat) (f : Pav → Pav) : (s.modPav k f).curPlot = s.curPlot := rfl
@[simp] theorem State.modPav_curCore (k : Nat) (f : Pav → Pav) : (s.modPav k f).curCore = s.curCore := rfl
@[simp] theorem State.modPav_curFire (k : Nat) (f : Pav → Pav) : (s.modPav k f).curFire = s.curFire := rfl
@[simp] theorem State.modPav_agenda (k : Nat) (f : Pav → Pav) : (s.modPav k f).agenda = s.agenda := rfl
@[simp] theorem State.modPav_free (k : Nat) (f : Pav → Pav) : (s.modPav k f).free = s.free := rfl

/-! ### modLink -/

@[simp] theorem State.modLink_threads (n : Nat) (f : Link → Link) : (s.modLink n f).threads = s.threads := rfl
@[simp] theorem State.modLink_plots (n : Nat) (f : Link → Link) : (s.modLink n f).plots = s.plots := rfl
@[simp] theorem State.modLink_cores (n : Nat) (f : Link → Link) : (s.modLink n f).cores = s.cores := rfl
@[simp] theorem State.modLink_dies (n : Nat) (f : Link → Link) : (s.modLink n f).dies = s.dies := rfl
@[simp] theorem State.modLink_ctxs (n : Nat) (f : Link → Link) : (s.modLink n f).ctxs = s.ctxs := rfl
@[simp] theorem State.modLink_launches (n : Nat) (f : Link → Link) : (s.modLink n f).launches = s.launches := rfl
@[simp] theorem State.modLink_ports (n : Nat) (f : Link → Link) : (s.modLink n f).ports = s.ports := rfl
@[simp] theorem State.modLink_nextThread (n : Nat) (f : Link → Link) : (s.modLink n f).nextThread = s.nextThread := rfl
@[simp] theorem State.modLink_nextPlot (n : Nat) (f : Link → Link) : (s.modLink n f).nextPlot = s.nextPlot := rfl
@[simp] theorem State.modLink_grids (n : Nat) (f : Link → Link) : (s.modLink n f).grids = s.grids := rfl
@[simp] theorem State.modLink_pels (n : Nat) (f : Link → Link) : (s.modLink n f).pels = s.pels := rfl
@[simp] theorem State.modLink_nextPel (n : Nat) (f : Link → Link) : (s.modLink n f).nextPel = s.nextPel := rfl
@[simp] theorem State.modLink_bodies (n : Nat) (f : Link → Link) : (s.modLink n f).bodies = s.bodies := rfl
@[simp] theorem State.modLink_counted (n : Nat) (f : Link → Link) : (s.modLink n f).counted = s.counted := rfl
@[simp] theorem State.modLink_pavs (n : Nat) (f : Link → Link) : (s.modLink n f).pavs = s.pavs := rfl
@[simp] theorem State.modLink_routes (n : Nat) (f : Link → Link) : (s.modLink n f).routes = s.routes := rfl
@[simp] theorem State.modLink_remReqs (n : Nat) (f : Link → Link) : (s.modLink n f).remReqs = s.remReqs := rfl
@[simp] theorem State.modLink_remGot (n : Nat) (f : Link → Link) : (s.modLink n f).remGot = s.remGot := rfl
@[simp] theorem State.modLink_outbox (n : Nat) (f : Link → Link) : (s.modLink n f).outbox = s.outbox := rfl
@[simp] theorem State.modLink_fabCircs (n : Nat) (f : Link → Link) : (s.modLink n f).fabCircs = s.fabCircs := rfl
@[simp] theorem State.modLink_fabPages (n : Nat) (f : Link → Link) : (s.modLink n f).fabPages = s.fabPages := rfl
@[simp] theorem State.modLink_energy (n : Nat) (f : Link → Link) : (s.modLink n f).energy = s.energy := rfl
@[simp] theorem State.modLink_bad (n : Nat) (f : Link → Link) : (s.modLink n f).bad = s.bad := rfl
@[simp] theorem State.modLink_badHost (n : Nat) (f : Link → Link) : (s.modLink n f).badHost = s.badHost := rfl
@[simp] theorem State.modLink_mem (n : Nat) (f : Link → Link) : (s.modLink n f).mem = s.mem := rfl
@[simp] theorem State.modLink_hostMem (n : Nat) (f : Link → Link) : (s.modLink n f).hostMem = s.hostMem := rfl
@[simp] theorem State.modLink_leaseEnd (n : Nat) (f : Link → Link) : (s.modLink n f).leaseEnd = s.leaseEnd := rfl
@[simp] theorem State.modLink_lastP (n : Nat) (f : Link → Link) : (s.modLink n f).lastP = s.lastP := rfl
@[simp] theorem State.modLink_lineQ (n : Nat) (f : Link → Link) : (s.modLink n f).lineQ = s.lineQ := rfl
@[simp] theorem State.modLink_phys (n : Nat) (f : Link → Link) : (s.modLink n f).phys = s.phys := rfl
@[simp] theorem State.modLink_lineKey (n : Nat) (f : Link → Link) : (s.modLink n f).lineKey = s.lineKey := rfl
@[simp] theorem State.modLink_keyGen (n : Nat) (f : Link → Link) : (s.modLink n f).keyGen = s.keyGen := rfl
@[simp] theorem State.modLink_slices (n : Nat) (f : Link → Link) : (s.modLink n f).slices = s.slices := rfl
@[simp] theorem State.modLink_keys (n : Nat) (f : Link → Link) : (s.modLink n f).keys = s.keys := rfl
@[simp] theorem State.modLink_time (n : Nat) (f : Link → Link) : (s.modLink n f).time = s.time := rfl
@[simp] theorem State.modLink_skew (n : Nat) (f : Link → Link) : (s.modLink n f).skew = s.skew := rfl
@[simp] theorem State.modLink_slewRest (n : Nat) (f : Link → Link) : (s.modLink n f).slewRest = s.slewRest := rfl
@[simp] theorem State.modLink_fabricTime (n : Nat) (f : Link → Link) : (s.modLink n f).fabricTime = s.fabricTime := rfl
@[simp] theorem State.modLink_hostDown (n : Nat) (f : Link → Link) : (s.modLink n f).hostDown = s.hostDown := rfl
@[simp] theorem State.modLink_hostData (n : Nat) (f : Link → Link) : (s.modLink n f).hostData = s.hostData := rfl
@[simp] theorem State.modLink_cur (n : Nat) (f : Link → Link) : (s.modLink n f).cur = s.cur := rfl
@[simp] theorem State.modLink_curPlot (n : Nat) (f : Link → Link) : (s.modLink n f).curPlot = s.curPlot := rfl
@[simp] theorem State.modLink_curCore (n : Nat) (f : Link → Link) : (s.modLink n f).curCore = s.curCore := rfl
@[simp] theorem State.modLink_curFire (n : Nat) (f : Link → Link) : (s.modLink n f).curFire = s.curFire := rfl
@[simp] theorem State.modLink_agenda (n : Nat) (f : Link → Link) : (s.modLink n f).agenda = s.agenda := rfl
@[simp] theorem State.modLink_free (n : Nat) (f : Link → Link) : (s.modLink n f).free = s.free := rfl

/-! ### The entry changed, and the others -/

@[simp] theorem State.thr_setThr (u : Nat) (t : Thread) : (s.setThr u t).thr u = t := FMap.get_set_same _ _ _

theorem State.thr_setThr_ne {u v : Nat} (t : Thread) (h : u ≠ v) : (s.setThr u t).thr v = s.thr v := FMap.get_set_ne h

@[simp] theorem State.thr_modThr (u : Nat) (f : Thread → Thread) : (s.modThr u f).thr u = f (s.thr u) := FMap.get_set_same _ _ _

theorem State.thr_modThr_ne {u v : Nat} (f : Thread → Thread) (h : u ≠ v) : (s.modThr u f).thr v = s.thr v := FMap.get_set_ne h

@[simp] theorem State.modPlot_get (k : Nat) (f : Plot → Plot) : (s.modPlot k f).plots.get k = f (s.plots.get k) := FMap.get_modify_same _ _ _

theorem State.modPlot_get_ne {k j : Nat} (f : Plot → Plot) (h : k ≠ j) : (s.modPlot k f).plots.get j = s.plots.get j := FMap.get_modify_ne h

@[simp] theorem State.modCore_get (k : Nat) (f : Core → Core) : (s.modCore k f).cores.get k = f (s.cores.get k) := FMap.get_modify_same _ _ _

theorem State.modCore_get_ne {k j : Nat} (f : Core → Core) (h : k ≠ j) : (s.modCore k f).cores.get j = s.cores.get j := FMap.get_modify_ne h

@[simp] theorem State.modDie_get (k : Nat) (f : Die → Die) : (s.modDie k f).dies.get k = f (s.dies.get k) := FMap.get_modify_same _ _ _

theorem State.modDie_get_ne {k j : Nat} (f : Die → Die) (h : k ≠ j) : (s.modDie k f).dies.get j = s.dies.get j := FMap.get_modify_ne h

@[simp] theorem State.modCtx_get (k : Nat) (f : Ctx → Ctx) : (s.modCtx k f).ctxs.get k = f (s.ctxs.get k) := FMap.get_modify_same _ _ _

theorem State.modCtx_get_ne {k j : Nat} (f : Ctx → Ctx) (h : k ≠ j) : (s.modCtx k f).ctxs.get j = s.ctxs.get j := FMap.get_modify_ne h

@[simp] theorem State.modLaunch_get (k : Nat) (f : Launch → Launch) : (s.modLaunch k f).launches.get k = f (s.launches.get k) := FMap.get_modify_same _ _ _

theorem State.modLaunch_get_ne {k j : Nat} (f : Launch → Launch) (h : k ≠ j) : (s.modLaunch k f).launches.get j = s.launches.get j := FMap.get_modify_ne h

@[simp] theorem State.modPort_get (k : Nat) (f : Port → Port) : (s.modPort k f).ports.get k = f (s.ports.get k) := FMap.get_modify_same _ _ _

theorem State.modPort_get_ne {k j : Nat} (f : Port → Port) (h : k ≠ j) : (s.modPort k f).ports.get j = s.ports.get j := FMap.get_modify_ne h

@[simp] theorem State.modGrid_get (k : Nat) (f : Grid → Grid) : (s.modGrid k f).grids.get k = f (s.grids.get k) := FMap.get_modify_same _ _ _

theorem State.modGrid_get_ne {k j : Nat} (f : Grid → Grid) (h : k ≠ j) : (s.modGrid k f).grids.get j = s.grids.get j := FMap.get_modify_ne h

@[simp] theorem State.modPel_get (k : Nat) (f : Pel → Pel) : (s.modPel k f).pels.get k = f (s.pels.get k) := FMap.get_modify_same _ _ _

theorem State.modPel_get_ne {k j : Nat} (f : Pel → Pel) (h : k ≠ j) : (s.modPel k f).pels.get j = s.pels.get j := FMap.get_modify_ne h

@[simp] theorem State.modPav_get (k : Nat) (f : Pav → Pav) : (s.modPav k f).pavs.get k = f (s.pavs.get k) := FMap.get_modify_same _ _ _

theorem State.modPav_get_ne {k j : Nat} (f : Pav → Pav) (h : k ≠ j) : (s.modPav k f).pavs.get j = s.pavs.get j := FMap.get_modify_ne h

@[simp] theorem State.modLink_get (k : Nat) (f : Link → Link) : (s.modLink k f).links.get k = f (s.links.get k) := FMap.get_modify_same _ _ _

theorem State.modLink_get_ne {k j : Nat} (f : Link → Link) (h : k ≠ j) : (s.modLink k f).links.get j = s.links.get j := FMap.get_modify_ne h

@[simp] theorem State.thr_modPlot (p : Nat) (f : Plot → Plot) (v : Nat) : (s.modPlot p f).thr v = s.thr v := rfl

@[simp] theorem State.thr_modCore (c : Nat) (f : Core → Core) (v : Nat) : (s.modCore c f).thr v = s.thr v := rfl

@[simp] theorem State.thr_modDie (d : Nat) (f : Die → Die) (v : Nat) : (s.modDie d f).thr v = s.thr v := rfl

@[simp] theorem State.thr_modCtx (x : Nat) (f : Ctx → Ctx) (v : Nat) : (s.modCtx x f).thr v = s.thr v := rfl

@[simp] theorem State.thr_modLaunch (l : Nat) (f : Launch → Launch) (v : Nat) : (s.modLaunch l f).thr v = s.thr v := rfl

@[simp] theorem State.thr_modPort (n : Nat) (f : Port → Port) (v : Nat) : (s.modPort n f).thr v = s.thr v := rfl

@[simp] theorem State.thr_modGrid (c : Nat) (f : Grid → Grid) (v : Nat) : (s.modGrid c f).thr v = s.thr v := rfl

@[simp] theorem State.thr_modPel (n : Nat) (f : Pel → Pel) (v : Nat) : (s.modPel n f).thr v = s.thr v := rfl

@[simp] theorem State.thr_modPav (k : Nat) (f : Pav → Pav) (v : Nat) : (s.modPav k f).thr v = s.thr v := rfl

@[simp] theorem State.thr_modLink (n : Nat) (f : Link → Link) (v : Nat) : (s.modLink n f).thr v = s.thr v := rfl

end Sys2Proof.Machine
end

