-- ==== Sys2Proof/Laws/Ops.lean ====
section
/-! SUPPORT. What the frame of a thread instruction, of a Cadence word and of a firing can do, said once for each. -/

namespace Sys2Proof.Machine

variable {s : State} {sh : Shape}

/-- A live thread's instruction always answers a next state. -/
theorem issue_goes (body : State → Eff) (h : (s.thr s.cur).live = true) : Goes (issue sh body s) := by
  simp only [issue, h, Bool.not_true, Bool.false_eq_true, if_false]
  repeat' split
  all_goals exact ⟨_, rfl⟩

/-- Without a live thread it stops. -/
theorem issue_none (body : State → Eff) (h : (s.thr s.cur).live = false) : issue sh body s = .fault .noThread := by
  simp [issue, h]

/-- An instruction that executes normally takes its own effect. -/
theorem issue_run (body : State → Eff) (h : s.Runs sh) :
    issue sh body s = .next (s.settle sh s.cur (s.thr s.cur) ((s.thr s.cur).nextChain sh) (body s)) := by
  obtain ⟨⟨hl, hh, hb, hc, hp⟩, hg⟩ := h; have hp := Nat.not_lt.2 hp
  cases hx : (s.thr s.cur).nextChain sh with
  | none => simp [issue, hl, hh, hb, hx, hg, hp]
  | some x => simp [issue, hl, hh, hb, hx, hg, hp, Nat.not_lt.2 (hc x hx)]

/-- An instruction with a false guard only passes. -/
theorem issue_pass (body : State → Eff) (h : s.Issues sh) (hg : (s.thr s.cur).guard sh.g = false) :
    issue sh body s = .next (s.setThr s.cur ((if sh.producer then (s.thr s.cur).pass ((s.thr s.cur).nextChain sh)
      else (s.thr s.cur).breakLatches).goTo ((s.thr s.cur).pc + BitVec.ofNat 64 sh.len))) := by
  obtain ⟨hl, hh, hb, hc, hp⟩ := h; have hp := Nat.not_lt.2 hp
  cases hx : (s.thr s.cur).nextChain sh with
  | none => simp [issue, hl, hh, hb, hx, hg, hp]
  | some x => simp [issue, hl, hh, hb, hx, hg, hp, Nat.not_lt.2 (hc x hx)]

/-- Writing a thread twice. -/
theorem FMap.set_set {α : Type} [Inhabited α] [DecidableEq α] (m : FMap α) (k : Nat) (v w : α) : (m.set k v).set k w = m.set k w := by
  have he : ∀ n : FMap α, FMap.erase (FMap.erase n k) k = FMap.erase n k := fun n => by simp [FMap.erase]
  have hi : ∀ n : FMap α, FMap.erase (FMap.insert k v n) k = FMap.erase n k := by
    intro n
    induction n with
    | nil => simp [FMap.insert, FMap.erase]
    | cons e n ih =>
      obtain ⟨j, x⟩ := e
      simp only [FMap.insert]
      split
      · simp [FMap.erase]
      · simp only [FMap.erase, List.filter_cons] at *
        split
        · exact congrArg _ ih
        · exact ih
  by_cases hv : v = default <;> simp [FMap.set, hv, he, hi]

@[simp] theorem State.setThr_setThr (u : Nat) (t q : Thread) : (s.setThr u t).setThr u q = s.setThr u q := by
  simp [State.setThr, FMap.set_set]

@[simp] theorem State.modThr_setThr (u : Nat) (t : Thread) (f : Thread → Thread) : (s.setThr u t).modThr u f = s.setThr u (f t) := by
  simp [State.modThr]

/-- A producer that executes normally: the thread with the operation's effect, its latches moved on (R37), past the instruction. -/
theorem issueAlu_run (f : Thread → Thread × DWord) (h : s.Runs sh) (hp : sh.producer = true) :
    issueAlu sh f s = .next (s.setThr s.cur ((((f (s.thr s.cur)).1.produce (s.thr s.cur).snap ((s.thr s.cur).nextChain sh)
      (f (s.thr s.cur)).2).goTo ((s.thr s.cur).pc + BitVec.ofNat 64 sh.len)).readyAt (s.thr s.cur) s.time)) := by
  simp [issueAlu, issue_run _ h, State.settle, hp]

/-- A Cadence word that executes takes its own effect. -/
theorem issueSeq_run (body : Nat → State → SEff) (h : s.SeqRuns) :
    issueSeq body s = .next (s.settleSeq s.curPlot (body s.curPlot s)) := by
  obtain ⟨h1, h2, h3⟩ := h
  simp [issueSeq, h1, h2, h3]

/-- A firing's own effect. -/
theorem issueFire_run (body : Site → Firing → State → State) {f : Firing} (h : s.curFire = some f) :
    issueFire body s = .next (body ⟨s.curCore, (s.grids.get s.curCore).cfgs.getD f.cfg default⟩ f s) := by
  simp [issueFire, h]

end Sys2Proof.Machine
end

