-- ==== Sys2Proof/Laws/PerInstr.lean ====
section
/-! SUPPORT. A statement about every instruction as syntax, one lemma for each constructor: the major opcode in the word that the encoder
gives is that of its row of spec/opcode_table.json (R41, R42, R45, R47), and an event has no word. -/

namespace Sys2Proof.Laws.Encoding

open Sys2Proof

/-- The major opcode of each row of spec/opcode_table.json; none for an event. -/
def majorOf : Instr → Option Nat
  | .add _ => some 0
  | .sub _ => some 0
  | .and _ => some 0
  | .or _ => some 0
  | .xor _ => some 0
  | .andn _ => some 0
  | .orn _ => some 0
  | .xnor _ => some 0
  | .shl _ => some 1
  | .shr _ => some 1
  | .sra _ => some 1
  | .rol _ => some 1
  | .ror _ => some 1
  | .clz _ => some 1
  | .popc _ => some 1
  | .brev _ => some 1
  | .minS _ => some 2
  | .maxS _ => some 2
  | .minU _ => some 2
  | .maxU _ => some 2
  | .abs _ => some 2
  | .neg _ => some 2
  | .sextB _ => some 2
  | .sextH _ => some 2
  | .mul _ => some 3
  | .mulhiS _ => some 3
  | .mulhiU _ => some 3
  | .mad _ => some 3
  | .divS _ => some 3
  | .divU _ => some 3
  | .remS _ => some 3
  | .remU _ => some 3
  | .addD _ => some 4
  | .subD _ => some 4
  | .madD _ => some 4
  | .mulwS _ => some 4
  | .mulwU _ => some 4
  | .shlD _ => some 4
  | .shrD _ => some 4
  | .sraD _ => some 4
  | .cmpEq _ => some 5
  | .cmpNe _ => some 5
  | .cmpLtS _ => some 5
  | .cmpLeS _ => some 5
  | .cmpLtU _ => some 5
  | .cmpLeU _ => some 5
  | .cmpTst _ => some 5
  | .cmpTstn _ => some 5
  | .sel _ => some 6
  | .bfxU _ => some 7
  | .bfxS _ => some 7
  | .bfi _ => some 7
  | .mov _ => some 7
  | .lea2 _ => some 7
  | .lea4 _ => some 7
  | .lea8 _ => some 7
  | .lea16 _ => some 7
  | .addi _ => some 8
  | .andi _ => some 9
  | .ori _ => some 10
  | .xori _ => some 11
  | .shli _ => some 12
  | .shri _ => some 12
  | .srai _ => some 12
  | .roli _ => some 12
  | .cmpiEq _ => some 13
  | .cmpiNe _ => some 13
  | .cmpiLtS _ => some 13
  | .cmpiLeS _ => some 13
  | .cmpiLtU _ => some 13
  | .cmpiLeU _ => some 13
  | .cmpiGtS _ => some 13
  | .cmpiGtU _ => some 13
  | .movi _ => some 14
  | .movhi _ => some 15
  | .fadd _ => some 16
  | .fsub _ => some 16
  | .fmul _ => some 16
  | .fmin _ => some 16
  | .fmax _ => some 16
  | .fabs _ => some 16
  | .fneg _ => some 16
  | .fcpsgn _ => some 16
  | .fma _ => some 17
  | .fms _ => some 17
  | .fnma _ => some 17
  | .fnms _ => some 17
  | .fmulH2 _ => some 17
  | .faddH2 _ => some 17
  | .fmaH2 _ => some 17
  | .fmaB2 _ => some 17
  | .fcmpEq _ => some 18
  | .fcmpNe _ => some 18
  | .fcmpLt _ => some 18
  | .fcmpLe _ => some 18
  | .fcmpGe _ => some 18
  | .fcmpGt _ => some 18
  | .fcmpUn _ => some 18
  | .fcmpOrd _ => some 18
  | .cvtF32S _ => some 19
  | .cvtSF32 _ => some 19
  | .cvtF32U _ => some 19
  | .cvtUF32 _ => some 19
  | .cvtF32F16 _ => some 19
  | .cvtF16F32 _ => some 19
  | .cvtF32Bf16 _ => some 19
  | .cvtBf16F32 _ => some 19
  | .frndNe _ => some 20
  | .frndZ _ => some 20
  | .frndDn _ => some 20
  | .frndUp _ => some 20
  | .fcls _ => some 20
  | .fldexp _ => some 20
  | .fgetexp _ => some 20
  | .fgetman _ => some 20
  | .addB2 _ => some 21
  | .subB2 _ => some 21
  | .mulB2 _ => some 21
  | .minB2 _ => some 21
  | .maxB2 _ => some 21
  | .subH2 _ => some 21
  | .minH2 _ => some 21
  | .maxH2 _ => some 21
  | .npkE4m3 _ => some 22
  | .npkE5m2 _ => some 22
  | .npkE3m2 _ => some 22
  | .npkE2m3 _ => some 22
  | .npkE2m1 _ => some 22
  | .npkI8 _ => some 22
  | .npkI4 _ => some 22
  | .nupE4m3 _ => some 23
  | .nupE5m2 _ => some 23
  | .nupE3m2 _ => some 23
  | .nupE2m3 _ => some 23
  | .nupE2m1 _ => some 23
  | .nupI8 _ => some 23
  | .nupI4 _ => some 23
  | .dot4E4 _ => some 24
  | .dot4E5 _ => some 24
  | .dot8F4 _ => some 24
  | .dot4I8 _ => some 24
  | .dot8I4 _ => some 24
  | .dot2B2 _ => some 24
  | .dot2H2 _ => some 24
  | .dot2B2f _ => some 24
  | .vmxF4 _ => some 25
  | .vmxE4 _ => some 26
  | .vmxE5 _ => some 27
  | .qntF4 _ => some 28
  | .qntE4 _ => some 28
  | .qntE5 _ => some 28
  | .qntF4o _ => some 28
  | .qntE4o _ => some 28
  | .amaxL _ => some 28
  | .scl _ => some 28
  | .kc2DecLo _ => some 29
  | .kc2DecHi _ => some 29
  | .cbLd _ => some 29
  | .exp _ => some 30
  | .exp2 _ => some 30
  | .ln _ => some 30
  | .log2 _ => some 30
  | .rcp _ => some 30
  | .rsqrt _ => some 30
  | .sqrt _ => some 30
  | .erf _ => some 30
  | .tanh _ => some 31
  | .sigm _ => some 31
  | .gelu _ => some 31
  | .silu _ => some 31
  | .sin _ => some 31
  | .cos _ => some 31
  | .tbl _ => some 31
  | .rsMax _ => some 32
  | .rsSexp _ => some 32
  | .rsMean _ => some 32
  | .rsDev _ => some 32
  | .rsFin _ => some 32
  | .smxFin _ => some 32
  | .mask _ => some 32
  | .shflIdx _ => some 33
  | .shflUp _ => some 33
  | .shflDn _ => some 33
  | .shflXor _ => some 33
  | .ballot _ => some 33
  | .laneMatch _ => some 33
  | .laneAny _ => some 33
  | .laneAll _ => some 33
  | .redAdd _ => some 34
  | .redMin _ => some 34
  | .redMax _ => some 34
  | .redAnd _ => some 34
  | .redOr _ => some 34
  | .redFadd _ => some 34
  | .scanAdd _ => some 34
  | .scanFadd _ => some 34
  | .tblLd _ => some 35
  | .tblSw _ => some 35
  | .tblRd _ => some 35
  | .ld _ => some 36
  | .lds _ => some 37
  | .st _ => some 38
  | .ldq _ => some 39
  | .stq _ => some 39
  | .ldNc _ => some 39
  | .pf _ => some 39
  | .lda _ => some 40
  | .stl _ => some 41
  | .amoAdd _ => some 44
  | .amoMinS _ => some 44
  | .amoMaxS _ => some 44
  | .amoMinU _ => some 44
  | .amoMaxU _ => some 44
  | .amoAnd _ => some 44
  | .amoOr _ => some 44
  | .amoXor _ => some 44
  | .amoXchg _ => some 45
  | .amoCas _ => some 45
  | .amoFadd _ => some 45
  | .amoFaddB2 _ => some 45
  | .amoFmax _ => some 45
  | .amoIncW _ => some 45
  | .amoDecW _ => some 45
  | .br _ => some 49
  | .userMacro f => some (60 + f.x.toNat)
  | .calloc _ => some 58
  | .pack _ _ => some 58
  | .unpack _ => some 58
  | .merge _ _ => some 58
  | .steer _ => some 58
  | .redCfg _ => some 59
  | .agen _ => some 59
  | .isect _ _ => some 59
  | .unionCoord _ _ => some 59
  | .eos _ => some 59
  | .emit _ _ => some 59
  | .wadapt _ => some 59
  | .feClr _ => some 42
  | .feSet _ => some 42
  | .feTst _ => some 42
  | .feWt _ => some 42
  | .gat _ => some 43
  | .sct _ => some 43
  | .otkNew _ => some 43
  | .otkWt _ => some 43
  | .fenceCore _ => some 46
  | .fenceDie _ => some 46
  | .fencePkg _ => some 46
  | .fenceSys _ => some 46
  | .xfence _ => some 46
  | .gwct _ => some 46
  | .leaseDrop _ => some 46
  | .barArr _ => some 47
  | .barWt _ => some 47
  | .barSync _ => some 47
  | .nbarArr _ => some 47
  | .nbarWt _ => some 47
  | .bwait _ => some 47
  | .bobjInit _ => some 47
  | .kick _ => some 48
  | .cpySt _ => some 48
  | .free _ => some 48
  | .ringInit _ => some 48
  | .send _ => some 48
  | .recvAdv _ => some 48
  | .call _ => some 50
  | .brx _ => some 51
  | .callx _ => some 51
  | .ret _ => some 51
  | .exit _ => some 51
  | .yield _ => some 51
  | .sleep _ => some 51
  | .nop _ => some 51
  | .hot _ => some 51
  | .spawn _ => some 52
  | .spawnW _ => some 52
  | .regroup _ => some 52
  | .nocap _ => some 52
  | .capok _ => some 52
  | .trap _ => some 52
  | .lnch _ => some 52
  | .srd _ => some 53
  | .crd _ => some 54
  | .cwr _ => some 55
  | .tret _ => some 56
  | .wfi _ => some 56
  | .halt _ => some 56
  | .vdhop _ => some 56
  | .cfgld _ => some 56
  | .cfgDrop _ => some 56
  | .wcsld _ => some 56
  | .wcsbind _ => some 56
  | .accRd _ => some 57
  | .accWr _ => some 57
  | .tileRd _ => some 57
  | .tileWr _ => some 57
  | .olRd _ => some 57
  | .olWr _ => some 57
  | .olCnt _ => some 57
  | .mmaBf16 _ => some 0
  | .mmaF16 _ => some 0
  | .mmaE4m3 _ => some 0
  | .mmaE5m2 _ => some 0
  | .mmaMxe4 _ => some 0
  | .mmaMxe5 _ => some 0
  | .mmaMxf6 _ => some 0
  | .mmaMxf4 _ => some 0
  | .mmaI8 _ => some 1
  | .mmaI4 _ => some 1
  | .mmaBf16T _ => some 1
  | .tld _ => some 2
  | .tstRaw _ => some 3
  | .tstBf16 _ => some 3
  | .tstF16 _ => some 3
  | .tstE4m3 _ => some 3
  | .tstE5m2 _ => some 3
  | .tzT _ => some 4
  | .tzA _ => some 4
  | .tsetW _ _ => some 5
  | .tsetH _ _ => some 5
  | .tsetC _ _ => some 5
  | .tsetEsc _ _ => some 5
  | .kadd _ _ _ => some 6
  | .ksub _ _ _ => some 6
  | .kmul _ _ _ => some 6
  | .kand _ _ _ => some 6
  | .kor _ _ _ => some 6
  | .kshl _ _ _ => some 6
  | .kshr _ _ _ => some 6
  | .kmov _ _ => some 6
  | .kaddi _ _ => some 7
  | .kmovi _ _ => some 7
  | .krep _ _ => some 8
  | .kbnz _ _ => some 8
  | .kend => some 8
  | .cadNbarArr _ => some 9
  | .cadNbarWt _ => some 9
  | .cend => some 10
  | .olClr _ => some 11
  | .olLim _ _ => some 11
  | .packerCycle _ => none
  | .laneEvent _ _ => none
  | .barrierTimeout _ _ => none
  | .sleepEnd _ => none
  | .spawnQueueRoom _ => none
  | .spawnWaitLimit _ => none
  | .spawnBinRelease _ _ => none
  | .spawnBinTimer _ _ => none
  | .regroupBinRelease _ _ _ => none
  | .regroupBinTimer _ _ _ => none
  | .launchTake _ => none
  | .groupTableReread _ => none
  | .launchPromotion _ => none
  | .plotPlace _ => none
  | .plotRetire _ => none
  | .contextSwitch _ => none
  | .plotRestore _ => none
  | .contextKill _ => none
  | .threadResume _ => none
  | .translationWalk _ _ _ _ => none
  | .pageResolve _ _ _ => none
  | .pageRefuse _ _ _ => none
  | .invWrite _ _ => none
  | .invalidationComplete _ => none
  | .ctxsyncWrite _ _ => none
  | .ctxsyncComplete _ => none
  | .registerWrite _ _ => none
  | .homeRead _ _ => none
  | .storePerform _ _ => none
  | .atomicPerform _ _ => none
  | .loadReturn _ _ => none
  | .fenceWaitEnd _ => none
  | .copyBytesPerform _ _ _ => none
  | .copyRetire _ _ => none
  | .copyCancel _ => none
  | .streamSlotFill _ _ => none
  | .freedSlotNotice _ _ => none
  | .gsElementPerform _ _ _ => none
  | .sendSpaceAvailable _ => none
  | .sendTimeout _ => none
  | .wfiWake _ => none
  | .weightBankRefresh _ _ => none
  | .weightStoreLoad _ _ _ => none
  | .ingressTokenWrite _ _ _ => none
  | .ingressRecordEnqueue _ => none
  | .ingressTapFeed _ => none
  | .ingressStatusClear _ _ => none
  | .ingressReset _ => none
  | .hostWrite _ _ => none
  | .hostRead _ _ => none
  | .hostAtomicop _ _ _ _ => none
  | .ptmExchange _ _ => none
  | .fabricTimeWord _ _ => none
  | .capturePlace _ _ _ => none
  | .captureEntry _ _ _ => none
  | .slotFire _ _ _ _ _ => none
  | .tokenDeliver _ _ => none
  | .iterationClose _ _ => none
  | .drain _ _ => none
  | .drainCloseLimit _ _ => none
  | .drainComplete _ _ => none
  | .agenStep _ _ _ => none
  | .reductionArrival _ _ => none
  | .widthAdapt _ _ => none
  | .ingressTapInject _ _ _ => none
  | .circuitSetup _ _ _ _ => none
  | .circuitIdle _ _ => none
  | .circuitRelease _ _ => none
  | .regionShrink _ _ _ => none
  | .phaseSwitch _ _ _ => none
  | .regionSave _ _ _ => none
  | .regionClear _ _ => none
  | .regionRelease _ _ => none
  | .hangDetect _ _ => none
  | .cfgDropDone _ _ => none
  | .kctlStop _ => none
  | .kctlResume _ => none
  | .kctlTrace _ _ => none
  | .hvalClear _ _ => none
  | .kclrWrite _ _ => none
  | .mmaComplete _ => none
  | .arrayIdle _ => none
  | .sequencerResume _ _ => none
  | .wcsUpdateApply _ => none
  | .macroCommit _ => none
  | .bankdoneWrite _ _ => none
  | .htrWrite _ _ _ => none
  | .ringAcquisitionDone _ _ _ _ => none
  | .bankSubSet _ _ _ => none
  | .bankSubClear _ _ => none
  | .laneRetire _ _ _ => none
  | .laneReturn _ _ _ => none
  | .pavilionStart _ => none
  | .lgoWrite _ => none
  | .lstatClear _ _ => none
  | .lkillWrite _ => none
  | .tarnilRead _ => none
  | .tarnilReadData _ => none
  | .tarnilWrite _ => none
  | .tarnilAtomic _ => none
  | .tarnilAtomicData _ => none
  | .tarnilToken _ => none
  | .tarnilCircuitSetup _ => none
  | .tarnilCircuitData _ => none
  | .tarnilCircuitRelease _ => none
  | .tarnilRefusal _ => none
  | .fabricCircuitIdle _ => none
  | .linkReplay _ => none
  | .linkRetrain _ => none
  | .remoteTimeout _ => none
  | .pwinWrite _ => none
  | .prsvWrite _ => none
  | .pancrWrite _ => none
  | .pcapWrite _ => none
  | .plimsetWrite _ => none
  | .energyWindow _ => none
  | .opPointSettled _ => none
  | .dieWake _ => none
  | .columnStart _ => none
  | .dieGate _ => none
  | .drstWrite _ _ => none
  | .dieFence _ => none
  | .dieResetDeadline _ => none
  | .dieResetWake _ => none
  | .errorDetect _ => none
  | .selfTestDone _ _ => none
  | .keySlotLoad _ => none
  | .keySlotEmpty _ => none
  | .packageReset => none
  | .coreReset _ => none
  | .illegalOp => none
  | .cadenceIllegalOp => none
  | .ringLockLost _ _ _ => none
  | .ringLockRegained _ _ _ => none
  | .linkRetrainComplete _ => none
  | .tarnilLinkDown _ => none
  | .hostLinkDown _ => none
  | .hostLinkUp _ => none
  | .platformMessage _ => none

/-- The encoder's word of `i` carries the major opcode of its row, and an event has none. -/
def Statement (i : Instr) : Prop := (encodeWord i).map major = majorOf i


theorem FA.major_enc (mj : BitVec 6) (fn : BitVec 3) (f : FA) : major (f.enc mj fn) = mj.toNat := by
  simp (disch := omega) only [major, FA.enc, BitVec.extractLsb'_append_eq_of_le, Nat.reduceSub, BitVec.extractLsb'_eq_self]

theorem FU.major_enc (mj : BitVec 6) (fn : BitVec 3) (f : FU) : major (f.enc mj fn) = mj.toNat := by
  simp (disch := omega) only [major, FU.enc, BitVec.extractLsb'_append_eq_of_le, Nat.reduceSub, BitVec.extractLsb'_eq_self]

theorem FP.major_enc (mj : BitVec 6) (fn : BitVec 3) (f : FP) : major (f.enc mj fn) = mj.toNat := by
  simp (disch := omega) only [major, FP.enc, BitVec.extractLsb'_append_eq_of_le, Nat.reduceSub, BitVec.extractLsb'_eq_self]

theorem FPa.major_enc (mj : BitVec 6) (fn : BitVec 3) (f : FPa) : major (f.enc mj fn) = mj.toNat := by
  simp (disch := omega) only [major, FPa.enc, BitVec.extractLsb'_append_eq_of_le, Nat.reduceSub, BitVec.extractLsb'_eq_self]

theorem FSel.major_enc (mj : BitVec 6) (f : FSel) : major (f.enc mj) = mj.toNat := by
  simp (disch := omega) only [major, FSel.enc, BitVec.extractLsb'_append_eq_of_le, Nat.reduceSub, BitVec.extractLsb'_eq_self]

theorem FI.major_enc (mj : BitVec 6) (f : FI) : major (f.enc mj) = mj.toNat := by
  simp (disch := omega) only [major, FI.enc, BitVec.extractLsb'_append_eq_of_le, Nat.reduceSub, BitVec.extractLsb'_eq_self]

theorem FSh.major_enc (mj : BitVec 6) (fn : BitVec 2) (f : FSh) : major (f.enc mj fn) = mj.toNat := by
  simp (disch := omega) only [major, FSh.enc, BitVec.extractLsb'_append_eq_of_le, Nat.reduceSub, BitVec.extractLsb'_eq_self]

theorem FCi.major_enc (mj : BitVec 6) (fn : BitVec 3) (f : FCi) : major (f.enc mj fn) = mj.toNat := by
  simp (disch := omega) only [major, FCi.enc, BitVec.extractLsb'_append_eq_of_le, Nat.reduceSub, BitVec.extractLsb'_eq_self]

theorem FMv.major_enc (mj : BitVec 6) (f : FMv) : major (f.enc mj) = mj.toNat := by
  simp (disch := omega) only [major, FMv.enc, BitVec.extractLsb'_append_eq_of_le, Nat.reduceSub, BitVec.extractLsb'_eq_self]

theorem FSf.major_enc (mj : BitVec 6) (fn : BitVec 3) (f : FSf) : major (f.enc mj fn) = mj.toNat := by
  simp (disch := omega) only [major, FSf.enc, BitVec.extractLsb'_append_eq_of_le, Nat.reduceSub, BitVec.extractLsb'_eq_self]

theorem FV.major_enc (mj : BitVec 6) (f : FV) : major (f.enc mj) = mj.toNat := by
  simp (disch := omega) only [major, FV.enc, BitVec.extractLsb'_append_eq_of_le, Nat.reduceSub, BitVec.extractLsb'_eq_self]

theorem FM.major_enc (mj : BitVec 6) (f : FM) : major (f.enc mj) = mj.toNat := by
  simp (disch := omega) only [major, FM.enc, BitVec.extractLsb'_append_eq_of_le, Nat.reduceSub, BitVec.extractLsb'_eq_self]

theorem FMq.major_enc (mj : BitVec 6) (fn : BitVec 2) (f : FMq) : major (f.enc mj fn) = mj.toNat := by
  simp (disch := omega) only [major, FMq.enc, BitVec.extractLsb'_append_eq_of_le, Nat.reduceSub, BitVec.extractLsb'_eq_self]

theorem FMn.major_enc (mj : BitVec 6) (fn : BitVec 2) (f : FMn) : major (f.enc mj fn) = mj.toNat := by
  simp (disch := omega) only [major, FMn.enc, BitVec.extractLsb'_append_eq_of_le, Nat.reduceSub, BitVec.extractLsb'_eq_self]

theorem FMp.major_enc (mj : BitVec 6) (fn : BitVec 2) (f : FMp) : major (f.enc mj fn) = mj.toNat := by
  simp (disch := omega) only [major, FMp.enc, BitVec.extractLsb'_append_eq_of_le, Nat.reduceSub, BitVec.extractLsb'_eq_self]

theorem FAB.major_enc (mj : BitVec 6) (fn : BitVec 3) (f : FAB) : major (f.enc mj fn) = mj.toNat := by
  simp (disch := omega) only [major, FAB.enc, BitVec.extractLsb'_append_eq_of_le, Nat.reduceSub, BitVec.extractLsb'_eq_self]

theorem FABn.major_enc (mj : BitVec 6) (fn : BitVec 3) (f : FABn) : major (f.enc mj fn) = mj.toNat := by
  simp (disch := omega) only [major, FABn.enc, BitVec.extractLsb'_append_eq_of_le, Nat.reduceSub, BitVec.extractLsb'_eq_self]

theorem FAn.major_enc (mj : BitVec 6) (fn : BitVec 3) (f : FAn) : major (f.enc mj fn) = mj.toNat := by
  simp (disch := omega) only [major, FAn.enc, BitVec.extractLsb'_append_eq_of_le, Nat.reduceSub, BitVec.extractLsb'_eq_self]

theorem FA1.major_enc (mj : BitVec 6) (fn : BitVec 3) (f : FA1) : major (f.enc mj fn) = mj.toNat := by
  simp (disch := omega) only [major, FA1.enc, BitVec.extractLsb'_append_eq_of_le, Nat.reduceSub, BitVec.extractLsb'_eq_self]

theorem FG.major_enc (mj : BitVec 6) (fn : BitVec 3) (f : FG) : major (f.enc mj fn) = mj.toNat := by
  simp (disch := omega) only [major, FG.enc, BitVec.extractLsb'_append_eq_of_le, Nat.reduceSub, BitVec.extractLsb'_eq_self]

theorem FD.major_enc (mj : BitVec 6) (fn : BitVec 3) (f : FD) : major (f.enc mj fn) = mj.toNat := by
  simp (disch := omega) only [major, FD.enc, BitVec.extractLsb'_append_eq_of_le, Nat.reduceSub, BitVec.extractLsb'_eq_self]

theorem FDa.major_enc (mj : BitVec 6) (fn : BitVec 3) (f : FDa) : major (f.enc mj fn) = mj.toNat := by
  simp (disch := omega) only [major, FDa.enc, BitVec.extractLsb'_append_eq_of_le, Nat.reduceSub, BitVec.extractLsb'_eq_self]

theorem FAm.major_enc (mj : BitVec 6) (fn : BitVec 3) (f : FAm) : major (f.enc mj fn) = mj.toNat := by
  simp (disch := omega) only [major, FAm.enc, BitVec.extractLsb'_append_eq_of_le, Nat.reduceSub, BitVec.extractLsb'_eq_self]

theorem FDab.major_enc (mj : BitVec 6) (fn : BitVec 3) (f : FDab) : major (f.enc mj fn) = mj.toNat := by
  simp (disch := omega) only [major, FDab.enc, BitVec.extractLsb'_append_eq_of_le, Nat.reduceSub, BitVec.extractLsb'_eq_self]

theorem FJ.major_enc (mj : BitVec 6) (f : FJ) : major (f.enc mj) = mj.toNat := by
  simp (disch := omega) only [major, FJ.enc, BitVec.extractLsb'_append_eq_of_le, Nat.reduceSub, BitVec.extractLsb'_eq_self]

theorem FS.major_enc (mj : BitVec 6) (f : FS) : major (f.enc mj) = mj.toNat := by
  simp (disch := omega) only [major, FS.enc, BitVec.extractLsb'_append_eq_of_le, Nat.reduceSub, BitVec.extractLsb'_eq_self]

theorem TUnpack.major_enc (mj : BitVec 6) (fn : BitVec 3) (f : TUnpack) : major (f.enc mj fn) = mj.toNat := by
  simp (disch := omega) only [major, TUnpack.enc, BitVec.extractLsb'_append_eq_of_le, Nat.reduceSub, BitVec.extractLsb'_eq_self]

theorem TRed.major_enc (mj : BitVec 6) (fn : BitVec 3) (f : TRed) : major (f.enc mj fn) = mj.toNat := by
  simp (disch := omega) only [major, TRed.enc, BitVec.extractLsb'_append_eq_of_le, Nat.reduceSub, BitVec.extractLsb'_eq_self]

theorem TEos.major_enc (mj : BitVec 6) (fn : BitVec 3) (f : TEos) : major (f.enc mj fn) = mj.toNat := by
  simp (disch := omega) only [major, TEos.enc, BitVec.extractLsb'_append_eq_of_le, Nat.reduceSub, BitVec.extractLsb'_eq_self]

theorem TWadapt.major_enc (mj : BitVec 6) (fn : BitVec 3) (f : TWadapt) : major (f.enc mj fn) = mj.toNat := by
  simp (disch := omega) only [major, TWadapt.enc, BitVec.extractLsb'_append_eq_of_le, Nat.reduceSub, BitVec.extractLsb'_eq_self]

theorem CMma.major_enc (mj : BitVec 6) (fn : BitVec 3) (f : CMma) : major (f.enc mj fn) = mj.toNat := by
  simp (disch := omega) only [major, CMma.enc, BitVec.extractLsb'_append_eq_of_le, Nat.reduceSub, BitVec.extractLsb'_eq_self]

theorem CMxf6.major_enc (mj : BitVec 6) (fn : BitVec 3) (f : CMxf6) : major (f.enc mj fn) = mj.toNat := by
  simp (disch := omega) only [major, CMxf6.enc, BitVec.extractLsb'_append_eq_of_le, Nat.reduceSub, BitVec.extractLsb'_eq_self]

theorem CTld.major_enc (mj : BitVec 6) (f : CTld) : major (f.enc mj) = mj.toNat := by
  simp (disch := omega) only [major, CTld.enc, BitVec.extractLsb'_append_eq_of_le, Nat.reduceSub, BitVec.extractLsb'_eq_self]

theorem CTst.major_enc (mj : BitVec 6) (fn : BitVec 3) (f : CTst) : major (f.enc mj fn) = mj.toNat := by
  simp (disch := omega) only [major, CTst.enc, BitVec.extractLsb'_append_eq_of_le, Nat.reduceSub, BitVec.extractLsb'_eq_self]

theorem CTstS.major_enc (mj : BitVec 6) (fn : BitVec 3) (f : CTstS) : major (f.enc mj fn) = mj.toNat := by
  simp (disch := omega) only [major, CTstS.enc, BitVec.extractLsb'_append_eq_of_le, Nat.reduceSub, BitVec.extractLsb'_eq_self]

theorem add {f} : Statement (.add f) := congrArg some (FA.major_enc ..)
theorem sub {f} : Statement (.sub f) := congrArg some (FA.major_enc ..)
theorem and {f} : Statement (.and f) := congrArg some (FA.major_enc ..)
theorem or {f} : Statement (.or f) := congrArg some (FA.major_enc ..)
theorem xor {f} : Statement (.xor f) := congrArg some (FA.major_enc ..)
theorem andn {f} : Statement (.andn f) := congrArg some (FA.major_enc ..)
theorem orn {f} : Statement (.orn f) := congrArg some (FA.major_enc ..)
theorem xnor {f} : Statement (.xnor f) := congrArg some (FA.major_enc ..)
theorem shl {f} : Statement (.shl f) := congrArg some (FA.major_enc ..)
theorem shr {f} : Statement (.shr f) := congrArg some (FA.major_enc ..)
theorem sra {f} : Statement (.sra f) := congrArg some (FA.major_enc ..)
theorem rol {f} : Statement (.rol f) := congrArg some (FA.major_enc ..)
theorem ror {f} : Statement (.ror f) := congrArg some (FA.major_enc ..)
theorem clz {f} : Statement (.clz f) := congrArg some (FU.major_enc ..)
theorem popc {f} : Statement (.popc f) := congrArg some (FU.major_enc ..)
theorem brev {f} : Statement (.brev f) := congrArg some (FU.major_enc ..)
theorem minS {f} : Statement (.minS f) := congrArg some (FA.major_enc ..)
theorem maxS {f} : Statement (.maxS f) := congrArg some (FA.major_enc ..)
theorem minU {f} : Statement (.minU f) := congrArg some (FA.major_enc ..)
theorem maxU {f} : Statement (.maxU f) := congrArg some (FA.major_enc ..)
theorem abs {f} : Statement (.abs f) := congrArg some (FU.major_enc ..)
theorem neg {f} : Statement (.neg f) := congrArg some (FU.major_enc ..)
theorem sextB {f} : Statement (.sextB f) := congrArg some (FU.major_enc ..)
theorem sextH {f} : Statement (.sextH f) := congrArg some (FU.major_enc ..)
theorem mul {f} : Statement (.mul f) := congrArg some (FA.major_enc ..)
theorem mulhiS {f} : Statement (.mulhiS f) := congrArg some (FA.major_enc ..)
theorem mulhiU {f} : Statement (.mulhiU f) := congrArg some (FA.major_enc ..)
theorem mad {f} : Statement (.mad f) := congrArg some (FA.major_enc ..)
theorem divS {f} : Statement (.divS f) := congrArg some (FA.major_enc ..)
theorem divU {f} : Statement (.divU f) := congrArg some (FA.major_enc ..)
theorem remS {f} : Statement (.remS f) := congrArg some (FA.major_enc ..)
theorem remU {f} : Statement (.remU f) := congrArg some (FA.major_enc ..)
theorem addD {f} : Statement (.addD f) := congrArg some (FA.major_enc ..)
theorem subD {f} : Statement (.subD f) := congrArg some (FA.major_enc ..)
theorem madD {f} : Statement (.madD f) := congrArg some (FA.major_enc ..)
theorem mulwS {f} : Statement (.mulwS f) := congrArg some (FA.major_enc ..)
theorem mulwU {f} : Statement (.mulwU f) := congrArg some (FA.major_enc ..)
theorem shlD {f} : Statement (.shlD f) := congrArg some (FA.major_enc ..)
theorem shrD {f} : Statement (.shrD f) := congrArg some (FA.major_enc ..)
theorem sraD {f} : Statement (.sraD f) := congrArg some (FA.major_enc ..)
theorem cmpEq {f} : Statement (.cmpEq f) := congrArg some (FP.major_enc ..)
theorem cmpNe {f} : Statement (.cmpNe f) := congrArg some (FP.major_enc ..)
theorem cmpLtS {f} : Statement (.cmpLtS f) := congrArg some (FP.major_enc ..)
theorem cmpLeS {f} : Statement (.cmpLeS f) := congrArg some (FP.major_enc ..)
theorem cmpLtU {f} : Statement (.cmpLtU f) := congrArg some (FP.major_enc ..)
theorem cmpLeU {f} : Statement (.cmpLeU f) := congrArg some (FP.major_enc ..)
theorem cmpTst {f} : Statement (.cmpTst f) := congrArg some (FP.major_enc ..)
theorem cmpTstn {f} : Statement (.cmpTstn f) := congrArg some (FP.major_enc ..)
theorem sel {f} : Statement (.sel f) := congrArg some (FSel.major_enc ..)
theorem bfxU {f} : Statement (.bfxU f) := congrArg some (FA.major_enc ..)
theorem bfxS {f} : Statement (.bfxS f) := congrArg some (FA.major_enc ..)
theorem bfi {f} : Statement (.bfi f) := congrArg some (FA.major_enc ..)
theorem mov {f} : Statement (.mov f) := congrArg some (FU.major_enc ..)
theorem lea2 {f} : Statement (.lea2 f) := congrArg some (FA.major_enc ..)
theorem lea4 {f} : Statement (.lea4 f) := congrArg some (FA.major_enc ..)
theorem lea8 {f} : Statement (.lea8 f) := congrArg some (FA.major_enc ..)
theorem lea16 {f} : Statement (.lea16 f) := congrArg some (FA.major_enc ..)
theorem addi {f} : Statement (.addi f) := congrArg some (FI.major_enc ..)
theorem andi {f} : Statement (.andi f) := congrArg some (FI.major_enc ..)
theorem ori {f} : Statement (.ori f) := congrArg some (FI.major_enc ..)
theorem xori {f} : Statement (.xori f) := congrArg some (FI.major_enc ..)
theorem shli {f} : Statement (.shli f) := congrArg some (FSh.major_enc ..)
theorem shri {f} : Statement (.shri f) := congrArg some (FSh.major_enc ..)
theorem srai {f} : Statement (.srai f) := congrArg some (FSh.major_enc ..)
theorem roli {f} : Statement (.roli f) := congrArg some (FSh.major_enc ..)
theorem cmpiEq {f} : Statement (.cmpiEq f) := congrArg some (FCi.major_enc ..)
theorem cmpiNe {f} : Statement (.cmpiNe f) := congrArg some (FCi.major_enc ..)
theorem cmpiLtS {f} : Statement (.cmpiLtS f) := congrArg some (FCi.major_enc ..)
theorem cmpiLeS {f} : Statement (.cmpiLeS f) := congrArg some (FCi.major_enc ..)
theorem cmpiLtU {f} : Statement (.cmpiLtU f) := congrArg some (FCi.major_enc ..)
theorem cmpiLeU {f} : Statement (.cmpiLeU f) := congrArg some (FCi.major_enc ..)
theorem cmpiGtS {f} : Statement (.cmpiGtS f) := congrArg some (FCi.major_enc ..)
theorem cmpiGtU {f} : Statement (.cmpiGtU f) := congrArg some (FCi.major_enc ..)
theorem movi {f} : Statement (.movi f) := congrArg some (FMv.major_enc ..)
theorem movhi {f} : Statement (.movhi f) := congrArg some (FMv.major_enc ..)
theorem fadd {f} : Statement (.fadd f) := congrArg some (FA.major_enc ..)
theorem fsub {f} : Statement (.fsub f) := congrArg some (FA.major_enc ..)
theorem fmul {f} : Statement (.fmul f) := congrArg some (FA.major_enc ..)
theorem fmin {f} : Statement (.fmin f) := congrArg some (FA.major_enc ..)
theorem fmax {f} : Statement (.fmax f) := congrArg some (FA.major_enc ..)
theorem fabs {f} : Statement (.fabs f) := congrArg some (FU.major_enc ..)
theorem fneg {f} : Statement (.fneg f) := congrArg some (FU.major_enc ..)
theorem fcpsgn {f} : Statement (.fcpsgn f) := congrArg some (FA.major_enc ..)
theorem fma {f} : Statement (.fma f) := congrArg some (FA.major_enc ..)
theorem fms {f} : Statement (.fms f) := congrArg some (FA.major_enc ..)
theorem fnma {f} : Statement (.fnma f) := congrArg some (FA.major_enc ..)
theorem fnms {f} : Statement (.fnms f) := congrArg some (FA.major_enc ..)
theorem fmulH2 {f} : Statement (.fmulH2 f) := congrArg some (FA.major_enc ..)
theorem faddH2 {f} : Statement (.faddH2 f) := congrArg some (FA.major_enc ..)
theorem fmaH2 {f} : Statement (.fmaH2 f) := congrArg some (FA.major_enc ..)
theorem fmaB2 {f} : Statement (.fmaB2 f) := congrArg some (FA.major_enc ..)
theorem fcmpEq {f} : Statement (.fcmpEq f) := congrArg some (FP.major_enc ..)
theorem fcmpNe {f} : Statement (.fcmpNe f) := congrArg some (FP.major_enc ..)
theorem fcmpLt {f} : Statement (.fcmpLt f) := congrArg some (FP.major_enc ..)
theorem fcmpLe {f} : Statement (.fcmpLe f) := congrArg some (FP.major_enc ..)
theorem fcmpGe {f} : Statement (.fcmpGe f) := congrArg some (FP.major_enc ..)
theorem fcmpGt {f} : Statement (.fcmpGt f) := congrArg some (FP.major_enc ..)
theorem fcmpUn {f} : Statement (.fcmpUn f) := congrArg some (FP.major_enc ..)
theorem fcmpOrd {f} : Statement (.fcmpOrd f) := congrArg some (FP.major_enc ..)
theorem cvtF32S {f} : Statement (.cvtF32S f) := congrArg some (FU.major_enc ..)
theorem cvtSF32 {f} : Statement (.cvtSF32 f) := congrArg some (FU.major_enc ..)
theorem cvtF32U {f} : Statement (.cvtF32U f) := congrArg some (FU.major_enc ..)
theorem cvtUF32 {f} : Statement (.cvtUF32 f) := congrArg some (FU.major_enc ..)
theorem cvtF32F16 {f} : Statement (.cvtF32F16 f) := congrArg some (FU.major_enc ..)
theorem cvtF16F32 {f} : Statement (.cvtF16F32 f) := congrArg some (FU.major_enc ..)
theorem cvtF32Bf16 {f} : Statement (.cvtF32Bf16 f) := congrArg some (FU.major_enc ..)
theorem cvtBf16F32 {f} : Statement (.cvtBf16F32 f) := congrArg some (FU.major_enc ..)
theorem frndNe {f} : Statement (.frndNe f) := congrArg some (FU.major_enc ..)
theorem frndZ {f} : Statement (.frndZ f) := congrArg some (FU.major_enc ..)
theorem frndDn {f} : Statement (.frndDn f) := congrArg some (FU.major_enc ..)
theorem frndUp {f} : Statement (.frndUp f) := congrArg some (FU.major_enc ..)
theorem fcls {f} : Statement (.fcls f) := congrArg some (FU.major_enc ..)
theorem fldexp {f} : Statement (.fldexp f) := congrArg some (FA.major_enc ..)
theorem fgetexp {f} : Statement (.fgetexp f) := congrArg some (FU.major_enc ..)
theorem fgetman {f} : Statement (.fgetman f) := congrArg some (FU.major_enc ..)
theorem addB2 {f} : Statement (.addB2 f) := congrArg some (FA.major_enc ..)
theorem subB2 {f} : Statement (.subB2 f) := congrArg some (FA.major_enc ..)
theorem mulB2 {f} : Statement (.mulB2 f) := congrArg some (FA.major_enc ..)
theorem minB2 {f} : Statement (.minB2 f) := congrArg some (FA.major_enc ..)
theorem maxB2 {f} : Statement (.maxB2 f) := congrArg some (FA.major_enc ..)
theorem subH2 {f} : Statement (.subH2 f) := congrArg some (FA.major_enc ..)
theorem minH2 {f} : Statement (.minH2 f) := congrArg some (FA.major_enc ..)
theorem maxH2 {f} : Statement (.maxH2 f) := congrArg some (FA.major_enc ..)
theorem npkE4m3 {f} : Statement (.npkE4m3 f) := congrArg some (FA.major_enc ..)
theorem npkE5m2 {f} : Statement (.npkE5m2 f) := congrArg some (FA.major_enc ..)
theorem npkE3m2 {f} : Statement (.npkE3m2 f) := congrArg some (FA.major_enc ..)
theorem npkE2m3 {f} : Statement (.npkE2m3 f) := congrArg some (FA.major_enc ..)
theorem npkE2m1 {f} : Statement (.npkE2m1 f) := congrArg some (FA.major_enc ..)
theorem npkI8 {f} : Statement (.npkI8 f) := congrArg some (FA.major_enc ..)
theorem npkI4 {f} : Statement (.npkI4 f) := congrArg some (FA.major_enc ..)
theorem nupE4m3 {f} : Statement (.nupE4m3 f) := congrArg some (FA.major_enc ..)
theorem nupE5m2 {f} : Statement (.nupE5m2 f) := congrArg some (FA.major_enc ..)
theorem nupE3m2 {f} : Statement (.nupE3m2 f) := congrArg some (FA.major_enc ..)
theorem nupE2m3 {f} : Statement (.nupE2m3 f) := congrArg some (FA.major_enc ..)
theorem nupE2m1 {f} : Statement (.nupE2m1 f) := congrArg some (FA.major_enc ..)
theorem nupI8 {f} : Statement (.nupI8 f) := congrArg some (FA.major_enc ..)
theorem nupI4 {f} : Statement (.nupI4 f) := congrArg some (FA.major_enc ..)
theorem dot4E4 {f} : Statement (.dot4E4 f) := congrArg some (FA.major_enc ..)
theorem dot4E5 {f} : Statement (.dot4E5 f) := congrArg some (FA.major_enc ..)
theorem dot8F4 {f} : Statement (.dot8F4 f) := congrArg some (FA.major_enc ..)
theorem dot4I8 {f} : Statement (.dot4I8 f) := congrArg some (FA.major_enc ..)
theorem dot8I4 {f} : Statement (.dot8I4 f) := congrArg some (FA.major_enc ..)
theorem dot2B2 {f} : Statement (.dot2B2 f) := congrArg some (FA.major_enc ..)
theorem dot2H2 {f} : Statement (.dot2H2 f) := congrArg some (FA.major_enc ..)
theorem dot2B2f {f} : Statement (.dot2B2f f) := congrArg some (FA.major_enc ..)
theorem vmxF4 {f} : Statement (.vmxF4 f) := congrArg some (FV.major_enc ..)
theorem vmxE4 {f} : Statement (.vmxE4 f) := congrArg some (FV.major_enc ..)
theorem vmxE5 {f} : Statement (.vmxE5 f) := congrArg some (FV.major_enc ..)
theorem qntF4 {f} : Statement (.qntF4 f) := congrArg some (FA.major_enc ..)
theorem qntE4 {f} : Statement (.qntE4 f) := congrArg some (FA.major_enc ..)
theorem qntE5 {f} : Statement (.qntE5 f) := congrArg some (FA.major_enc ..)
theorem qntF4o {f} : Statement (.qntF4o f) := congrArg some (FA.major_enc ..)
theorem qntE4o {f} : Statement (.qntE4o f) := congrArg some (FA.major_enc ..)
theorem amaxL {f} : Statement (.amaxL f) := congrArg some (FA.major_enc ..)
theorem scl {f} : Statement (.scl f) := congrArg some (FA.major_enc ..)
theorem kc2DecLo {f} : Statement (.kc2DecLo f) := congrArg some (FU.major_enc ..)
theorem kc2DecHi {f} : Statement (.kc2DecHi f) := congrArg some (FU.major_enc ..)
theorem cbLd {f} : Statement (.cbLd f) := congrArg some (FAB.major_enc ..)
theorem exp {f} : Statement (.exp f) := congrArg some (FSf.major_enc ..)
theorem exp2 {f} : Statement (.exp2 f) := congrArg some (FSf.major_enc ..)
theorem ln {f} : Statement (.ln f) := congrArg some (FSf.major_enc ..)
theorem log2 {f} : Statement (.log2 f) := congrArg some (FSf.major_enc ..)
theorem rcp {f} : Statement (.rcp f) := congrArg some (FSf.major_enc ..)
theorem rsqrt {f} : Statement (.rsqrt f) := congrArg some (FSf.major_enc ..)
theorem sqrt {f} : Statement (.sqrt f) := congrArg some (FSf.major_enc ..)
theorem erf {f} : Statement (.erf f) := congrArg some (FSf.major_enc ..)
theorem tanh {f} : Statement (.tanh f) := congrArg some (FSf.major_enc ..)
theorem sigm {f} : Statement (.sigm f) := congrArg some (FSf.major_enc ..)
theorem gelu {f} : Statement (.gelu f) := congrArg some (FSf.major_enc ..)
theorem silu {f} : Statement (.silu f) := congrArg some (FSf.major_enc ..)
theorem sin {f} : Statement (.sin f) := congrArg some (FSf.major_enc ..)
theorem cos {f} : Statement (.cos f) := congrArg some (FSf.major_enc ..)
theorem tbl {f} : Statement (.tbl f) := congrArg some (FSf.major_enc ..)
theorem rsMax {f} : Statement (.rsMax f) := congrArg some (FA.major_enc ..)
theorem rsSexp {f} : Statement (.rsSexp f) := congrArg some (FA.major_enc ..)
theorem rsMean {f} : Statement (.rsMean f) := congrArg some (FA.major_enc ..)
theorem rsDev {f} : Statement (.rsDev f) := congrArg some (FA.major_enc ..)
theorem rsFin {f} : Statement (.rsFin f) := congrArg some (FA.major_enc ..)
theorem smxFin {f} : Statement (.smxFin f) := congrArg some (FA.major_enc ..)
theorem mask {f} : Statement (.mask f) := congrArg some (FA.major_enc ..)
theorem shflIdx {f} : Statement (.shflIdx f) := congrArg some (FA.major_enc ..)
theorem shflUp {f} : Statement (.shflUp f) := congrArg some (FA.major_enc ..)
theorem shflDn {f} : Statement (.shflDn f) := congrArg some (FA.major_enc ..)
theorem shflXor {f} : Statement (.shflXor f) := congrArg some (FA.major_enc ..)
theorem ballot {f} : Statement (.ballot f) := congrArg some (FU.major_enc ..)
theorem laneMatch {f} : Statement (.laneMatch f) := congrArg some (FU.major_enc ..)
theorem laneAny {f} : Statement (.laneAny f) := congrArg some (FU.major_enc ..)
theorem laneAll {f} : Statement (.laneAll f) := congrArg some (FU.major_enc ..)
theorem redAdd {f} : Statement (.redAdd f) := congrArg some (FU.major_enc ..)
theorem redMin {f} : Statement (.redMin f) := congrArg some (FU.major_enc ..)
theorem redMax {f} : Statement (.redMax f) := congrArg some (FU.major_enc ..)
theorem redAnd {f} : Statement (.redAnd f) := congrArg some (FU.major_enc ..)
theorem redOr {f} : Statement (.redOr f) := congrArg some (FU.major_enc ..)
theorem redFadd {f} : Statement (.redFadd f) := congrArg some (FU.major_enc ..)
theorem scanAdd {f} : Statement (.scanAdd f) := congrArg some (FU.major_enc ..)
theorem scanFadd {f} : Statement (.scanFadd f) := congrArg some (FU.major_enc ..)
theorem tblLd {f} : Statement (.tblLd f) := congrArg some (FA1.major_enc ..)
theorem tblSw {f} : Statement (.tblSw f) := congrArg some (FG.major_enc ..)
theorem tblRd {f} : Statement (.tblRd f) := congrArg some (FA.major_enc ..)
theorem ld {f} : Statement (.ld f) := congrArg some (FM.major_enc ..)
theorem lds {f} : Statement (.lds f) := congrArg some (FM.major_enc ..)
theorem st {f} : Statement (.st f) := congrArg some (FM.major_enc ..)
theorem ldq {f} : Statement (.ldq f) := congrArg some (FMq.major_enc ..)
theorem stq {f} : Statement (.stq f) := congrArg some (FMq.major_enc ..)
theorem ldNc {f} : Statement (.ldNc f) := congrArg some (FMn.major_enc ..)
theorem pf {f} : Statement (.pf f) := congrArg some (FMp.major_enc ..)
theorem lda {f} : Statement (.lda f) := congrArg some (FM.major_enc ..)
theorem stl {f} : Statement (.stl f) := congrArg some (FM.major_enc ..)
theorem amoAdd {f} : Statement (.amoAdd f) := congrArg some (FAm.major_enc ..)
theorem amoMinS {f} : Statement (.amoMinS f) := congrArg some (FAm.major_enc ..)
theorem amoMaxS {f} : Statement (.amoMaxS f) := congrArg some (FAm.major_enc ..)
theorem amoMinU {f} : Statement (.amoMinU f) := congrArg some (FAm.major_enc ..)
theorem amoMaxU {f} : Statement (.amoMaxU f) := congrArg some (FAm.major_enc ..)
theorem amoAnd {f} : Statement (.amoAnd f) := congrArg some (FAm.major_enc ..)
theorem amoOr {f} : Statement (.amoOr f) := congrArg some (FAm.major_enc ..)
theorem amoXor {f} : Statement (.amoXor f) := congrArg some (FAm.major_enc ..)
theorem amoXchg {f} : Statement (.amoXchg f) := congrArg some (FAm.major_enc ..)
theorem amoCas {f} : Statement (.amoCas f) := congrArg some (FAm.major_enc ..)
theorem amoFadd {f} : Statement (.amoFadd f) := congrArg some (FDab.major_enc ..)
theorem amoFaddB2 {f} : Statement (.amoFaddB2 f) := congrArg some (FDab.major_enc ..)
theorem amoFmax {f} : Statement (.amoFmax f) := congrArg some (FDab.major_enc ..)
theorem amoIncW {f} : Statement (.amoIncW f) := congrArg some (FDab.major_enc ..)
theorem amoDecW {f} : Statement (.amoDecW f) := congrArg some (FDab.major_enc ..)
theorem br {f} : Statement (.br f) := congrArg some (FJ.major_enc ..)
theorem userMacro {f} : Statement (.userMacro f) := by
  show some (major (f.enc 0xf#4)) = some (60 + f.x.toNat)
  have e : major (f.enc 0xf#4) = (0xf#4 ++ f.x).toNat := by
    simp (disch := omega) only [major, FX.enc, BitVec.extractLsb'_append_eq_of_le, Nat.reduceSub]
    rw [show (6 : Nat) = 4 + 2 from rfl, BitVec.extractLsb'_eq_self]
  have g : ∀ x : BitVec 2, (0xf#4 ++ x).toNat = 60 + x.toNat := by decide
  rw [e, g]

theorem calloc {a} : Statement (.calloc a) := by
  show some (major (0x3a#6 ++ 7#4 ++ 0#6 ++ a ++ 0#6 ++ 0#1 ++ 0#3)) = some 58
  simp (disch := omega) only [major, BitVec.extractLsb'_append_eq_of_le, Nat.reduceSub, BitVec.extractLsb'_eq_self,
    BitVec.toNat_ofNat, Nat.reducePow, Nat.reduceMod]
theorem pack {a} {b} : Statement (.pack a b) := by
  show some (major (0x3a#6 ++ 7#4 ++ 0#6 ++ a ++ b ++ 0#1 ++ 1#3)) = some 58
  simp (disch := omega) only [major, BitVec.extractLsb'_append_eq_of_le, Nat.reduceSub, BitVec.extractLsb'_eq_self,
    BitVec.toNat_ofNat, Nat.reducePow, Nat.reduceMod]
theorem unpack {f} : Statement (.unpack f) := congrArg some (TUnpack.major_enc ..)
theorem merge {a} {b} : Statement (.merge a b) := by
  show some (major (0x3a#6 ++ 7#4 ++ 0#6 ++ a ++ b ++ 0#1 ++ 3#3)) = some 58
  simp (disch := omega) only [major, BitVec.extractLsb'_append_eq_of_le, Nat.reduceSub, BitVec.extractLsb'_eq_self,
    BitVec.toNat_ofNat, Nat.reducePow, Nat.reduceMod]
theorem steer {a} : Statement (.steer a) := by
  show some (major (0x3a#6 ++ 7#4 ++ 0#6 ++ a ++ 0#6 ++ 0#1 ++ 4#3)) = some 58
  simp (disch := omega) only [major, BitVec.extractLsb'_append_eq_of_le, Nat.reduceSub, BitVec.extractLsb'_eq_self,
    BitVec.toNat_ofNat, Nat.reducePow, Nat.reduceMod]
theorem redCfg {f} : Statement (.redCfg f) := congrArg some (TRed.major_enc ..)
theorem agen {a} : Statement (.agen a) := by
  show some (major (0x3b#6 ++ 7#4 ++ 0#6 ++ a ++ 0#6 ++ 0#1 ++ 1#3)) = some 59
  simp (disch := omega) only [major, BitVec.extractLsb'_append_eq_of_le, Nat.reduceSub, BitVec.extractLsb'_eq_self,
    BitVec.toNat_ofNat, Nat.reducePow, Nat.reduceMod]
theorem isect {a} {b} : Statement (.isect a b) := by
  show some (major (0x3b#6 ++ 7#4 ++ 0#6 ++ a ++ b ++ 0#1 ++ 2#3)) = some 59
  simp (disch := omega) only [major, BitVec.extractLsb'_append_eq_of_le, Nat.reduceSub, BitVec.extractLsb'_eq_self,
    BitVec.toNat_ofNat, Nat.reducePow, Nat.reduceMod]
theorem unionCoord {a} {b} : Statement (.unionCoord a b) := by
  show some (major (0x3b#6 ++ 7#4 ++ 0#6 ++ a ++ b ++ 0#1 ++ 3#3)) = some 59
  simp (disch := omega) only [major, BitVec.extractLsb'_append_eq_of_le, Nat.reduceSub, BitVec.extractLsb'_eq_self,
    BitVec.toNat_ofNat, Nat.reducePow, Nat.reduceMod]
theorem eos {f} : Statement (.eos f) := congrArg some (TEos.major_enc ..)
theorem emit {a} {b} : Statement (.emit a b) := by
  show some (major (0x3b#6 ++ 7#4 ++ 0#6 ++ a ++ b ++ 0#1 ++ 5#3)) = some 59
  simp (disch := omega) only [major, BitVec.extractLsb'_append_eq_of_le, Nat.reduceSub, BitVec.extractLsb'_eq_self,
    BitVec.toNat_ofNat, Nat.reducePow, Nat.reduceMod]
theorem wadapt {f} : Statement (.wadapt f) := congrArg some (TWadapt.major_enc ..)
theorem feClr {f} : Statement (.feClr f) := congrArg some (FAB.major_enc ..)
theorem feSet {f} : Statement (.feSet f) := congrArg some (FAB.major_enc ..)
theorem feTst {f} : Statement (.feTst f) := congrArg some (FPa.major_enc ..)
theorem feWt {f} : Statement (.feWt f) := congrArg some (FAn.major_enc ..)
theorem gat {f} : Statement (.gat f) := congrArg some (FAB.major_enc ..)
theorem sct {f} : Statement (.sct f) := congrArg some (FAB.major_enc ..)
theorem otkNew {f} : Statement (.otkNew f) := congrArg some (FD.major_enc ..)
theorem otkWt {f} : Statement (.otkWt f) := congrArg some (FA1.major_enc ..)
theorem fenceCore {f} : Statement (.fenceCore f) := congrArg some (FG.major_enc ..)
theorem fenceDie {f} : Statement (.fenceDie f) := congrArg some (FG.major_enc ..)
theorem fencePkg {f} : Statement (.fencePkg f) := congrArg some (FG.major_enc ..)
theorem fenceSys {f} : Statement (.fenceSys f) := congrArg some (FG.major_enc ..)
theorem xfence {f} : Statement (.xfence f) := congrArg some (FAB.major_enc ..)
theorem gwct {f} : Statement (.gwct f) := congrArg some (FDa.major_enc ..)
theorem leaseDrop {f} : Statement (.leaseDrop f) := congrArg some (FG.major_enc ..)
theorem barArr {f} : Statement (.barArr f) := congrArg some (FA1.major_enc ..)
theorem barWt {f} : Statement (.barWt f) := congrArg some (FA1.major_enc ..)
theorem barSync {f} : Statement (.barSync f) := congrArg some (FA1.major_enc ..)
theorem nbarArr {f} : Statement (.nbarArr f) := congrArg some (FA1.major_enc ..)
theorem nbarWt {f} : Statement (.nbarWt f) := congrArg some (FA1.major_enc ..)
theorem bwait {f} : Statement (.bwait f) := congrArg some (FA1.major_enc ..)
theorem bobjInit {f} : Statement (.bobjInit f) := congrArg some (FAB.major_enc ..)
theorem kick {f} : Statement (.kick f) := congrArg some (FAB.major_enc ..)
theorem cpySt {f} : Statement (.cpySt f) := congrArg some (FDa.major_enc ..)
theorem free {f} : Statement (.free f) := congrArg some (FA1.major_enc ..)
theorem ringInit {f} : Statement (.ringInit f) := congrArg some (FABn.major_enc ..)
theorem send {f} : Statement (.send f) := congrArg some (FAn.major_enc ..)
theorem recvAdv {f} : Statement (.recvAdv f) := congrArg some (FAn.major_enc ..)
theorem call {f} : Statement (.call f) := congrArg some (FJ.major_enc ..)
theorem brx {f} : Statement (.brx f) := congrArg some (FA1.major_enc ..)
theorem callx {f} : Statement (.callx f) := congrArg some (FA1.major_enc ..)
theorem ret {f} : Statement (.ret f) := congrArg some (FG.major_enc ..)
theorem exit {f} : Statement (.exit f) := congrArg some (FG.major_enc ..)
theorem yield {f} : Statement (.yield f) := congrArg some (FG.major_enc ..)
theorem sleep {f} : Statement (.sleep f) := congrArg some (FA1.major_enc ..)
theorem nop {f} : Statement (.nop f) := congrArg some (FG.major_enc ..)
theorem hot {f} : Statement (.hot f) := congrArg some (FG.major_enc ..)
theorem spawn {f} : Statement (.spawn f) := congrArg some (FP.major_enc ..)
theorem spawnW {f} : Statement (.spawnW f) := congrArg some (FP.major_enc ..)
theorem regroup {f} : Statement (.regroup f) := congrArg some (FA1.major_enc ..)
theorem nocap {f} : Statement (.nocap f) := congrArg some (FG.major_enc ..)
theorem capok {f} : Statement (.capok f) := congrArg some (FG.major_enc ..)
theorem trap {f} : Statement (.trap f) := congrArg some (FA1.major_enc ..)
theorem lnch {f} : Statement (.lnch f) := congrArg some (FU.major_enc ..)
theorem srd {f} : Statement (.srd f) := congrArg some (FS.major_enc ..)
theorem crd {f} : Statement (.crd f) := congrArg some (FS.major_enc ..)
theorem cwr {f} : Statement (.cwr f) := congrArg some (FS.major_enc ..)
theorem tret {f} : Statement (.tret f) := congrArg some (FG.major_enc ..)
theorem wfi {f} : Statement (.wfi f) := congrArg some (FG.major_enc ..)
theorem halt {f} : Statement (.halt f) := congrArg some (FG.major_enc ..)
theorem vdhop {f} : Statement (.vdhop f) := congrArg some (FA.major_enc ..)
theorem cfgld {f} : Statement (.cfgld f) := congrArg some (FA.major_enc ..)
theorem cfgDrop {f} : Statement (.cfgDrop f) := congrArg some (FA1.major_enc ..)
theorem wcsld {f} : Statement (.wcsld f) := congrArg some (FA.major_enc ..)
theorem wcsbind {f} : Statement (.wcsbind f) := congrArg some (FAB.major_enc ..)
theorem accRd {f} : Statement (.accRd f) := congrArg some (FA.major_enc ..)
theorem accWr {f} : Statement (.accWr f) := congrArg some (FDab.major_enc ..)
theorem tileRd {f} : Statement (.tileRd f) := congrArg some (FA.major_enc ..)
theorem tileWr {f} : Statement (.tileWr f) := congrArg some (FDab.major_enc ..)
theorem olRd {f} : Statement (.olRd f) := congrArg some (FA.major_enc ..)
theorem olWr {f} : Statement (.olWr f) := congrArg some (FDab.major_enc ..)
theorem olCnt {f} : Statement (.olCnt f) := congrArg some (FU.major_enc ..)
theorem mmaBf16 {f} : Statement (.mmaBf16 f) := congrArg some (CMma.major_enc ..)
theorem mmaF16 {f} : Statement (.mmaF16 f) := congrArg some (CMma.major_enc ..)
theorem mmaE4m3 {f} : Statement (.mmaE4m3 f) := congrArg some (CMma.major_enc ..)
theorem mmaE5m2 {f} : Statement (.mmaE5m2 f) := congrArg some (CMma.major_enc ..)
theorem mmaMxe4 {f} : Statement (.mmaMxe4 f) := congrArg some (CMma.major_enc ..)
theorem mmaMxe5 {f} : Statement (.mmaMxe5 f) := congrArg some (CMma.major_enc ..)
theorem mmaMxf6 {f} : Statement (.mmaMxf6 f) := congrArg some (CMxf6.major_enc ..)
theorem mmaMxf4 {f} : Statement (.mmaMxf4 f) := congrArg some (CMma.major_enc ..)
theorem mmaI8 {f} : Statement (.mmaI8 f) := congrArg some (CMma.major_enc ..)
theorem mmaI4 {f} : Statement (.mmaI4 f) := congrArg some (CMma.major_enc ..)
theorem mmaBf16T {f} : Statement (.mmaBf16T f) := congrArg some (CMma.major_enc ..)
theorem tld {f} : Statement (.tld f) := congrArg some (CTld.major_enc ..)
theorem tstRaw {f} : Statement (.tstRaw f) := congrArg some (CTst.major_enc ..)
theorem tstBf16 {f} : Statement (.tstBf16 f) := congrArg some (CTst.major_enc ..)
theorem tstF16 {f} : Statement (.tstF16 f) := congrArg some (CTst.major_enc ..)
theorem tstE4m3 {f} : Statement (.tstE4m3 f) := congrArg some (CTstS.major_enc ..)
theorem tstE5m2 {f} : Statement (.tstE5m2 f) := congrArg some (CTstS.major_enc ..)
theorem tzT {d} : Statement (.tzT d) := by
  show some (major (0x4#6 ++ d ++ 0#5 ++ 0#5 ++ 0#3 ++ 0#8)) = some 4
  simp (disch := omega) only [major, BitVec.extractLsb'_append_eq_of_le, Nat.reduceSub, BitVec.extractLsb'_eq_self,
    BitVec.toNat_ofNat, Nat.reducePow, Nat.reduceMod]
theorem tzA {d} : Statement (.tzA d) := by
  show some (major (0x4#6 ++ d ++ 0#5 ++ 0#5 ++ 1#3 ++ 0#8)) = some 4
  simp (disch := omega) only [major, BitVec.extractLsb'_append_eq_of_le, Nat.reduceSub, BitVec.extractLsb'_eq_self,
    BitVec.toNat_ofNat, Nat.reducePow, Nat.reduceMod]
theorem tsetW {d} {a} : Statement (.tsetW d a) := by
  show some (major (0x5#6 ++ d ++ a ++ 0#5 ++ 0#3 ++ 0#8)) = some 5
  simp (disch := omega) only [major, BitVec.extractLsb'_append_eq_of_le, Nat.reduceSub, BitVec.extractLsb'_eq_self,
    BitVec.toNat_ofNat, Nat.reducePow, Nat.reduceMod]
theorem tsetH {d} {a} : Statement (.tsetH d a) := by
  show some (major (0x5#6 ++ d ++ a ++ 0#5 ++ 1#3 ++ 0#8)) = some 5
  simp (disch := omega) only [major, BitVec.extractLsb'_append_eq_of_le, Nat.reduceSub, BitVec.extractLsb'_eq_self,
    BitVec.toNat_ofNat, Nat.reducePow, Nat.reduceMod]
theorem tsetC {d} {a} : Statement (.tsetC d a) := by
  show some (major (0x5#6 ++ d ++ a ++ 0#5 ++ 2#3 ++ 0#8)) = some 5
  simp (disch := omega) only [major, BitVec.extractLsb'_append_eq_of_le, Nat.reduceSub, BitVec.extractLsb'_eq_self,
    BitVec.toNat_ofNat, Nat.reducePow, Nat.reduceMod]
theorem tsetEsc {d} {a} : Statement (.tsetEsc d a) := by
  show some (major (0x5#6 ++ d ++ a ++ 0#5 ++ 3#3 ++ 0#8)) = some 5
  simp (disch := omega) only [major, BitVec.extractLsb'_append_eq_of_le, Nat.reduceSub, BitVec.extractLsb'_eq_self,
    BitVec.toNat_ofNat, Nat.reducePow, Nat.reduceMod]
theorem kadd {d} {a} {b} : Statement (.kadd d a b) := by
  show some (major (0x6#6 ++ d ++ a ++ b ++ 0#3 ++ 0#8)) = some 6
  simp (disch := omega) only [major, BitVec.extractLsb'_append_eq_of_le, Nat.reduceSub, BitVec.extractLsb'_eq_self,
    BitVec.toNat_ofNat, Nat.reducePow, Nat.reduceMod]
theorem ksub {d} {a} {b} : Statement (.ksub d a b) := by
  show some (major (0x6#6 ++ d ++ a ++ b ++ 1#3 ++ 0#8)) = some 6
  simp (disch := omega) only [major, BitVec.extractLsb'_append_eq_of_le, Nat.reduceSub, BitVec.extractLsb'_eq_self,
    BitVec.toNat_ofNat, Nat.reducePow, Nat.reduceMod]
theorem kmul {d} {a} {b} : Statement (.kmul d a b) := by
  show some (major (0x6#6 ++ d ++ a ++ b ++ 2#3 ++ 0#8)) = some 6
  simp (disch := omega) only [major, BitVec.extractLsb'_append_eq_of_le, Nat.reduceSub, BitVec.extractLsb'_eq_self,
    BitVec.toNat_ofNat, Nat.reducePow, Nat.reduceMod]
theorem kand {d} {a} {b} : Statement (.kand d a b) := by
  show some (major (0x6#6 ++ d ++ a ++ b ++ 3#3 ++ 0#8)) = some 6
  simp (disch := omega) only [major, BitVec.extractLsb'_append_eq_of_le, Nat.reduceSub, BitVec.extractLsb'_eq_self,
    BitVec.toNat_ofNat, Nat.reducePow, Nat.reduceMod]
theorem kor {d} {a} {b} : Statement (.kor d a b) := by
  show some (major (0x6#6 ++ d ++ a ++ b ++ 4#3 ++ 0#8)) = some 6
  simp (disch := omega) only [major, BitVec.extractLsb'_append_eq_of_le, Nat.reduceSub, BitVec.extractLsb'_eq_self,
    BitVec.toNat_ofNat, Nat.reducePow, Nat.reduceMod]
theorem kshl {d} {a} {b} : Statement (.kshl d a b) := by
  show some (major (0x6#6 ++ d ++ a ++ b ++ 5#3 ++ 0#8)) = some 6
  simp (disch := omega) only [major, BitVec.extractLsb'_append_eq_of_le, Nat.reduceSub, BitVec.extractLsb'_eq_self,
    BitVec.toNat_ofNat, Nat.reducePow, Nat.reduceMod]
theorem kshr {d} {a} {b} : Statement (.kshr d a b) := by
  show some (major (0x6#6 ++ d ++ a ++ b ++ 6#3 ++ 0#8)) = some 6
  simp (disch := omega) only [major, BitVec.extractLsb'_append_eq_of_le, Nat.reduceSub, BitVec.extractLsb'_eq_self,
    BitVec.toNat_ofNat, Nat.reducePow, Nat.reduceMod]
theorem kmov {d} {a} : Statement (.kmov d a) := by
  show some (major (0x6#6 ++ d ++ a ++ 0#5 ++ 7#3 ++ 0#8)) = some 6
  simp (disch := omega) only [major, BitVec.extractLsb'_append_eq_of_le, Nat.reduceSub, BitVec.extractLsb'_eq_self,
    BitVec.toNat_ofNat, Nat.reducePow, Nat.reduceMod]
theorem kaddi {d} {i} : Statement (.kaddi d i) := by
  show some (major (0x7#6 ++ d ++ 0#2 ++ 0#3 ++ i)) = some 7
  simp (disch := omega) only [major, BitVec.extractLsb'_append_eq_of_le, Nat.reduceSub, BitVec.extractLsb'_eq_self,
    BitVec.toNat_ofNat, Nat.reducePow, Nat.reduceMod]
theorem kmovi {d} {i} : Statement (.kmovi d i) := by
  show some (major (0x7#6 ++ d ++ 1#2 ++ 0#3 ++ i)) = some 7
  simp (disch := omega) only [major, BitVec.extractLsb'_append_eq_of_le, Nat.reduceSub, BitVec.extractLsb'_eq_self,
    BitVec.toNat_ofNat, Nat.reducePow, Nat.reduceMod]
theorem krep {a} {o} : Statement (.krep a o) := by
  show some (major (0x8#6 ++ 0#2 ++ 0#3 ++ a ++ o)) = some 8
  simp (disch := omega) only [major, BitVec.extractLsb'_append_eq_of_le, Nat.reduceSub, BitVec.extractLsb'_eq_self,
    BitVec.toNat_ofNat, Nat.reducePow, Nat.reduceMod]
theorem kbnz {a} {o} : Statement (.kbnz a o) := by
  show some (major (0x8#6 ++ 1#2 ++ 0#3 ++ a ++ o)) = some 8
  simp (disch := omega) only [major, BitVec.extractLsb'_append_eq_of_le, Nat.reduceSub, BitVec.extractLsb'_eq_self,
    BitVec.toNat_ofNat, Nat.reducePow, Nat.reduceMod]
theorem kend : Statement (.kend) := rfl
theorem cadNbarArr {a} : Statement (.cadNbarArr a) := by
  show some (major (0x9#6 ++ 0#5 ++ a ++ 0#5 ++ 0#3 ++ 0#8)) = some 9
  simp (disch := omega) only [major, BitVec.extractLsb'_append_eq_of_le, Nat.reduceSub, BitVec.extractLsb'_eq_self,
    BitVec.toNat_ofNat, Nat.reducePow, Nat.reduceMod]
theorem cadNbarWt {a} : Statement (.cadNbarWt a) := by
  show some (major (0x9#6 ++ 0#5 ++ a ++ 0#5 ++ 1#3 ++ 0#8)) = some 9
  simp (disch := omega) only [major, BitVec.extractLsb'_append_eq_of_le, Nat.reduceSub, BitVec.extractLsb'_eq_self,
    BitVec.toNat_ofNat, Nat.reducePow, Nat.reduceMod]
theorem cend : Statement (.cend) := rfl
theorem olClr {d} : Statement (.olClr d) := by
  show some (major (0xb#6 ++ d ++ 0#5 ++ 0#5 ++ 0#3 ++ 0#8)) = some 11
  simp (disch := omega) only [major, BitVec.extractLsb'_append_eq_of_le, Nat.reduceSub, BitVec.extractLsb'_eq_self,
    BitVec.toNat_ofNat, Nat.reducePow, Nat.reduceMod]
theorem olLim {d} {a} : Statement (.olLim d a) := by
  show some (major (0xb#6 ++ d ++ a ++ 0#5 ++ 1#3 ++ 0#8)) = some 11
  simp (disch := omega) only [major, BitVec.extractLsb'_append_eq_of_le, Nat.reduceSub, BitVec.extractLsb'_eq_self,
    BitVec.toNat_ofNat, Nat.reducePow, Nat.reduceMod]
theorem packerCycle {c} : Statement (.packerCycle c) := rfl
theorem laneEvent {p} {blk} : Statement (.laneEvent p blk) := rfl
theorem barrierTimeout {seq} {k} : Statement (.barrierTimeout seq k) := rfl
theorem sleepEnd {t} : Statement (.sleepEnd t) := rfl
theorem spawnQueueRoom {t} : Statement (.spawnQueueRoom t) := rfl
theorem spawnWaitLimit {t} : Statement (.spawnWaitLimit t) := rfl
theorem spawnBinRelease {p} {entry} : Statement (.spawnBinRelease p entry) := rfl
theorem spawnBinTimer {p} {entry} : Statement (.spawnBinTimer p entry) := rfl
theorem regroupBinRelease {p} {pc} {v} : Statement (.regroupBinRelease p pc v) := rfl
theorem regroupBinTimer {p} {pc} {v} : Statement (.regroupBinTimer p pc v) := rfl
theorem launchTake {l} : Statement (.launchTake l) := rfl
theorem groupTableReread {l} : Statement (.groupTableReread l) := rfl
theorem launchPromotion {l} : Statement (.launchPromotion l) := rfl
theorem plotPlace {d} : Statement (.plotPlace d) := rfl
theorem plotRetire {p} : Statement (.plotRetire p) := rfl
theorem contextSwitch {p} : Statement (.contextSwitch p) := rfl
theorem plotRestore {p} : Statement (.plotRestore p) := rfl
theorem contextKill {x} : Statement (.contextKill x) := rfl
theorem threadResume {t} : Statement (.threadResume t) := rfl
theorem translationWalk {d} {x} {va} {acc} : Statement (.translationWalk d x va acc) := rfl
theorem pageResolve {d} {x} {va} : Statement (.pageResolve d x va) := rfl
theorem pageRefuse {d} {x} {va} : Statement (.pageRefuse d x va) := rfl
theorem invWrite {d} {v} : Statement (.invWrite d v) := rfl
theorem invalidationComplete {d} : Statement (.invalidationComplete d) := rfl
theorem ctxsyncWrite {d} {v} : Statement (.ctxsyncWrite d v) := rfl
theorem ctxsyncComplete {d} : Statement (.ctxsyncComplete d) := rfl
theorem registerWrite {pa} {v} : Statement (.registerWrite pa v) := rfl
theorem homeRead {t} {n} : Statement (.homeRead t n) := rfl
theorem storePerform {t} {n} : Statement (.storePerform t n) := rfl
theorem atomicPerform {t} {n} : Statement (.atomicPerform t n) := rfl
theorem loadReturn {t} {n} : Statement (.loadReturn t n) := rfl
theorem fenceWaitEnd {t} : Statement (.fenceWaitEnd t) := rfl
theorem copyBytesPerform {c} {n} {k} : Statement (.copyBytesPerform c n k) := rfl
theorem copyRetire {c} {n} : Statement (.copyRetire c n) := rfl
theorem copyCancel {c} : Statement (.copyCancel c) := rfl
theorem streamSlotFill {c} {h} : Statement (.streamSlotFill c h) := rfl
theorem freedSlotNotice {c} {h} : Statement (.freedSlotNotice c h) := rfl
theorem gsElementPerform {p} {n} {i} : Statement (.gsElementPerform p n i) := rfl
theorem sendSpaceAvailable {t} : Statement (.sendSpaceAvailable t) := rfl
theorem sendTimeout {t} : Statement (.sendTimeout t) := rfl
theorem wfiWake {t} : Statement (.wfiWake t) := rfl
theorem weightBankRefresh {d} {b} : Statement (.weightBankRefresh d b) := rfl
theorem weightStoreLoad {d} {off} {data} : Statement (.weightStoreLoad d off data) := rfl
theorem ingressTokenWrite {port} {off} {data} : Statement (.ingressTokenWrite port off data) := rfl
theorem ingressRecordEnqueue {port} : Statement (.ingressRecordEnqueue port) := rfl
theorem ingressTapFeed {port} : Statement (.ingressTapFeed port) := rfl
theorem ingressStatusClear {port} {v} : Statement (.ingressStatusClear port v) := rfl
theorem ingressReset {port} : Statement (.ingressReset port) := rfl
theorem hostWrite {pa} {data} : Statement (.hostWrite pa data) := rfl
theorem hostRead {pa} {n} : Statement (.hostRead pa n) := rfl
theorem hostAtomicop {pa} {op} {x} {y} : Statement (.hostAtomicop pa op x y) := rfl
theorem ptmExchange {ns link} : Statement (.ptmExchange ns link) := rfl
theorem fabricTimeWord {ns link} : Statement (.fabricTimeWord ns link) := rfl
theorem capturePlace {c} {x} {head} : Statement (.capturePlace c x head) := rfl
theorem captureEntry {c} {x} {head} : Statement (.captureEntry c x head) := rfl
theorem slotFire {c} {col} {e} {sl} {tag} : Statement (.slotFire c col e sl tag) := rfl
theorem tokenDeliver {c} {n} : Statement (.tokenDeliver c n) := rfl
theorem iterationClose {c} {col} : Statement (.iterationClose c col) := rfl
theorem drain {c} {col} : Statement (.drain c col) := rfl
theorem drainCloseLimit {c} {col} : Statement (.drainCloseLimit c col) := rfl
theorem drainComplete {c} {col} : Statement (.drainComplete c col) := rfl
theorem agenStep {c} {h} {node} : Statement (.agenStep c h node) := rfl
theorem reductionArrival {c} {n} : Statement (.reductionArrival c n) := rfl
theorem widthAdapt {c} {n} : Statement (.widthAdapt c n) := rfl
theorem ingressTapInject {c} {h} {node} : Statement (.ingressTapInject c h node) := rfl
theorem circuitSetup {c} {node} {dst} {xfers} : Statement (.circuitSetup c node dst xfers) := rfl
theorem circuitIdle {c} {k} : Statement (.circuitIdle c k) := rfl
theorem circuitRelease {c} {k} : Statement (.circuitRelease c k) := rfl
theorem regionShrink {c} {h} {quarter} : Statement (.regionShrink c h quarter) := rfl
theorem phaseSwitch {c} {h} {e} : Statement (.phaseSwitch c h e) := rfl
theorem regionSave {c} {h} {va} : Statement (.regionSave c h va) := rfl
theorem regionClear {c} {h} : Statement (.regionClear c h) := rfl
theorem regionRelease {c} {h} : Statement (.regionRelease c h) := rfl
theorem hangDetect {c} {h} : Statement (.hangDetect c h) := rfl
theorem cfgDropDone {c} {h} : Statement (.cfgDropDone c h) := rfl
theorem kctlStop {c} : Statement (.kctlStop c) := rfl
theorem kctlResume {c} : Statement (.kctlResume c) := rfl
theorem kctlTrace {c} {on} : Statement (.kctlTrace c on) := rfl
theorem hvalClear {c} {second} : Statement (.hvalClear c second) := rfl
theorem kclrWrite {c} {v} : Statement (.kclrWrite c v) := rfl
theorem mmaComplete {c} : Statement (.mmaComplete c) := rfl
theorem arrayIdle {c} : Statement (.arrayIdle c) := rfl
theorem sequencerResume {p} {pc} : Statement (.sequencerResume p pc) := rfl
theorem wcsUpdateApply {c} : Statement (.wcsUpdateApply c) := rfl
theorem macroCommit {t} : Statement (.macroCommit t) := rfl
theorem bankdoneWrite {d} {v} : Statement (.bankdoneWrite d v) := rfl
theorem htrWrite {k} {n} {v} : Statement (.htrWrite k n v) := rfl
theorem ringAcquisitionDone {k} {n} {locked} {drive} : Statement (.ringAcquisitionDone k n locked drive) := rfl
theorem bankSubSet {k} {b} {s} : Statement (.bankSubSet k b s) := rfl
theorem bankSubClear {k} {b} : Statement (.bankSubClear k b) := rfl
theorem laneRetire {k} {b} {i} : Statement (.laneRetire k b i) := rfl
theorem laneReturn {k} {b} {i} : Statement (.laneReturn k b i) := rfl
theorem pavilionStart {k} : Statement (.pavilionStart k) := rfl
theorem lgoWrite {k} : Statement (.lgoWrite k) := rfl
theorem lstatClear {k} {v} : Statement (.lstatClear k v) := rfl
theorem lkillWrite {k} : Statement (.lkillWrite k) := rfl
theorem tarnilRead {q} : Statement (.tarnilRead q) := rfl
theorem tarnilReadData {q} : Statement (.tarnilReadData q) := rfl
theorem tarnilWrite {q} : Statement (.tarnilWrite q) := rfl
theorem tarnilAtomic {q} : Statement (.tarnilAtomic q) := rfl
theorem tarnilAtomicData {q} : Statement (.tarnilAtomicData q) := rfl
theorem tarnilToken {q} : Statement (.tarnilToken q) := rfl
theorem tarnilCircuitSetup {q} : Statement (.tarnilCircuitSetup q) := rfl
theorem tarnilCircuitData {q} : Statement (.tarnilCircuitData q) := rfl
theorem tarnilCircuitRelease {q} : Statement (.tarnilCircuitRelease q) := rfl
theorem tarnilRefusal {q} : Statement (.tarnilRefusal q) := rfl
theorem fabricCircuitIdle {k} : Statement (.fabricCircuitIdle k) := rfl
theorem linkReplay {link} : Statement (.linkReplay link) := rfl
theorem linkRetrain {link} : Statement (.linkRetrain link) := rfl
theorem remoteTimeout {tag} : Statement (.remoteTimeout tag) := rfl
theorem pwinWrite {v} : Statement (.pwinWrite v) := rfl
theorem prsvWrite {v} : Statement (.prsvWrite v) := rfl
theorem pancrWrite {v} : Statement (.pancrWrite v) := rfl
theorem pcapWrite {v} : Statement (.pcapWrite v) := rfl
theorem plimsetWrite {v} : Statement (.plimsetWrite v) := rfl
theorem energyWindow {m} : Statement (.energyWindow m) := rfl
theorem opPointSettled {d} : Statement (.opPointSettled d) := rfl
theorem dieWake {d} : Statement (.dieWake d) := rfl
theorem columnStart {d} : Statement (.columnStart d) := rfl
theorem dieGate {d} : Statement (.dieGate d) := rfl
theorem drstWrite {d} {v} : Statement (.drstWrite d v) := rfl
theorem dieFence {d} : Statement (.dieFence d) := rfl
theorem dieResetDeadline {d} : Statement (.dieResetDeadline d) := rfl
theorem dieResetWake {d} : Statement (.dieResetWake d) := rfl
theorem errorDetect {u} : Statement (.errorDetect u) := rfl
theorem selfTestDone {u} {outcome} : Statement (.selfTestDone u outcome) := rfl
theorem keySlotLoad {n} : Statement (.keySlotLoad n) := rfl
theorem keySlotEmpty {n} : Statement (.keySlotEmpty n) := rfl
theorem packageReset : Statement (.packageReset) := rfl
theorem coreReset {c} : Statement (.coreReset c) := rfl
theorem illegalOp : Statement (.illegalOp) := rfl
theorem cadenceIllegalOp : Statement (.cadenceIllegalOp) := rfl
theorem ringLockLost {k} {n} {err} : Statement (.ringLockLost k n err) := rfl
theorem ringLockRegained {k} {n} {err} : Statement (.ringLockRegained k n err) := rfl
theorem linkRetrainComplete {link} : Statement (.linkRetrainComplete link) := rfl
theorem tarnilLinkDown {link} : Statement (.tarnilLinkDown link) := rfl
theorem hostLinkDown {link} : Statement (.hostLinkDown link) := rfl
theorem hostLinkUp {link} : Statement (.hostLinkUp link) := rfl
theorem platformMessage {d} : Statement (.platformMessage d) := rfl

end Sys2Proof.Laws.Encoding
end

