-- ==== Sys2Proof/Tests/Slice0.lean ====
section
/-! SUPPORT. Tests on fixed values: ill-formed terms that WellFormed refuses, words of every family read back from the spec's encodings,
single steps on a small state, and for every statement with hypotheses a state and operands that meet them (`witness_…`). -/

namespace Sys2Proof.Tests

open Sys2Proof Sys2Proof.Machine Sys2Proof.Stmt

set_option Elab.async false

/-! ### The small state -/

/-- A thread of plot 1, lane 0, with g0 to g15 holding small numbers, g16:g17 a scratchpad address, p0 true. -/
def th0 : Thread :=
  { (default : Thread) with
    live := true, plot := 1, pc := 0x10000, lfsr := 1, p := 1, sbase := 0x12000
    g := [(1, 1), (2, 7), (3, 0xFFFFFFFE), (4, 0x3F800000), (5, 0x40490FDB), (6, 0x1000), (8, 0x80000000), (9, 31), (16, 0x40),
      (17, 0x10000000), (18, 0x10100), (20, 3)] }

/-- Its plot, with sixteen tiles, four accumulators, 1 KiB of scratchpad, and a sequencer that runs. -/
def pl0 : Plot :=
  { (default : Plot) with
    live := true, resident := true, threads0 := 1, blocks := [0], areas := 1, ntiles := 16, naccs := 4, scratchLen := 1024
    seq := { (default : Seq) with present := true, running := true, pc := 0x10000, k := [(1, 3), (4, 0x80), (5, 0x10000000), (6, 16)] } }

/-- The package with that plot on core 0 of die 0, whose page 0x1_0000 of context 0 is mapped, at device time 1000. -/
def w0 : State :=
  { State.reset with
    threads := FMap.set [] 1 th0, plots := FMap.set [] 1 pl0
    dies := FMap.set [] 0 { (default : Die) with tlb := [placedPage] }
    time := 1000, cur := 1, curPlot := 1, nextThread := 2, nextPlot := 2 }

/-- `w0` with its thread changed, and with its plot changed. -/
def wT (f : Thread → Thread) : State := w0.modThr 1 f
def wP (f : Plot → Plot) : State := w0.modPlot 1 f

/-- Operands A = g2 and B = g3 with destination g10 (guard 7: always). -/
def fa : FA := ⟨7, 10, 2, 3, false, 0⟩
def fu : FU := ⟨7, 10, 2, false, 0⟩
def fp : FP := ⟨7, 2, 2, 3, false, 0⟩
def fg : FG := ⟨7⟩

/-- The conditions of `Issues` and `Runs`, evaluated. -/
def issuesB (s : State) (sh : Shape) : Bool :=
  let t := s.thr s.cur
  t.live && !t.hazard sh && !t.badLatch sh && (match t.nextChain sh with | some c => decide (c.len ≤ 4) | none => true)
    && decide (sh.priv ≤ s.privOf t)

theorem issues_iff (s : State) (sh : Shape) : s.Issues sh ↔ issuesB s sh = true := by
  unfold State.Issues issuesB
  simp only [Bool.and_eq_true, Bool.not_eq_true', decide_eq_true_eq, and_assoc]
  cases (s.thr s.cur).nextChain sh <;> simp

theorem runs_iff (s : State) (sh : Shape) : s.Runs sh ↔ (issuesB s sh && (s.thr s.cur).guard sh.g) = true := by
  unfold State.Runs
  rw [issues_iff, Bool.and_eq_true]

/-- A context that runs at the runtime's privilege; a thread whose accesses are not past their completion times. -/
def wPriv' : State := { w0 with ctxs := FMap.set [] 0 { (default : Ctx) with priv := 1 } }
def wLate' : State := w0.modThr 1 (fun t => { t with tPkg := 1000 })

/-- What holds of the one thread and of an absent thread holds of every thread. -/
theorem one_thread (s : State) (t : Thread) (h : s.threads = FMap.set [] 1 t) (P : Thread → Prop) (h1 : P t) (h0 : P default) (v : Nat) :
    P (s.thr v) := by
  have e : s.thr v = if v = 1 then t else default := by
    show s.threads.get v = _
    rw [h]
    unfold FMap.set
    by_cases ht : t = default
    · subst ht; simp [FMap.erase, FMap.get]
    · rw [if_neg ht]; simp only [FMap.erase, List.filter_nil, FMap.insert, FMap.get]
      by_cases hv : 1 = v
      · simp [hv]
      · rw [if_neg hv, if_neg (fun e => hv e.symm)]
  rw [e]; split <;> assumption

/-! ### Statements met: producers -/

theorem witness_AluResults :
    (∀ e ∈ aluBin, w0.Runs (shape (e.1 fa))) ∧ ∀ e ∈ aluUn, w0.Runs (shape (e.1 fu)) := by
  simp only [runs_iff]; decide +kernel

theorem witness_MulDivAndPairResults :
    (∀ e ∈ mulBin, w0.Runs (shape (e.1 fa))) ∧ w0.Runs (shape (.mad fa)) ∧ ∀ e ∈ pairOps, w0.Runs (shape (e.1 fa)) := by
  simp only [runs_iff]; decide +kernel

theorem witness_FieldAddressAndImmediateResults :
    w0.Runs (shape (.bfxU fa)) ∧ w0.Runs (shape (.bfxS fa)) ∧ w0.Runs (shape (.bfi fa)) ∧ (∀ e ∈ leaOps, w0.Runs (shape (e.1 fa)))
    ∧ (∀ e ∈ immOps, w0.Runs (shape (e.1 ⟨7, 10, 2, 0x3FF, 0⟩))) ∧ (∀ e ∈ shiftImmOps, w0.Runs (shape (e.1 ⟨7, 10, 2, 31, 0⟩)))
    ∧ w0.Runs (shape (.movi ⟨7, 10, 0xFFFF⟩)) ∧ w0.Runs (shape (.movhi ⟨7, 10, 0xFFFF⟩)) := by
  simp only [runs_iff]; decide +kernel

theorem witness_CompareAndFloatCompareResults :
    (∀ e ∈ cmpOps, w0.Runs (shape (e.1 fp))) ∧ (∀ e ∈ cmpiOps, w0.Runs (shape (e.1 ⟨7, 2, 2, 0x200, 0⟩)))
    ∧ ∀ e ∈ fcmpOps, w0.Runs (shape (e.1 fp)) := by
  simp only [runs_iff]; decide +kernel

theorem witness_FloatAndPackedResults :
    (∀ e ∈ fpOps, w0.Runs (shape (e.1 fa))) ∧ (∀ e ∈ fpMoves, w0.Runs (shape (e.1 fu))) ∧ w0.Runs (shape (.fcpsgn fa))
    ∧ w0.Runs (shape (.fmin fa)) ∧ w0.Runs (shape (.fmax fa)) ∧ (∀ e ∈ halfOps, w0.Runs (shape (e.1 fa)))
    ∧ ∀ e ∈ halfPicks, w0.Runs (shape (e.1 fa)) := by
  simp only [runs_iff]; decide +kernel

theorem witness_ConversionResults :
    (∀ e ∈ cvtOps, w0.Runs (shape (e.1 fu))) ∧ ∀ e ∈ fmscOps, w0.Runs (shape (e.1 fu)) := by
  simp only [runs_iff]; decide +kernel

/-- `npk` reads up to eight registers from g8 on; `nup` writes up to four from g12 on. -/
theorem witness_NarrowPackAndDotResults :
    (∀ e ∈ npkOps, w0.Runs (shape (e.1 ⟨7, 10, 8, 62, false, 0⟩)) ∧ (e.1 ⟨7, 10, 8, 62, false, 0⟩).wellFormed = true)
    ∧ (∀ e ∈ nupOps, w0.Runs (shape (e.1 ⟨7, 12, 2, 3, false, 0⟩)) ∧ (e.1 ⟨7, 12, 2, 3, false, 0⟩).wellFormed = true)
    ∧ (∀ e ∈ dotOps, w0.Runs (shape (e.1 fa))) ∧ (∀ e ∈ idotOps, w0.Runs (shape (e.1 fa))) ∧ w0.Runs (shape (.dot2B2f fa)) := by
  simp only [runs_iff]; decide +kernel

theorem witness_ScaleAndCodebookResults :
    w0.Runs (shape (.scl fa)) ∧ w0.Runs (shape (.mask fa)) ∧ w0.Runs (shape (.kc2DecLo fu)) ∧ w0.Runs (shape (.kc2DecHi fu)) := by
  simp only [runs_iff]; decide +kernel

theorem witness_SpecialFunctionResults :
    (∀ e ∈ sfnOps, w0.Runs (shape (e.1 ⟨7, 10, 4, 4, false, 0⟩))) ∧ w0.Runs (shape (.tbl ⟨7, 10, 4, 0, false, 0⟩)) := by
  simp only [runs_iff]; decide +kernel

theorem witness_SelectResult :
    (∀ p ∈ [0, 1, 7], w0.Runs (shape (.sel ⟨7, 10, 2, 3, false, BitVec.ofNat 3 p, 0⟩)))
    ∧ (me w0).p.getLsbD 0 = true ∧ (me w0).p.getLsbD 1 = false
    ∧ w0.Issues (shape (.sel ⟨1, 10, 2, 3, false, 0, 0⟩)) ∧ (me w0).guard 1 = false
    ∧ decodeIn .thread 0x19C60831 0 = .ok (.sel ⟨7, 6, 2, 3, false, 1, 0⟩) := by
  simp only [runs_iff, issues_iff]; decide +kernel

/-! ### Statements met: checks, control, traps and registers -/

/-- A latch value, and a state in which latch b0 is valid after a chain of `n` members. -/
def lt0 : Latch := ⟨5, ⟨0x10000, [], 0, 0, 1, [], 0⟩, 1⟩
def wChain (n : Nat) : State := wT (fun t => { t with b0 := some lt0, chain := some ⟨⟨0x10000, [], 0, 0, 1, [], 0⟩, n⟩ })

/-- Waiting for g2, which an outstanding load writes; `b0` not valid; a fifth member of a chain; `halt` without privilege; p1 false. -/
theorem witness_ThreadWordChecks :
    (plainWord (.add fa) = true ∧ (me w0).live = true)
    ∧ (me (wT (fun t => { t with loads := [⟨0, 0x10100, 4, .regs 2 1 false, [⟨.dev 0x10100 0, 0, 4, none⟩], .dflt, false, false, 0x10000,
        ⟨0x10000, [], 0, 0, 1, [], 0⟩, 0⟩] }))).hazard (shape (.add fa)) = true
    ∧ ((me w0).hazard (shape (.add ⟨7, 10, 60, 3, false, 0⟩)) = false ∧ (me w0).badLatch (shape (.add ⟨7, 10, 60, 3, false, 0⟩)) = true)
    ∧ ((me (wChain 4)).badLatch (shape (.add ⟨7, 10, 60, 3, false, 0⟩)) = false
      ∧ ∃ c, (me (wChain 4)).nextChain (shape (.add ⟨7, 10, 60, 3, false, 0⟩)) = some c ∧ 4 < c.len)
    ∧ ((me w0).badLatch (shape (.halt fg)) = false ∧ (me w0).nextChain (shape (.halt fg)) = none
      ∧ w0.privOf (me w0) < (shape (.halt fg)).priv)
    ∧ (w0.Issues (shape (.add ⟨1, 10, 2, 3, false, 0⟩)) ∧ (me w0).guard 1 = false) := by
  refine ⟨by decide +kernel, by decide +kernel, by decide +kernel, ⟨by decide +kernel, _, rfl, by decide +kernel⟩, by decide +kernel, ?_⟩
  simp only [issues_iff]; decide +kernel

/-- The furthest branch either way, a register target in window 1, the stack full on chip, and the spill. -/
theorem witness_ControlTransfers :
    (w0.Runs (shape (.br ⟨7, 0x1FFFFF⟩)) ∧ inWindow0 ((me w0).pc + BitVec.ofInt 64 (4 * (0x1FFFFF : BitVec 22).toInt))
      ∧ (me w0).pc.toNat < ((me w0).pc + BitVec.ofInt 64 (4 * (0x1FFFFF : BitVec 22).toInt)).toNat
      ∧ ¬ inWindow0 ((me w0).pc + BitVec.ofInt 64 (4 * (0x200000 : BitVec 22).toInt)))
    ∧ (w0.Runs (shape (.brx ⟨7, 16, 0⟩)) ∧ ¬ inWindow0 ((me w0).src64 0 16 &&& ~~~3) ∧ inWindow0 ((me w0).src64 0 18 &&& ~~~3))
    ∧ (w0.Runs (shape (.call ⟨7, 5⟩)) ∧ w0.Runs (shape (.callx ⟨7, 18, 0⟩)) ∧ (me w0).cs.length < 4)
    ∧ ((wT (fun t => { t with cs := [4, 3, 2, 1], csSp := 8192 })).Runs (shape (.call ⟨7, 5⟩))
      ∧ (me (wT (fun t => { t with cs := [4, 3, 2, 1], csSp := 8192 }))).csSp = 8192)
    ∧ (∃ s1 s2, (wT (fun t => { t with cs := [4, 3, 2, 1] })).startStore 1 0x12000 (leBytes 8 1) true = .done s1
      ∧ s1.startStore 1 (0x12000 + 8) (leBytes 8 2) true = .done s2)
    ∧ ((wT (fun t => { t with cs := [0x10041, 8] })).Runs (shape (.ret fg)) ∧ inWindow0 (0x10041 &&& ~~~3))
    ∧ ((wT (fun t => { t with csSp := 2, bulk := some (leBytes 8 0x10040 ++ leBytes 8 0x10080) })).Runs (shape (.ret fg))
      ∧ inWindow0 (BitVec.ofNat 64 (leNat ((leBytes 8 0x10040 ++ leBytes 8 0x10080).drop 8)) &&& ~~~3))
    ∧ (w0.Runs (shape (.ret fg)) ∧ (me w0).cs = [] ∧ (me w0).csSp = 0) ∧ w0.Runs (shape (.exit fg)) := by
  simp only [runs_iff, inWindow0]
  refine ⟨by decide +kernel, by decide +kernel, by decide +kernel, by decide +kernel, ⟨_, _, rfl, rfl⟩, by decide +kernel,
    by decide +kernel, by decide +kernel, by decide +kernel⟩

/-- A branch to itself, counted for the first time. -/
theorem witness_BackwardBranches :
    w0.Runs (shape (.br ⟨7, 0⟩)) ∧ inWindow0 ((me w0).pc + BitVec.ofInt 64 (4 * (0 : BitVec 22).toInt))
    ∧ ((me w0).pc + BitVec.ofInt 64 (4 * (0 : BitVec 22).toInt)).toNat ≤ (me w0).pc.toNat ∧ (w0.plots.get 1).core < 1280
    ∧ w0.counted.contains (0, 0x10000) = false ∧ (w0.grids.get 0).captureOf 0 0x10000 = none
    ∧ (w0.cores.get 0).failed.contains (0, 0x10000) = false
    ∧ w0.bodies.any (fun b => b.core == 0 && b.ctx == 0 && b.head == 0x10000) = false
    ∧ min ((w0.cores.get 0).hotCount 0 0x10000 + 1) 65535 < (64 + (w0.ctxs.get 0).hotthrOff).toNat := by
  simp only [runs_iff, inWindow0]; decide +kernel

/-- A context that runs at a privilege. -/
def wPriv (n : Nat) : State := { w0 with ctxs := FMap.set [] 0 { (default : Ctx) with priv := n } }

theorem witness_YieldSleepHintsAndSystemWords :
    w0.Runs (shape (.nop fg)) ∧ w0.Runs (shape (.yield fg))
    ∧ (w0.Runs (shape (.sleep ⟨7, 62, 0⟩)) ∧ min (opn w0 0 62) 0xFFFFFF = 0)
    ∧ (w0.Runs (shape (.sleep ⟨7, 3, 0⟩)) ∧ min (opn w0 0 3) 0xFFFFFF = 0xFFFFFF)
    ∧ w0.Runs (shape (.nocap fg)) ∧ w0.Runs (shape (.capok fg)) ∧ w0.Runs (shape (.hot fg))
    ∧ (wPriv 1).Runs (shape (.wfi fg)) ∧ (wPriv 2).Runs (shape (.halt fg)) ∧ w0.Runs (shape (.vdhop fa)) := by
  simp only [runs_iff]; decide +kernel

/-- A context with a trap vector, whose runtime-writable stack area is mapped. -/
def wVec : State := { w0 with ctxs := FMap.set [] 0 { (default : Ctx) with tvec := 0x10200 } }

theorem witness_UserTraps :
    (w0.Runs (shape (.trap ⟨7, 2, 0⟩)) ∧ (w0.ctxs.get 0).tvec = 0)
    ∧ wVec.Runs (shape (.trap ⟨7, 2, 0⟩)) ∧ (wVec.ctxs.get 0).tvec ≠ 0 ∧ (me wVec).cs.length ≤ 2
    ∧ ∃ ps, wVec.check (wVec.who (me wVec)) .write ((me wVec).sbase - 32) 32 = .ok ps ∧ ∀ p ∈ ps, ∃ pa k, p.loc = .dev pa k := by
  refine ⟨by simp only [runs_iff]; decide +kernel, by simp only [runs_iff]; decide +kernel, by decide +kernel, by decide +kernel,
    (List.range 4).map (fun k => ⟨.dev (0x11FE0 + 8 * k) 0, 8 * k, 8, none⟩), by decide +kernel, ?_⟩
  intro p hp
  obtain ⟨k, -, rfl⟩ := List.mem_map.mp hp
  exact ⟨0x11FE0 + 8 * k, 0, rfl⟩

/-- Two entries on chip; one and two in the area; two in the area; fewer than two. The word 0xE1C0_0000 decodes; with B set it does not. -/
theorem witness_TrapReturn :
    (wT (fun t => { t with cs := [0x10041, 0x10000, 8] })).Runs (shape (.tret fg)) ∧ inWindow0 (0x10041 &&& ~~~3)
    ∧ ((wT (fun t => { t with cs := [0x1000000000000003, 0x10000] })).Runs (shape (.tret fg)) ∧ ¬ inWindow0 (0x1000000000000003 &&& ~~~3))
    ∧ ((wT (fun t => { t with cs := [0x10040], csSp := 2, bulk := some (leBytes 16 0) })).Runs (shape (.tret fg)))
    ∧ ((wT (fun t => { t with csSp := 2, bulk := some (leBytes 16 (2 ^ 63)) })).Runs (shape (.tret fg))
      ∧ inWindow0 (BitVec.ofNat 64 (leNat ((leBytes 16 (2 ^ 63)).drop 8)) &&& ~~~3))
    ∧ ((wT (fun t => { t with cs := [0x10040] })).Runs (shape (.tret fg)) ∧ (1 : Nat) + 0 < 2)
    ∧ (0xE1C00000 : Word).extractLsb' 26 6 = 0x38 ∧ (0xE1C00000 : Word).extractLsb' 0 3 = 0 := by
  simp only [runs_iff, inWindow0]; decide +kernel

theorem witness_SpecialAndControlRegisterReads :
    (∀ e ∈ sregTable w0 (me w0), w0.Runs (shape (.srd ⟨7, 10, BitVec.ofNat 16 e.1, 0⟩)) ∧ (BitVec.ofNat 16 e.1).toNat = e.1)
    ∧ (∀ e ∈ sregWide w0 (me w0), w0.Runs (shape (.srd ⟨7, 10, BitVec.ofNat 16 e.1, 0⟩)) ∧ (BitVec.ofNat 16 e.1).toNat = e.1)
    ∧ (∀ e ∈ cregTable w0 (me w0), w0.Runs (shape (.crd ⟨7, 10, BitVec.ofNat 16 e.1, 0⟩)) ∧ (BitVec.ofNat 16 e.1).toNat = e.1)
    ∧ ∀ e ∈ cregWide w0 (me w0), w0.Runs (shape (.crd ⟨7, 10, BitVec.ofNat 16 e.1, 0⟩)) ∧ (BitVec.ofNat 16 e.1).toNat = e.1 := by
  simp only [runs_iff]; decide +kernel

theorem witness_ControlRegisterWrites :
    (∀ n ∈ [0, 1, 2, 8], RunsAt w0 (shape (.cwr ⟨7, 2, BitVec.ofNat 16 n, 0⟩)) 0)
    ∧ (∀ n ∈ [4, 6, 9], RunsAt (wPriv 1) (shape (.cwr ⟨7, 2, BitVec.ofNat 16 n, 0⟩)) 1)
    ∧ (∀ n ∈ [4, 6, 9, 16], RunsAt w0 (shape (.cwr ⟨7, 2, BitVec.ofNat 16 n, 0⟩)) 0) ∧ w0.privOf (me w0) < 1 := by
  simp only [RunsAt, runs_iff]; decide +kernel

/-- A launch of 2^32 − 3 threads and more takes no further child; a core with 1024 pending children has no room. -/
def wFull : State := wP (fun p => { p with bins := [⟨0x10100, 5000, List.replicate 1024 ⟨1, 0, 0⟩⟩] })
def wIds : State := { w0 with launches := FMap.set [] 0 { (default : Launch) with spawned := 0xFFFFFFFE } }

theorem witness_SpawnRegroupLaunch :
    (w0.Runs (shape (.spawn ⟨7, 2, 18, 2, false, 0⟩)) ∧ w0.Runs (shape (.spawnW ⟨7, 2, 18, 2, false, 0⟩))
      ∧ inWindow0 ((me w0).src64 0 18 &&& ~~~3) ∧ ¬ inWindow0 ((me w0).src64 0 16 &&& ~~~3) ∧ w0.fenceOk (me w0) 2 = true
      ∧ (w0.launches.get 0).threads + (w0.launches.get 0).spawned ≤ 0xFFFFFFFD ∧ w0.pending 0 < 1024)
    ∧ (wIds.Runs (shape (.spawn ⟨7, 2, 18, 2, false, 0⟩)) ∧ wIds.fenceOk (me wIds) 2 = true
      ∧ 0xFFFFFFFD < (wIds.launches.get 0).threads + (wIds.launches.get 0).spawned)
    ∧ (wFull.Runs (shape (.spawn ⟨7, 2, 18, 2, false, 0⟩)) ∧ 1024 ≤ wFull.pending 0)
    ∧ w0.Runs (shape (.regroup ⟨7, 2, 0⟩))
    ∧ (w0.Runs (shape (.lnch ⟨7, 10, 16, false, 0⟩)) ∧ w0.coreOf (me w0) < 1280
      ∧ (((me w0).src64 0 16).toNat % 128 ≠ 0 ∨ 2 * 2 ^ 60 ≤ ((me w0).src64 0 16).toNat))
    ∧ ((me w0).src64 0 18).toNat % 128 = 0 ∧ ((me w0).src64 0 18).toNat < 2 * 2 ^ 60
    ∧ 64 ≤ ((w0.modDie 0 (fun d => { d with internal := List.replicate 64 1 })).dies.get 0).internal.length
    ∧ ((w0.dies.get 0).internal.length < 64 ∧ (me (wT (fun t => { t with bulk := some (leBytes 128 0) }))).bulk = some (leBytes 128 0)) := by
  simp only [runs_iff, inWindow0]; decide +kernel

/-! ### Statements met: memory -/

/-- Base g18 (0x1_0100, mapped) or g16 (scratchpad offset 0x40) with offset 0, or a literal offset. -/
def mDev (z : BitVec 2) : FM := ⟨7, 10, 18, 0, 0, z, 0⟩
def mScr (z : BitVec 2) : FM := ⟨7, 10, 16, 0, 0, z, 0⟩
def mHole : FM := ⟨7, 10, 8, 0, 0, 2, 0⟩
def wHole : State := wT (fun t => { t with g := t.g.set 9 0x40000000 })

/-- Line 0 of the scratchpad holds an error. -/
def wBad : State := wP (fun p => { p with badScr := FMap.set [] 0 true })

theorem wBad_line : ¬ CleanScratch wBad 8 64 := fun h => absurd (h 0 (by decide) (by decide)) (by decide +kernel)

/-- Loads and stores of every size, and the last byte and first byte of the scratchpad. -/
theorem witness_ScratchpadLoads :
    (∀ e ∈ [Instr.ld (mScr 0), .ld (mScr 3), .lda (mScr 2), .lds (mScr 1), .ldNc ⟨7, 10, 16, 0, 2, 0⟩, .ldq ⟨7, 12, 16, 0, 0⟩],
      (loadSpec w0 e).isSome = true ∧ w0.Runs (shape e))
    ∧ (∀ n ∈ [1, 2, 4, 8, 16], InScratch w0 ((me w0).src64 0 16) n 64 ∧ (myPlot w0).fullAt 64 n = true
      ∧ w0.scoreHit (me w0) false ((me w0).src64 0 16).toNat n = false)
    ∧ (InScratch w0 0x10000000000003FF 1 1023 ∧ InScratch w0 0x1000000000000000 1024 0 ∧ (me w0).loads = [] ∧ (me w0).stores = [])
    ∧ (∀ n o, CleanScratch w0 n o)
    ∧ (wBad.Runs (shape (.ld (mScr 3))) ∧ InScratch wBad ((me wBad).src64 0 16) 8 64 ∧ (myPlot wBad).fullAt 64 8 = true ∧ ¬ CleanScratch wBad 8 64) := by
  simp only [runs_iff, InScratch]
  exact ⟨by decide +kernel, by decide +kernel, by decide +kernel, fun _ _ _ _ _ => rfl, by decide +kernel, by decide +kernel, by decide +kernel,
    wBad_line⟩

theorem witness_MemoryAccessesBecomeHeld :
    ((loadSpec w0 (.ld (mDev 3))).isSome = true ∧ w0.Runs (shape (.ld (mDev 3)))
      ∧ w0.check (w0.who (me w0)) .read 0x10100 8 = .ok [⟨.dev 0x10100 0, 0, 8, none⟩] ∧ w0.keysOk [⟨.dev 0x10100 0, 0, 8, none⟩] = true
      ∧ w0.l1Hit (me w0) 0x10100 = false ∧ w0.scoreHit (me w0) false 0x10100 8 = false)
    ∧ ((storeSpec w0 (.stl (mDev 3))).isSome = true ∧ w0.Runs (shape (.stl (mDev 3)))
      ∧ w0.check (w0.who (me w0)) .write 0x10100 8 = .ok [⟨.dev 0x10100 0, 0, 8, none⟩] ∧ w0.scoreHit (me w0) true 0x10100 8 = false
      ∧ w0.fenceOk (me w0) 0 = true)
    ∧ ((amoSpec w0 (.amoAdd ⟨7, 10, 18, 2, true, 0⟩)).isSome = true ∧ w0.Runs (shape (.amoAdd ⟨7, 10, 18, 2, true, 0⟩))
      ∧ (0x10100 : DWord).toNat % 8 = 0 ∧ w0.check (w0.who (me w0)) .atomic 0x10100 8 = .ok [⟨.dev 0x10100 0, 0, 8, none⟩]
      ∧ w0.scoreHit (me w0) true 0x10100 8 = false) := by
  simp only [runs_iff]; decide +kernel

theorem witness_ScratchpadStores :
    (∀ e ∈ [Instr.st (mScr 0), .st (mScr 3), .stl (mScr 2), .stq ⟨7, 12, 16, 0, 0⟩], (storeSpec w0 e).isSome = true ∧ w0.Runs (shape e))
    ∧ (∀ n ∈ [1, 4, 8, 16], InScratch w0 ((me w0).src64 0 16) n 64 ∧ w0.scoreHit (me w0) true ((me w0).src64 0 16).toNat n = false)
    ∧ (∀ x ∈ [0, 1, 2, 3], w0.fenceOk (me w0) x = true) := by
  simp only [runs_iff, InScratch]; decide +kernel

theorem witness_AddressHoleFaults :
    (loadSpec wHole (.ld mHole)).isSome = true ∧ wHole.Runs (shape (.ld mHole)) ∧ (storeSpec wHole (.st mHole)).isSome = true
    ∧ wHole.Runs (shape (.st mHole)) ∧ 4 * 2 ^ 60 ≤ (memAddr wHole 0 8 0 4).toNat := by
  simp only [runs_iff]; decide +kernel

/-- Line 0 and the last line of the scratchpad, one line too many, and a line whose bit is clear. -/
def wEmpty : State := wP (fun p => { p with empty := FMap.set [] 0 true })

theorem witness_PrefetchAndFullBits :
    (w0.Runs (shape (.pf ⟨7, 16, 0, 0⟩)) ∧ 2 ^ 60 ≤ (memAddr w0 0 16 0 128).toNat)
    ∧ (∀ e ∈ [Instr.feSet, .feClr], w0.Runs (shape (e ⟨7, 16, 62, 0⟩)) ∧ w0.Runs (shape (e ⟨7, 16, 2, 0⟩)))
    ∧ (((me w0).src64 0 16).toNat / 2 ^ 60 = 1 ∧ ((me w0).src64 0 16).toNat - 2 ^ 60 < (myPlot w0).scratchLen ∧ opn w0 0 62 = 0
      ∧ opn w0 0 2 = 7 ∧ 64 / 128 + 7 ≤ ((myPlot w0).scratchLen + 127) / 128 ∧ ((myPlot w0).scratchLen + 127) / 128 < 64 / 128 + 9
      ∧ w0.scoreHit (me w0) true (2 ^ 60 + 128 * (64 / 128)) (128 * 7) = false)
    ∧ ((me w0).src64 0 18).toNat / 2 ^ 60 ≠ 1
    ∧ w0.Runs (shape (.feTst ⟨7, 2, 16, false, 0⟩)) ∧ w0.Runs (shape (.feWt ⟨7, 16, false, 0⟩)) ∧ w0.Runs (shape (.feWt ⟨7, 18, true, 0⟩)) ∧ (myPlot w0).empty.get (64 / 128) = false
    ∧ wEmpty.Runs (shape (.feWt ⟨7, 16, false, 0⟩)) ∧ (myPlot wEmpty).empty.get (64 / 128) = true := by
  simp only [runs_iff]; decide +kernel

/-- Every operation, aligned; an address that is not a multiple of 4. -/
theorem witness_ScratchpadAtomics :
    (∀ e ∈ [Instr.amoAdd, .amoMinS, .amoMaxS, .amoMinU, .amoMaxU, .amoAnd, .amoOr, .amoXor, .amoXchg, .amoCas], ∀ w ∈ [false, true],
      (amoSpec w0 (e ⟨7, 10, 16, 20, w, 0⟩)).isSome = true ∧ w0.Runs (shape (e ⟨7, 10, 16, 20, w, 0⟩)))
    ∧ (∀ e ∈ [Instr.amoFadd, .amoFaddB2, .amoFmax, .amoIncW, .amoDecW],
      (amoSpec w0 (e ⟨7, 10, 16, 20, 0⟩)).isSome = true ∧ w0.Runs (shape (e ⟨7, 10, 16, 20, 0⟩)))
    ∧ (∀ n ∈ [4, 8], ((me w0).src64 0 16).toNat % n = 0 ∧ InScratch w0 ((me w0).src64 0 16) n 64 ∧ (myPlot w0).fullAt 64 n = true
      ∧ w0.scoreHit (me w0) true ((me w0).src64 0 16).toNat n = false)
    ∧ ((wT (fun t => { t with g := t.g.set 16 0x41 })).Runs (shape (.amoAdd ⟨7, 10, 16, 20, false, 0⟩))
      ∧ ((me (wT (fun t => { t with g := t.g.set 16 0x41 }))).src64 0 16).toNat % 4 ≠ 0)
    ∧ CleanScratch w0 8 64
    ∧ wBad.Runs (shape (.amoAdd ⟨7, 10, 16, 20, true, 0⟩)) ∧ (myPlot wBad).fullAt 64 8 = true ∧ ¬ CleanScratch wBad 8 64 := by
  simp only [runs_iff, InScratch]
  exact ⟨by decide +kernel, by decide +kernel, by decide +kernel, by decide +kernel, fun _ _ _ => rfl, by decide +kernel, by decide +kernel, wBad_line⟩

/-- Passing, waiting for time, and waiting for an outstanding load. -/
def wLate : State := wT (fun t => { t with tCore := 1000, tDie := 1000, tPkg := 1000, tSys := 1000 })
def wGs : State := wP (fun p => { p with gss := [⟨0, false, 16, 1, 0x10000, 0, 0, 0, 1, 4, 0, 0, [], [], [], [], []⟩] })

theorem witness_FencesAndTimes :
    (∀ e ∈ [Instr.fenceCore, .fenceDie, .fencePkg, .fenceSys], w0.Runs (shape (e fg)) ∧ wLate.Runs (shape (e fg)))
    ∧ ((me w0).loads = [] ∧ (me w0).stores = [] ∧ (me w0).tSys < w0.time ∧ (me w0).tCore < w0.time)
    ∧ (wLate.time ≤ (me wLate).tCore ∧ wLate.time ≤ (me wLate).tDie ∧ wLate.time ≤ (me wLate).tPkg ∧ wLate.time ≤ (me wLate).tSys)
    ∧ (w0.Runs (shape (.xfence ⟨7, 63, 63, 0⟩)) ∧ ∀ k ∈ List.range 6, w0.pathOk 1 k = true)
    ∧ (wGs.Runs (shape (.xfence ⟨7, 1, 1, 0⟩)) ∧ (List.range 6).any (fun k => !wGs.pathOk 1 k) = true)
    ∧ w0.Runs (shape (.leaseDrop fg)) := by
  simp only [runs_iff]; decide +kernel

/-- Scopes 0 and 3; the word 0xB9CA_0C05 (`gwct g10, 3`), and one whose A is 4. -/
theorem witness_CompletionTimeRead :
    w0.Runs (shape (.gwct ⟨7, 10, 0, 0⟩)) ∧ w0.Runs (shape (.gwct ⟨7, 10, 3, 0⟩)) ∧ (3 : BitVec 6).toNat ≤ 3
    ∧ (∀ w ∈ [0xB9CA0C05, 0xB9CA1005], (BitVec.ofNat 32 w).extractLsb' 26 6 = 0x2E ∧ (BitVec.ofNat 32 w).extractLsb' 0 3 = 5
      ∧ (BitVec.ofNat 32 w).extractLsb' 22 4 ≠ 15) := by
  simp only [runs_iff]; decide +kernel

/-! ### Statements met: barriers, engines, tables and images -/

/-- A second thread of the launch that has not arrived; a thread that is a member of group 2 and has arrived once; one that waits for its
stores. -/
def wTwo : State := { w0 with threads := w0.threads.set 2 { th0 with slot := 1, tid := 1 } }
def wArr (s : State) : State := s.modThr 1 (fun t => { t with grps := [2], arr := FMap.set [] 2 1 |>.set 0 1 })
def wTwoG : State := wArr { wTwo with threads := wTwo.threads.modify 2 (fun t => { t with grps := [2] }) }
def wNb (s : State) : State := s.modPlot 1 (fun p => { p with nbCount := FMap.set (FMap.set [] 0 1) 15 2 })

theorem witness_BarrierWords :
    ((∀ e ∈ [Instr.barArr, .barWt, .barSync], w0.Runs (shape (e ⟨7, 2, 0⟩))) ∧ opn w0 0 2 ≠ 0 ∧ opn w0 0 2 ∉ (me w0).grps)
    ∧ ((∀ e ∈ [Instr.barArr, .barWt, .barSync], w0.Runs (shape (e ⟨7, 62, 0⟩))) ∧ opn w0 0 62 = 0 ∧ w0.fenceOk (me w0) 2 = true
      ∧ (me w0).arr.get 0 = 0 ∧ (me w0).wait ≠ .bar ∧ (me w0).barArr = false ∧ (withMe w0 { me w0 with arr := (me w0).arr.set 0 1 }).groupDone 0 0 0 = true)
    ∧ ((∀ e ∈ [Instr.barArr, .barWt, .barSync], (wArr w0).Runs (shape (e ⟨7, 63, 2⟩))) ∧ opn (wArr w0) 2 63 = 2 ∧ 2 ∈ (me (wArr w0)).grps
      ∧ (wArr w0).groupDone 0 2 0 = true)
    ∧ (wLate'.fenceOk (me wLate') 2 = false ∧ wLate'.Runs (shape (.barArr ⟨7, 62, 0⟩)))
    ∧ (wTwoG.Runs (shape (.barArr ⟨7, 63, 2⟩)) ∧ wTwoG.Runs (shape (.barWt ⟨7, 63, 2⟩)) ∧ wTwoG.fenceOk (me wTwoG) 2 = true
      ∧ (me wTwoG).arr.get 2 ≠ 0 ∧ wTwoG.groupDone 0 2 0 = false)
    ∧ ((wTwoG.modThr 1 (fun t => { t with barArr := true })).Runs (shape (.barSync ⟨7, 63, 2⟩))
      ∧ (wTwoG.modThr 1 (fun t => { t with barArr := true })).groupDone 0 2 0 = false
      ∧ ((wArr w0).modThr 1 (fun t => { t with barArr := true })).Runs (shape (.barSync ⟨7, 63, 2⟩)))
    ∧ (wTwo.Runs (shape (.barSync ⟨7, 62, 0⟩)) ∧ (me wTwo).barArr = false ∧ (withMe wTwo { me wTwo with arr := (me wTwo).arr.set 0 1 }).groupDone 0 0 0 = false)
    ∧ ((wNb w0).Runs (shape (.nbarArr ⟨7, 62, 0⟩)) ∧ (wNb w0).Runs (shape (.nbarArr ⟨7, 63, 15⟩)) ∧ (wNb w0).fenceOk (me (wNb w0)) 1 = true
      ∧ (myPlot (wNb w0)).nbCount.get 0 ≠ 0 ∧ (myPlot (wNb w0)).nbCount.get 15 ≠ 0)
    ∧ ((wNb w0).Runs (shape (.nbarWt ⟨7, 63, 15⟩)) ∧ (me (wNb w0)).nbLast.get 15 ≤ ((myPlot (wNb w0)).nb.get 15).phase
      ∧ ((wNb w0).modThr 1 (fun t => { t with nbLast := FMap.set [] 15 1 })).Runs (shape (.nbarWt ⟨7, 63, 15⟩)))
    ∧ (w0.Runs (shape (.bwait ⟨7, 16, 0⟩)) ∧ ((me w0).src64 0 16).toNat / 2 ^ 60 = 1 ∧ (64 : Nat) % 8 = 0 ∧ 64 + 8 ≤ (myPlot w0).scratchLen
      ∧ leNat ((List.range 6).map (fun j => (myPlot w0).scratch.get (64 + j))) = 0
      ∧ leNat ((List.range 6).map (fun j => (myPlot (wP (fun p => { p with scratch := [(69, 1)] }))).scratch.get (64 + j))) ≠ 0)
    ∧ (w0.Runs (shape (.bobjInit ⟨7, 16, 20, 0⟩)) ∧ (myPlot w0).fullAt 64 8 = true ∧ w0.scoreHit (me w0) true 0x1000000000000040 8 = false) := by
  simp only [runs_iff]; decide +kernel

/-- A descriptor of one row of 16 bytes from 0x1_0100 to offset 128 with barrier object 0, at offset 64. -/
def kickDesc : List Byte := leBytes 8 0x10100 ++ leBytes 8 0x1000000000000080 ++ leBytes 4 16 ++ leBytes 12 0
def wScr (o : Nat) (bs : List Byte) : State := wP (fun p => { p with scratch := Memory.write [] o bs })
def wKick : State := wScr 64 kickDesc
def wKickFull : State := wKick.modCore 0 (fun c => { c with copies := List.replicate 16 default })

theorem witness_Kick :
    (w0.Runs (shape (.kick ⟨7, 16, 62, 0⟩)) ∧ opn w0 0 62 = 0 ∧ w0.Runs (shape (.kick ⟨7, 16, 63, 17⟩)) ∧ 16 < opn w0 17 63)
    ∧ (wKick.Runs (shape (.kick ⟨7, 16, 63, 1⟩)) ∧ opn wKick 1 63 = 1 ∧ slotAt wKick 0x1000000000000040 32 32 64
      ∧ wKick.copyFault (me wKick) (copyDesc (scrBytes wKick 64 32)) = none ∧ (wKick.cores.get 0).copies.length + 1 ≤ 16)
    ∧ (wKickFull.Runs (shape (.kick ⟨7, 16, 63, 1⟩)) ∧ wKickFull.copyFault (me wKickFull) (copyDesc (scrBytes wKickFull 64 32)) = none
      ∧ 16 < (wKickFull.cores.get 0).copies.length + 1) := by
  simp only [runs_iff, slotAt]; decide +kernel

/-- Two slots of one line from offset 256 on, and a descriptor whose NSLOT is 0. -/
def strmBytes (n : Nat) : List Byte :=
  leBytes 8 0x10100 ++ leBytes 4 (1 + 4096 * n) ++ leBytes 4 256 ++ leBytes 4 128 ++ leBytes 4 5 ++ leBytes 8 0
def wStrm : State := wScr 64 (strmBytes 2)
def wStrmFull : State :=
  wStrm.modCore 0 (fun c => { c with streams := (List.range 8).map (fun h => (h, { (default : Strm) with active := true })) })

/-- A ring of 128 bytes at offset 256, empty, with `used` bytes used; a send descriptor for it at offset 64. -/
def ringBytes (h t u : Nat) : List Byte := leBytes 4 128 ++ leBytes 4 h ++ leBytes 4 t ++ leBytes 4 u
def sendDesc : List Byte := leBytes 4 0 ++ leBytes 4 256 ++ leBytes 4 512 ++ leBytes 4 9
def wRing (h t u : Nat) : State := wP (fun p => { p with scratch := Memory.write (Memory.write [] 64 sendDesc) 256 (ringBytes h t u) })
def msg0 : Msg := ⟨1, 256, 0, List.replicate 9 0, 0x10004⟩

theorem witness_StreamCopiesAndMessageRings :
    (wStrm.Runs (shape (.cpySt ⟨7, 10, 16, 0⟩)) ∧ slotAt wStrm ((me wStrm).src64 0 16) 32 32 64
      ∧ streamFieldBad (scrBytes wStrm 64 32) (streamDesc (scrBytes wStrm 64 32) (me wStrm) 1) = false ∧ (wStrm.cores.get 0).streams.get 0 = default
      ∧ 256 / 128 + 1 * 2 ≤ ((myPlot wStrm).scratchLen + 127) / 128 ∧ 0 + 8 ≤ (myPlot wStrm).scratchLen
      ∧ (streamDesc (scrBytes wStrm 64 32) (me wStrm) 1).slotB = 1 ∧ (streamDesc (scrBytes wStrm 64 32) (me wStrm) 1).ring = 256)
    ∧ ((wScr 64 (strmBytes 0)).Runs (shape (.cpySt ⟨7, 10, 16, 0⟩))
      ∧ streamFieldBad (strmBytes 0) (streamDesc (strmBytes 0) (me w0) 1) = true)
    ∧ (wStrmFull.Runs (shape (.cpySt ⟨7, 10, 16, 0⟩)) ∧ ∀ h ∈ List.range 8, ((wStrmFull.cores.get 0).streams.get h).active = true)
    ∧ (w0.Runs (shape (.free ⟨7, 2, 0⟩)) ∧ (me w0).loads = [] ∧ ((w0.cores.get 0).streams.get 7).active = false ∧ w0.Runs (shape (.free ⟨7, 9, 0⟩))
      ∧ 8 ≤ opn w0 0 9)
    ∧ ((wT (fun t => { t with g := t.g.set 16 0x80 })).Runs (shape (.ringInit ⟨7, 16, 63, false, 128⟩)) ∧ (128 : Nat) % 128 = 0
      ∧ slotAt (wT (fun t => { t with g := t.g.set 16 0x80 })) 0x1000000000000080 128 128 128 ∧ 128 + 128 + 128 ≤ (myPlot w0).scratchLen
      ∧ (wT (fun t => { t with g := t.g.set 16 0x80 })).Runs (shape (.ringInit ⟨7, 16, 62, false, 0⟩)))
    ∧ ((wRing 0 0 0).Runs (shape (.send ⟨7, 16, false, 0⟩)) ∧ slotAt (wRing 0 0 0) 0x1000000000000040 16 16 64
      ∧ (wRing 0 0 0).sendMsg (me (wRing 0 0 0)) (scrBytes (wRing 0 0 0) 64 16) 0x10004 = .ok msg0
      ∧ 8 + (9 + 7) / 8 * 8 ≤ (ringHdr ((wRing 0 0 0).plots.get 1).scratch 256).size)
    ∧ ((wRing 8 0 120).Runs (shape (.send ⟨7, 16, false, 0⟩))
      ∧ (wRing 8 0 120).sendMsg (me (wRing 8 0 120)) (scrBytes (wRing 8 0 120) 64 16) 0x10004 = .ok msg0
      ∧ (ringHdr ((wRing 8 0 120).plots.get 1).scratch 256).size - (ringHdr ((wRing 8 0 120).plots.get 1).scratch 256).used < 24)
    ∧ (((wRing 0 0 0).modThr 1 (fun t => { t with g := t.g.set 16 256 })).Runs (shape (.recvAdv ⟨7, 16, false, 0⟩))
      ∧ (ringHdr (myPlot (wRing 0 0 0)).scratch 256).used = 0 ∧ (ringHdr (myPlot (wRing 8 32 24)).scratch 256).used = 24
      ∧ ((wRing 8 32 24).modThr 1 (fun t => { t with g := t.g.set 16 256 })).Runs (shape (.recvAdv ⟨7, 16, false, 0⟩))) := by
  simp only [runs_iff, slotAt]; decide +kernel

/-- Four words of 0x1_0100 by an index list at 0x1_0200 into the scratchpad, with the descriptor read; handle 0 held. -/
def gsBytes (e : Nat) : List Byte :=
  leBytes 8 0x10100 ++ leBytes 8 0x10200 ++ leBytes 8 0x1000000000000080 ++ leBytes 4 (3 + 65536 * 2 + e) ++ leBytes 4 0
def wGat (e : Nat) : State := (wT (fun t => { t with bulk := some (gsBytes e) })).modPlot 1 (fun p => { p with otk := [0] })
def wOtk : State := wP (fun p => { p with otk := List.range 16, gss := [{ (default : Gs) with handle := 7 }] })

theorem witness_GathersAndTokens :
    ((∀ e ∈ [Instr.gat, .sct], w0.Runs (shape (e ⟨7, 16, 62, 0⟩)) ∧ (wGat 0).Runs (shape (e ⟨7, 18, 62, 0⟩))
        ∧ (wT (fun t => { t with g := t.g.set 18 0x10110 })).Runs (shape (e ⟨7, 18, 62, 0⟩)))
      ∧ (0x10110 : Nat) % 32 ≠ 0 ∧ ((me (wGat 0)).src64 0 18).toNat % 32 = 0)
    ∧ (∀ sc ∈ [false, true], gsFieldBad (gsBytes 0) (gsDesc (gsBytes 0) sc 0 0 1 (me (wGat 0))) = false
      ∧ ((wGat 0).gsCheck (me (wGat 0)) (gsDesc (gsBytes 0) sc 0 0 1 (me (wGat 0)))).1 = .ok []
      ∧ gsFieldBad (gsBytes 0x100000) (gsDesc (gsBytes 0x100000) sc 0 0 1 (me (wGat 0))) = true)
    ∧ (wOtk.Runs (shape (.otkNew ⟨7, 10, false⟩)) ∧ (∀ h ∈ List.range 16, h ∈ (myPlot wOtk).otk)
      ∧ w0.Runs (shape (.otkNew ⟨7, 10, false⟩)) ∧ 0 ∉ (myPlot w0).otk)
    ∧ (wOtk.Runs (shape (.otkWt ⟨7, 2, 0⟩)) ∧ opn wOtk 0 2 ∈ (myPlot wOtk).otk ∧ (∃ g ∈ (myPlot wOtk).gss, g.handle = opn wOtk 0 2)
      ∧ wOtk.Runs (shape (.otkWt ⟨7, 20, 0⟩)) ∧ opn wOtk 0 20 ∈ (myPlot wOtk).otk ∧ (∀ g ∈ (myPlot wOtk).gss, g.handle ≠ opn wOtk 0 20)
      ∧ w0.Runs (shape (.otkWt ⟨7, 2, 0⟩)) ∧ opn w0 0 2 ∉ (myPlot w0).otk) := by
  simp only [runs_iff]; decide +kernel

theorem witness_TablesAndCodebook :
    (w0.Runs (shape (.tblRd ⟨7, 10, 63, 63, false, 0⟩)) ∧ w0.Runs (shape (.tblRd ⟨7, 10, 63, 1, false, 2060⟩)) ∧ opn w0 2060 63 = 2060
      ∧ opn w0 0 1 = 1 ∧ w0.Runs (shape (.tblRd ⟨7, 10, 2, 1, false, 0⟩)) ∧ opn w0 0 2 % 4 ≠ 0)
    ∧ ((wT (fun t => { t with bulk := some (List.replicate 2064 3) })).Runs (shape (.tblLd ⟨7, 18, 0⟩)) ∧ ((me w0).src64 0 18).toNat % 16 = 0
      ∧ (wT (fun t => { t with g := t.g.set 18 0x10108 })).Runs (shape (.tblLd ⟨7, 18, 0⟩)))
    ∧ (w0.Runs (shape (.tblSw fg)) ∧ w0.tblLoading 0 = false
      ∧ (wT (fun t => { t with tblLd := true })).Runs (shape (.tblSw fg)) ∧ (wT (fun t => { t with tblLd := true })).tblLoading 0 = true)
    ∧ ((wT (fun t => { t with bulk := some (List.replicate 4 3) })).Runs (shape (.cbLd ⟨7, 18, 63, 255⟩)) ∧ opn w0 255 63 % 256 + 1 ≤ 256
      ∧ w0.Runs (shape (.cbLd ⟨7, 18, 63, 0x1FF⟩)) ∧ 256 < opn w0 0x1FF 63 % 256 + (opn w0 0x1FF 63 / 256 % 256 + 1)) := by
  simp only [runs_iff]; decide +kernel

/-- Tile 15 and accumulator 3 at their last index; the first number and index beyond. Tile 1 has width 4, tile 0 none. -/
def tile4 : Tile := { (default : Tile) with w := 4, h := 1, c := 8 }
def tile16 : Tile := { (default : Tile) with w := 16, h := 128, c := 128 }
def wTile : State := wP (fun p => { p with tiles := FMap.set (FMap.set [] 1 tile4) 15 tile16 })

theorem witness_TileWords :
    (∀ e ∈ [Instr.accRd, .tileRd, .olRd], w0.Runs (shape (e ⟨7, 10, 9, 1, false, 0⟩)) ∧ w0.Runs (shape (e ⟨7, 10, 1, 63, false, 16384⟩)))
    ∧ opn w0 0 9 = 31 ∧ opn w0 16384 63 = 16384 ∧ min 4 (myPlot w0).naccs = 4 ∧ min 16 (myPlot w0).ntiles = 16
    ∧ (w0.Runs (shape (.accRd ⟨7, 10, 20, 63, false, 16383⟩)) ∧ opn w0 16383 20 = 3 ∧ opn w0 16383 63 = 16383)
    ∧ (wTile.Runs (shape (.tileRd ⟨7, 10, 1, 63, false, 8191⟩)) ∧ ((myPlot wTile).tiles.get (opn wTile 0 1)).w ∈ [4, 6, 8, 16]
      ∧ wTile.Runs (shape (.tileRd ⟨7, 10, 62, 1, false, 0⟩)) ∧ ((myPlot wTile).tiles.get 0).w ∉ [4, 6, 8, 16])
    ∧ w0.Runs (shape (.olRd ⟨7, 10, 63, 63, false, 15⟩)) ∧ w0.Runs (shape (.olCnt ⟨7, 10, 63, false, 15⟩)) ∧ opn w0 15 63 = 15
    ∧ w0.Runs (shape (.accWr ⟨7, 2, 20, 63, 16383⟩)) ∧ wTile.Runs (shape (.tileWr ⟨7, 2, 1, 63, 8191⟩))
    ∧ w0.Runs (shape (.olWr ⟨7, 2, 20, 63, 127⟩)) := by
  simp only [runs_iff]; decide +kernel

/-- The sequence `mvi m0, 5; cmt.d m0; end` in bank 2, bound to context 0, and its image. -/
def uSeq : List Word := [0x70000005, 0x88000000, 0xBC000000]
def wSeq : State := w0.modCore 0 (fun c => { c with banks := FMap.set [] 2 { (default : Bank) with bound := some 0, seqs := FMap.set [] 3 uSeq } })
def thImg : Thread := { th0 with bulk := some (leBytes 4 3 ++ uSeq.flatMap (fun w => leBytes 4 w.toNat)) }
def wImg : State := { wPriv' with threads := FMap.set [] 1 thImg }

theorem witness_TenantSequences :
    (wPriv'.Runs (shape (.wcsbind ⟨7, 2, 63, 4⟩)) ∧ 3 < opn wPriv' 4 63 ∧ wPriv'.Runs (shape (.wcsbind ⟨7, 2, 20, 0⟩)) ∧ opn wPriv' 0 20 = 3
      ∧ wPriv'.Runs (shape (.wcsbind ⟨7, 63, 20, 4095⟩)) ∧ wPriv'.Runs (shape (.wcsbind ⟨7, 2, 63, 0xFFFFFFFF⟩))
      ∧ wPriv'.Runs (shape (.wcsbind ⟨7, 63, 20, 4096⟩)) ∧ (me wPriv').wait ≠ .bankWait ∧ ∀ e ∈ wPriv'.threads, e.2.mrun = none)
    ∧ (wImg.Runs (shape (.wcsld ⟨7, 10, 18, 63, false, 0x3F03⟩)) ∧ ((me wImg).src64 0 18).toNat % 4 = 0
      ∧ wcsVerify 3 0x3F03 uSeq (((wImg.cores.get 0).banks.get 3).free 63) = none ∧ (me wImg).wait ≠ .bankWait ∧ ∀ e ∈ wImg.threads, e.2.mrun = none)
    ∧ (wSeq.macroSeq (me wSeq) (0 * 16 + 3) = some (2, uSeq) ∧ wSeq.Runs (shMacro uSeq ⟨0, 7, 10, 2, 3, 3, 0⟩) ∧ (me wSeq).mrun = none
      ∧ (∀ v ∈ uSeq, uOp v ≠ 0x20 ∧ uOp v ≠ 0x21)
      ∧ commitWords uSeq (pureSteps uSeq 64 (macroStart ⟨0, 7, 10, 2, 3, 3, 0⟩ 2 4 (me wSeq))).i = [0x88000000] ∧ uOp 0x88000000 = 0x22) := by
  simp only [runs_iff]
  refine ⟨by decide +kernel, by decide +kernel, by decide +kernel, by decide +kernel, by decide +kernel, ?_, by decide +kernel, by decide +kernel⟩
  · intro v hv
    simpa using List.all_eq_true.mp (show uSeq.all (fun v => decide (uOp v ≠ 0x20 ∧ uOp v ≠ 0x21)) = true by decide +kernel) v hv

/-- The image of a configuration without elements, the same with COLOURS 0, and four resident configurations. -/
def imgBytes (colours : Nat) : List Byte :=
  leBytes 4 1 ++ List.replicate 52 0 ++ leBytes 4 128 ++ leBytes 4 128 ++ leBytes 4 132 ++ leBytes 4 132 ++ leBytes 4 colours
    ++ List.replicate 52 0 ++ leBytes 4 0
def wCfg (colours n : Nat) : State :=
  { wPriv' with
    threads := FMap.set [] 1 { th0 with bulk := some (imgBytes colours) }
    grids := FMap.set [] 0 { (default : Grid) with cfgs := List.replicate n { (default : Cfg) with handle := 9 } } }

theorem witness_ConfigurationWords :
    ((wCfg 1 0).Runs (shape (.cfgld ⟨7, 10, 16, 2, false, 0⟩)) ∧ 2 ^ 60 ≤ ((me (wCfg 1 0)).src64 0 16).toNat)
    ∧ ((wCfg 1 0).Runs (shape (.cfgld ⟨7, 10, 18, 62, false, 0⟩)) ∧ (wCfg 1 0).Runs (shape (.cfgld ⟨7, 10, 18, 63, false, 0x100000⟩))
      ∧ ((me (wCfg 1 0)).src64 0 18).toNat % 128 = 0 ∧ opn (wCfg 1 0) 0x100000 63 = 2 ^ 20)
    ∧ ((wCfg 1 1).Runs (shape (.cfgld ⟨7, 10, 18, 63, false, 9⟩))
      ∧ ((wCfg 1 1).grids.get 0).cfgs.any (fun q => !q.captured && q.ctx == 0 && q.handle == 9) = true)
    ∧ ((wCfg 0 0).Runs (shape (.cfgld ⟨7, 10, 18, 2, false, 0⟩)) ∧ headerOk (imgBytes 0) = false)
    ∧ (headerOk (imgBytes 1) = true ∧ 128 < (imgBytes 1).length ∧ leNat (((imgBytes 1).drop 4).take 4) / 2 % 2 = 0
      ∧ (areasOk (imgBytes 1) && (parseImage (imgBytes 1)).ok) = true ∧ ((wCfg 1 0).cores.get 0).seqsFor 0 (parseImage (imgBytes 1)).words = some []
      ∧ (((wCfg 1 0).grids.get 0).place (newCfg 0 7 0x10100 (parseImage (imgBytes 1)) [] ((wCfg 1 0).grids.get 0) ((wCfg 1 0).clk 0))).isSome = true
      ∧ (wCfg 1 4).Runs (shape (.cfgld ⟨7, 10, 18, 2, false, 0⟩))
      ∧ ((wCfg 1 4).grids.get 0).place (newCfg 0 7 0x10100 (parseImage (imgBytes 1)) [] ((wCfg 1 4).grids.get 0) ((wCfg 1 4).clk 0)) = none)
    ∧ (wCfg 1 1).Runs (shape (.cfgDrop ⟨7, 9, 0⟩)) := by
  simp only [runs_iff]; decide +kernel

/-! ### Statements met: sequencers -/

/-- Tile 1 is 2 × 16 of width 8 with escapes on, tile 15 of width 4; an `mma` of plot 1 in flight on accumulator 3, tiles 1 and 15. -/
def tl8 : Tile := { (default : Tile) with w := 8, h := 2, c := 16, esc := 0x1000000000000101 }
def tl4 : Tile := { (default : Tile) with w := 4, h := 2, c := 32 }
def wSq : State := wP (fun p => { p with tiles := FMap.set (FMap.set [] 1 tl8) 15 tl4 })
def wBusy : State := wSq.modCore 0 (fun c => { c with mmaBusy := some ⟨1, 3, 1, 15, 2000⟩ })

theorem witness_SequencerRegistersAndTileFields :
    w0.SeqRuns ∧ (mySeqPlot w0).ntiles ≤ (16 : BitVec 5).toNat ∧ (15 : BitVec 5).toNat < (mySeqPlot w0).ntiles
    ∧ wBusy.SeqRuns ∧ wBusy.mmaReads 1 15 = true ∧ wBusy.mmaReads 1 14 = false
    ∧ (mySeqPlot w0).naccs ≤ (4 : BitVec 5).toNat ∧ (3 : BitVec 5).toNat < (mySeqPlot w0).naccs ∧ wBusy.mmaAccs 1 3 = true
    ∧ wBusy.mmaAccs 1 2 = false ∧ (kOf w0 0).toNat = 0 ∧ (kOf w0 4).toNat = 128 ∧ 128 < (kOf w0 5).toNat := by
  simp only [State.SeqRuns]; decide +kernel

def wLoop (ls : List (Nat × DWord)) : State := w0.modSeq 1 (fun q => { q with loops := ls })
def wSt (nb : FMap Nat) (hs : List Held) : State := wP (fun p => { p with nbCount := nb, seq := { p.seq with stores := hs } })

theorem witness_SequencerControl :
    (w0.SeqRuns ∧ (0 : BitVec 16).toInt ≤ 0 ∧ 0 < (0x7FFF : BitVec 16).toInt ∧ (mySeq w0).loops.length < 4
      ∧ 4 ≤ (mySeq (wLoop (List.replicate 4 (1, 0)))).loops.length ∧ (wLoop (List.replicate 4 (1, 0))).SeqRuns ∧ kOf w0 0 = 0 ∧ kOf w0 1 ≠ 0)
    ∧ ((mySeq w0).loops = [] ∧ (wLoop [(1, 8)]).SeqRuns ∧ (mySeq (wLoop [(1, 8)])).loops = [(1, 8)] ∧ (1 : Nat) ≤ 1
      ∧ (mySeq (wLoop [(2, 8)])).loops = [(2, 8)] ∧ (1 : Nat) < 2)
    ∧ (16 ≤ (16 : BitVec 5).toNat ∧ (mySeqPlot w0).nbCount.get 15 = 0)
    ∧ ((wSt [(15, 1)] []).SeqRuns ∧ (15 : BitVec 5).toNat < 16 ∧ (mySeqPlot (wSt [(15, 1)] [])).nbCount.get 15 ≠ 0
      ∧ (mySeqPlot (wSt [(15, 1)] [])).seq.stores = [] ∧ (mySeqPlot (wSt [(15, 1)] [])).seq.nbLast.get 15 ≤ 0
      ∧ (mySeqPlot (wSt [(15, 1)] [default])).seq.stores ≠ []
      ∧ ((mySeqPlot ((wSt [(15, 1)] []).modSeq 1 (fun q => { q with nbLast := [(15, 1)] }))).nb.get 15).phase < 1)
    ∧ (w0.SeqRuns ∧ (mySeq w0).stores = [] ∧ (w0.cores.get 0).mmaBusy = none ∧ (mySeq wBusy).stores = []
      ∧ (wBusy.cores.get 0).mmaBusy = some ⟨1, 3, 1, 15, 2000⟩) := by
  simp only [State.SeqRuns]; decide +kernel

/-- Tiles 0 and 1 of the shapes of a form. -/
def tOf (w h c : Nat) : Tile := { (default : Tile) with w := w, h := h, c := c }
def wMma (w k : Nat) (tr : Bool) : State :=
  wP (fun p => { p with tiles := FMap.set (FMap.set [] 0 (tOf w 128 k)) 1 (if tr then tOf w 128 k else tOf w k 128) })

theorem witness_MatrixProducts :
    (∀ e ∈ mmaForms, let s := wMma e.2.2.1 e.2.2.2.1 e.2.2.2.2.2; s.SeqRuns ∧ shaped ((mySeqPlot s).tiles.get 0) e.2.2.1 128 e.2.2.2.1
      ∧ (if e.2.2.2.2.2 then shaped ((mySeqPlot s).tiles.get 1) e.2.2.1 128 e.2.2.2.1 else shaped ((mySeqPlot s).tiles.get 1) e.2.2.1 e.2.2.2.1 128)
      ∧ ¬ shaped ((mySeqPlot s).tiles.get 2) e.2.2.1 128 e.2.2.2.1 ∧ ¬ shaped ((mySeqPlot s).tiles.get 2) e.2.2.1 e.2.2.2.1 128 ∧ ArrayFree s)
    ∧ ((wMma 6 256 false).SeqRuns ∧ shaped ((mySeqPlot (wMma 6 256 false)).tiles.get 0) 6 128 256
      ∧ shaped ((mySeqPlot (wMma 6 256 false)).tiles.get 1) 6 256 128 ∧ ArrayFree (wMma 6 256 false))
    ∧ (¬ ArrayFree ((wMma 6 256 false).modCore 0 (fun c => { c with mmaBusy := some default })))
    ∧ ((mySeqPlot w0).naccs ≤ (4 : BitVec 5).toNat ∧ (3 : BitVec 5).toNat < (mySeqPlot w0).naccs ∧ (15 : BitVec 5).toNat < (mySeqPlot w0).ntiles
      ∧ (mySeqPlot w0).ntiles ≤ (16 : BitVec 5).toNat)
    ∧ ((tOf 8 128 256).esc.getLsbD 0 = false ∧ (tOf 4 512 128).esc.getLsbD 0 = false) := by
  simp only [State.SeqRuns, shaped, ArrayFree]; decide +kernel

/-- The two rows that k4:k5 and k6 name lie in the scratchpad; its byte at 0x80 makes one escape, whose list entry lies at offset 256. -/
def wTld (n : Nat) : State :=
  wSq.modPlot 1 (fun p => { p with scratch := [(0x80, 0x80), (0x85, BitVec.ofNat 8 n), (256, 7)] })
def tldRanges : List (DWord × Nat) := [(0x1000000000000080, 16), (0x1000000000000090, 16)]
def scrParts (o n : Nat) : List Part := (List.range n).map (fun k => ⟨.scr (o + 8 * k), 8 * k, 8, none⟩)

/-- The answer of the checks of ranges, evaluated. -/
def rangesB (x : State × Ranges) (s : State) (ps : List (List Part)) : Bool :=
  match x with
  | (s1, .ok qs) => decide (s1 = s) && decide (qs = ps)
  | _ => false
def rangesBad (x : State × Ranges) (s : State) (c : Nat) (va : DWord) : Bool :=
  match x with
  | (s1, .bad d v) => decide (s1 = s) && decide (d = c) && decide (v = va)
  | _ => false

theorem of_rangesB {x : State × Ranges} {s : State} {ps : List (List Part)} (h : rangesB x s ps = true) : x = (s, .ok ps) := by
  unfold rangesB at h
  split at h
  · simp only [Bool.and_eq_true, decide_eq_true_eq] at h
    obtain ⟨rfl, rfl⟩ := h; rfl
  · exact absurd h (by decide)

theorem of_rangesBad {x : State × Ranges} {s : State} {c : Nat} {va : DWord} (h : rangesBad x s c va = true) : x = (s, .bad c va) := by
  unfold rangesBad at h
  split at h
  · simp only [Bool.and_eq_true, decide_eq_true_eq] at h
    obtain ⟨⟨rfl, rfl⟩, rfl⟩ := h; rfl
  · exact absurd h (by decide)

/-- Parts in a scratchpad are readable where the sequencer owes no store. -/
theorem readable_scr (s : State) (p : Nat) (ps : List Part) (h : (s.plots.get p).seq.stores = [])
    (hp : ps.all (fun b => match b.loc with | .scr _ => true | _ => false) = true) : Readable s p ps := by
  have hs : ∀ b ∈ ps, ∃ o, b.loc = .scr o := fun b hb => by
    have := List.all_eq_true.mp hp b hb
    cases hl : b.loc <;> simp_all
  refine ⟨by simp [h], fun b hb d o e => ?_, fun b hb k o e => ?_⟩ <;> obtain ⟨x, hx⟩ := hs b hb <;> rw [hx] at e <;> cases e

theorem witness_TileLoadsAndStores :
    (((wTld 0).checkRanges ((wTld 0).whoSeq 1) ((wTld 0).askSeq 1) .read tldRanges = (wTld 0, .ok [scrParts 128 2, scrParts 144 2]))
      ∧ (wTld 0).checkRanges ((wTld 0).whoSeq 1) ((wTld 0).askSeq 1) .read [(0x4000000000000000, 16)] = (wTld 0, .bad 3 0x4000000000000000)
      ∧ (wTld 0).checkRanges ((wTld 0).whoSeq 1) ((wTld 0).askSeq 1) .read [(tl8.esc &&& 0xFFFFFFFFFFFFFF80, 4)]
        = (wTld 0, .ok [[⟨.scr 256, 0, 4, none⟩]]))
    ∧ ((wTld 0).SeqRuns ∧ (mySeqPlot (wTld 0)).ntiles ≤ (16 : BitVec 5).toNat ∧ (1 : BitVec 5).toNat < (mySeqPlot (wTld 0)).ntiles
      ∧ (8 ∈ [4, 6, 8, 16] ∧ 16 * 8 % 32 = 0 ∧ 2 * 16 * 8 ≤ 262144 ∧ 2 * 16 % 32 = 0) ∧ ((mySeqPlot (wTld 0)).tiles.get 0).w ∉ [4, 6, 8, 16]
      ∧ kPairOf (wTld 0) 4 = 0x1000000000000080 ∧ (kOf (wTld 0) 6).toInt = 16
      ∧ wBusy.mmaReads 1 1 = true ∧ (wTld 0).mmaReads 1 1 = false
      ∧ (mySeqPlot (wTld 0)).seq.stores = [])
    ∧ Readable (wTld 0) 1 (scrParts 128 2 ++ scrParts 144 2) ∧ Readable (wTld 0) 1 [⟨.scr 256, 0, 4, none⟩]
    ∧ ((wSq.modPlot 1 (fun p => { p with scratchLen := 131072 })).SeqRuns ∧ (15 : BitVec 5).toNat < (mySeqPlot wSq).ntiles
      ∧ (∀ r ∈ List.range 2, InSeqScratch wSq (rowAt (kPairOf wSq 4) 16 r) 16)
      ∧ (∀ r ∈ List.range 128, InSeqScratch (wSq.modPlot 1 (fun p => { p with scratchLen := 131072 })) (rowAt (kPairOf wSq 4) 512 r) 512)
      ∧ ∀ r ∈ List.range 2, ∀ r' ∈ List.range 2, r ≠ r' → (rowAt (kPairOf wSq 4) 16 r).toNat % 2 ^ 60 + 16 ≤ (rowAt (kPairOf wSq 4) 16 r').toNat % 2 ^ 60
          ∨ (rowAt (kPairOf wSq 4) 16 r').toNat % 2 ^ 60 + 16 ≤ (rowAt (kPairOf wSq 4) 16 r).toNat % 2 ^ 60)
    ∧ ((mySeqPlot wSq).naccs ≤ (4 : BitVec 5).toNat ∧ wBusy.mmaAccs 1 3 = true ∧ wSq.mmaAccs 1 3 = false) := by
  refine ⟨⟨of_rangesB (by decide +kernel), of_rangesBad (by decide +kernel), of_rangesB (by decide +kernel)⟩, ?_,
    readable_scr _ _ _ (by decide +kernel) (by decide +kernel), readable_scr _ _ _ (by decide +kernel) (by decide +kernel), ?_⟩
  all_goals simp only [State.SeqRuns, InSeqScratch]; decide +kernel

/-! ### Statements met: the Trellis -/

/-- A token of colour 3 and tag 5 on port `port` with these lanes; a stop token. -/
def tk (port : Nat) (lanes : List Word) : Tok :=
  { (default : Tok) with
    handle := 9, colour := 3, tag := 5, elem := 2, slot := 1, port := port, width := max 1 lanes.length, lanes := lanes }
def tkStop (port lev : Nat) : Tok := { tk port [] with stop := lev }
def tkBad (port : Nat) (lanes : List Word) : Tok := { tk port lanes with poison := true }

/-- Slot 1 of element 2 fires with these ports. The word sends to DST0 = 0x1FF and DST1 = 0x20, ports 1 and 2; `wdE` sends to node 0 of
the edge. -/
def wd2 : DWord := 0x7FC2060000000000
def wdE : DWord := 0x0000001C00000000
def fr (word : DWord) (ps : List (Option Tok)) : Firing := ⟨0, 2, 1, word, 3, 5, 1, ps⟩
def wFire (word : DWord) (ps : List (Option Tok)) (cs : FMap Colour) : State :=
  { w0 with
    curFire := some (fr word ps)
    grids := FMap.set [] 0 { (default : Grid) with cfgs := [{ (default : Cfg) with handle := 9, colours := [3] }], colours := cs } }

/-- Every clause of the Trellis-only words: a colour already granted, the first free one, the parts of a vector, stops, poison. -/
theorem witness_TrellisWords :
    ((wFire wd2 [some (tk 0 [4])] [(2, ⟨true, 4, 0, 9, 3, 0⟩)]).curFire = some (fr wd2 [some (tk 0 [4])])
      ∧ (2, (⟨true, 4, 0, 9, 3, 0⟩ : Colour)) ∈ ((wFire wd2 [some (tk 0 [4])] [(2, ⟨true, 4, 0, 9, 3, 0⟩)]).grids.get 0).colours)
    ∧ ((wFire wd2 [some (tk 0 [4])] [(0, ⟨true, 4, 0, 8, 3, 0⟩)]).curFire = some (fr wd2 [some (tk 0 [4])])
      ∧ (((wFire wd2 [some (tk 0 [4])] [(0, ⟨true, 4, 0, 8, 3, 0⟩)]).grids.get 0).colours.get 1).taken = false
      ∧ (((wFire wd2 [some (tk 0 [4])] [(0, ⟨true, 4, 0, 8, 3, 0⟩)]).grids.get 0).colours.get 0).taken = true)
    ∧ (let s := wFire wd2 [some (tk 0 [1, 2, 3]), some (tk 1 [2]), none, some (tk 3 [1])] []
      let f := fr wd2 [some (tk 0 [1, 2, 3]), some (tk 1 [2]), none, some (tk 3 [1])]
      s.curFire = some f ∧ 0 < ((srcTok s f 1).lanes.headD 0).toNat ∧ ((srcTok s f 1).lanes.headD 0).toNat < (srcTok s f 0).width
        ∧ ((srcTok s f 62).lanes.headD 0).toNat = 0 ∧ (srcTok s f 0).poison = false ∧ (srcTok s f 1).poison = false)
    ∧ (let s := wFire wdE [some (tkBad 0 [1, 2]), some (tk 1 [2])] []
      let f := fr wdE [some (tkBad 0 [1, 2]), some (tk 1 [2])]
      s.curFire = some f ∧ (srcTok s f 0).poison = true) := by
  decide +kernel

theorem witness_CoordinateStreams :
    (let s := wFire wd2 [some (tkStop 0 2), some (tkStop 1 1)] []
     let f := fr wd2 [some (tkStop 0 2), some (tkStop 1 1)]
     s.curFire = some f ∧ (srcTok s f 0).stop ≠ 0 ∧ (srcTok s f 1).stop ≠ 0)
    ∧ (let s := wFire wd2 [some (tk 0 [4]), some (tkStop 1 1)] []
     let f := fr wd2 [some (tk 0 [4]), some (tkStop 1 1)]
     s.curFire = some f ∧ (srcTok s f 0).stop = 0 ∧ (srcTok s f 1).stop ≠ 0)
    ∧ (let s := wFire wd2 [some (tk 0 [4]), some (tk 1 [5])] []
     let f := fr wd2 [some (tk 0 [4]), some (tk 1 [5])]
     s.curFire = some f ∧ (srcTok s f 0).stop = 0 ∧ (srcTok s f 1).stop = 0
     ∧ ((srcTok s f 0).lanes.headD 0).toNat < ((srcTok s f 1).lanes.headD 0).toNat)
    ∧ (let s := wFire wd2 [some (tkStop 0 1), some (tk 1 [5])] []
     let f := fr wd2 [some (tkStop 0 1), some (tk 1 [5])]
     s.curFire = some f ∧ (srcTok s f 1).stop = 0 ∧ (srcTok s f 0).stop ≠ 0)
    ∧ (let s := wFire wd2 [some (tk 0 [7]), some (tk 1 [7])] []
     let f := fr wd2 [some (tk 0 [7]), some (tk 1 [7])]
     s.curFire = some f ∧ (srcTok s f 0).stop = 0 ∧ (srcTok s f 1).stop = 0
     ∧ (srcTok s f 0).lanes.headD 0 = (srcTok s f 1).lanes.headD 0) := by
  decide +kernel

/-! ### Statements met: lane instructions -/

/-- `BlockReady`, evaluated over the threads that there are. -/
def blockReadyB (s : State) (k : LaneKind) : Bool :=
  let inB (u : Nat) : Bool := (s.thr u).live && decide ((s.thr u).plot = (me s).plot) && decide ((s.thr u).slot / 32 = myBlock s)
  let ks := s.threads.keys
  s.threads.wf && (myPlot s).resident
    && ks.all (fun u => ks.all (fun v => !inB u || !inB v || decide ((s.thr u).slot ≠ (s.thr v).slot) || decide (u = v)))
    && ks.all (fun u => decide (u = s.cur) || !inB u || (match (s.thr u).wait with
      | .lane op => decide ((s.thr u).pc ≠ (me s).pc) || decide (op.kind = k)
      | _ => false))

/-- A live thread is one of those that the state lists. -/
theorem live_listed (s : State) (u : Nat) (h : (s.thr u).live = true) : u ∈ s.threads.keys := by
  have key : ∀ m : List (Nat × Thread), (FMap.get m u).live = true → u ∈ FMap.keys m := by
    intro m
    induction m with
    | nil => intro h; exact absurd h Bool.false_ne_true
    | cons e m ih =>
      obtain ⟨j, v⟩ := e
      intro h
      show u ∈ j :: FMap.keys m
      by_cases hj : j = u
      · exact hj ▸ List.mem_cons_self
      · refine List.mem_cons_of_mem _ (ih ?_)
        simpa only [FMap.get, if_neg hj] using h
  exact key s.threads h

theorem blockReady_of {s : State} {k : LaneKind} (h : blockReadyB s k = true) : BlockReady s k := by
  simp only [blockReadyB, Bool.and_eq_true, List.all_eq_true] at h
  obtain ⟨⟨⟨h1, h2⟩, h3⟩, h4⟩ := h
  have hin : ∀ u, InBlock s u → u ∈ s.threads.keys := fun u hu => live_listed s u hu.1
  refine ⟨h1, h2, fun u v hu hv he => ?_, fun u hne hu => ?_⟩
  · have := h3 u (hin u hu) v (hin v hv)
    simpa [hu.1, hu.2.1, hu.2.2, hv.1, hv.2.1, hv.2.2, he] using this
  · have := h4 u (hin u hu)
    simp only [hne, hu.1, hu.2.1, hu.2.2, decide_true, decide_false, Bool.and_true, Bool.not_true, Bool.false_or, Bool.or_false] at this
    cases hw : (s.thr u).wait with
    | lane op =>
      refine ⟨op, rfl, fun hp => ?_⟩
      simpa [hw, hp] using this
    | _ => simp [hw] at this

/-- `w0` with a thread at lane 31 that waits at a lane instruction of kind `k` at the same address, and one at lane 4 that waits at
another address. -/
def laneOp (k : LaneKind) : LaneOp := ⟨k, 10, 2, 3, 62, 0, false, 0, shape (.redAdd fu), true⟩
def wPeer (k : LaneKind) : State :=
  { w0 with
    threads := (w0.threads.set 2 { th0 with slot := 31, tid := 31, g := th0.g.set 2 9, wait := .lane (laneOp k) }).set 3
      { th0 with slot := 4, tid := 4, pc := 0x10100, wait := .lane (laneOp .redAdd) } }

theorem witness_LaneCollectives :
    (∀ e ∈ laneWordsA, (wPeer e.2).Issues (shape (e.1 fa)) ∧ (me (wPeer e.2)).guard (shape (e.1 fa)).g = true)
    ∧ (∀ e ∈ laneWordsU, (wPeer e.2).Issues (shape (e.1 fu)) ∧ (wPeer e.2).Issues (shape (e.1 { fu with g := 1 })))
    ∧ (∀ e ∈ laneWordsA, BlockReady (wPeer e.2) e.2) ∧ ∀ e ∈ laneWordsU, BlockReady (wPeer e.2) e.2 := by
  refine ⟨?_, ?_, fun e he => blockReady_of ?_, fun e he => blockReady_of ?_⟩
  · simp only [issues_iff]; decide +kernel
  · simp only [issues_iff]; decide +kernel
  · exact List.all_eq_true.mp (show laneWordsA.all (fun e => blockReadyB (wPeer e.2) e.2) = true by decide +kernel) e he
  · exact List.all_eq_true.mp (show laneWordsU.all (fun e => blockReadyB (wPeer e.2) e.2) = true by decide +kernel) e he

/-- A quantiser's operands: elements g0 to g7, and, of the outlier forms, the control quad g16 to g19 with its list in the scratchpad. -/
def fq : FA := ⟨7, 10, 0, 62, false, 0⟩
def fo : FA := ⟨7, 10, 0, 16, false, 0⟩
def wQuad : State := wT (fun t => { t with g := [(0, 0x40000000), (1, 0x41000000), (16, 2), (18, 0x40), (19, 0x10000000)] })

theorem witness_NumberCollectives :
    (∀ e ∈ rowWords, (wPeer e.2).Issues (shape (e.1 ⟨7, 10, 2, 20, false, 0⟩)) ∧ blockReadyB (wPeer e.2) e.2 = true)
    ∧ (∀ e ∈ [(Instr.vmxF4, LaneKind.vmxF4), (.vmxE4, .vmxE4), (.vmxE5, .vmxE5)], (wPeer e.2).Issues (shape (e.1 ⟨10, 2, 20, 62, 0, 0⟩))
      ∧ blockReadyB (wPeer e.2) e.2 = true)
    ∧ (∀ e ∈ [(Instr.qntF4, LaneKind.qntF4), (.qntE4, .qntE4), (.qntE5, .qntE5), (.amaxL, .amaxL)], (wPeer e.2).Issues (shape (e.1 fq))
      ∧ blockReadyB (wPeer e.2) e.2 = true ∧ (e.1 fq).wellFormed = true)
    ∧ (∀ e ∈ [(Instr.qntF4o, LaneKind.qntF4o), (.qntE4o, .qntE4o)], wQuad.Issues (shape (e.1 fo)) ∧ blockReadyB wQuad e.2 = true
      ∧ (e.1 fo).wellFormed = true ∧ (me wQuad).guard 7 = true ∧ (me wQuad).stores = [] ∧ (me wQuad).loads = []
      ∧ ((me wQuad).g.get 19 ++ (me wQuad).g.get 18).toNat = 2 ^ 60 + 64) := by
  simp only [issues_iff]; decide +kernel

/-! ### Statements met: events of threads, bins and launches -/

/-- Thread 1 in a wait, at device time `n`. -/
def wWt (w : Wait) (n : Nat) : State := { wT (fun t => { t with wait := w }) with time := n }
/-- The word `w` at its program counter, where it waits in `v`. -/
def wMem (w : Nat) (v : Wait) : State := { wT (fun t => { t with wait := v }) with mem := FMap.setMany [] 0x10000 (leBytes 4 w), time := 1000 }
/-- The same with core 0's clock at `n` cycles. -/
def wClk (s : State) (n : Nat) : State := s.modDie 0 (fun d => { d with mcycles := 1000 * n })
/-- Thread 1 inside a chain that its two members have issued together, at a word that reads b0. -/
def wChained : State :=
  { wT (fun t => { t with b0 := some ⟨7, default, 1⟩, packed := [1] }) with
    mem := FMap.setMany [] 0x10000 (leBytes 4 (BitVec.toNat (encode (.add ⟨7, 10, 60, 2, false, 0⟩))[0]!)) }
def ringMsg : Msg := ⟨1, 0, 1, [1, 2, 3, 4], 0x10004⟩
/-- Plot 1 with an empty ring of 128 bytes at offset 0. -/
def wRingT (w : Wait) : State := (wWt w 1000).modPlot 1 (fun p => { p with scratch := FMap.setMany [] 0 (leBytes 4 128) })
def kid (n : Nat) : Child := ⟨BitVec.ofNat 32 n, 5, 0⟩
def wBins (kids free : Nat) (ends : Nat) : State :=
  w0.modPlot 1 (fun p => { p with blocks := List.range free, areas := 64, bins := [⟨0x10040, ends, (List.range kids).map kid⟩] })
def wRegroup (w : Wait) (ends : Nat) : State :=
  (wWt w 1000).modPlot 1 (fun p => { p with rbins := [⟨0x10004, 7, ends, [1]⟩] })
def qReq : SpawnReq := ⟨0x10040, 5, 1, false, 0x10004⟩
def wIdsT (w : Wait) : State :=
  (wWt w 1000).modLaunch 0 (fun l => { l with record := List.replicate 8 0 ++ leBytes 4 0xFFFFFFFE })
def wFullT (w : Wait) : State := (wWt w 1000).modPlot 1 (fun p => { p with bins := [⟨0x10040, 2000, (List.range 1024).map kid⟩] })
def wSeqNb : State := { w0.modSeq 1 (fun q => { q with wait := .nbar }) with time := 100000000 }
def mmRun : MmaRun := ⟨1, 3, 1, 15, 1000⟩
def laneW : Wait := .lane ⟨.redAdd, 10, 2, 62, 62, 0, false, 0, shape (.redAdd fu), true⟩
def mRun : MacroRun := { (default : MacroRun) with bank := 1, sel := 2, next := 0x10004, i := 0 }
def mBank : Bank := ⟨some 0, none, FMap.set [] 2 [0xBC000000]⟩
/-- Bank 1 of core 0 holds under selector 2 the sequence of one `end`. -/
def wMacro : State :=
  ((wWt .scoreboard 1000).modThr 1 (fun t => { t with mrun := some mRun })).modCore 0 (fun c => { c with banks := [(1, mBank)] })

theorem witness_ThreadAndBinEvents :
    (1 ∈ w0.threads.keys ∧ w0.coreOf (w0.thr 1) = 0 ∧ w0.ready 1 = true ∧ w0.chainNext 1 = false
      ∧ wChained.ready 1 = true ∧ wChained.chainNext 1 = true ∧ wChained.chainMates 1 = [1])
    ∧ (((wWt .nbar 100000000).thr 1).live = true ∧ (wWt .nbar 100000000).countsTime 1 = true ∧ (wWt laneW 100000000).countsTime 1 = true
      ∧ laneW.isLane = true ∧ (0 : Nat) + 100000000 ≤ 100000000)
    ∧ (wSeqNb.countsTime 1 = true ∧ (wSeqNb.plots.get 1).seq.running = true ∧ (wSeqNb.plots.get 1).seq.faulted = false
      ∧ (wSeqNb.plots.get 1).seq.wait = .nbar ∧ (wSeqNb.plots.get 1).seq.since + 100000000 ≤ wSeqNb.time)
    ∧ (((wWt (.sleep 1000) 1000).thr 1).wait = .sleep 1000 ∧ ((wWt (.sleep 1000) 1000).thr 1).live = true
      ∧ (wWt (.sleep 1000) 1000).coreGoes 0 = true ∧ 1000 ≤ (wClk (wWt (.sleep 1000) 1000) 1).clk 0
      ∧ (wClk (wWt (.sleep 1001) 1000) 1).clk 0 < 1001)
    ∧ ((((wWt (.wfi 0) 1000).modDie 0 (fun d => { d with posted := 1 })).thr 1).wait = .wfi 0
      ∧ 0 < (((wWt (.wfi 0) 1000).modDie 0 (fun d => { d with posted := 1 })).dies.get 0).posted)
    ∧ ((wWt .stopped 1000).thr 1).wait = .stopped
    ∧ ((wMem 0xB9C00001 .fence).nextWords 1 = some (0xB9C00001, 0) ∧ (wMem 0xB9C00001 .fence).canTurn 1 = true
      ∧ (wMem 0xB9C00001 .fence).fenceOver 1 0xB9C00001 0 = true)
    ∧ (LiveHere (wRingT (.space 1000 ringMsg)) 1 ∧ ((wRingT (.space 1000 ringMsg)).thr 1).wait = .space 1000 ringMsg
      ∧ ((wRingT (.space 1000 ringMsg)).deliver ringMsg).isSome = true ∧ (wRingT (.space 1000 ringMsg)).time = 1000
      ∧ (wRingT (.space 1000 ringMsg)).coreGoes 0 = true)
    ∧ (LiveHere (wWt (.queue 1000 qReq) 1000) 1 ∧ ¬ 1024 ≤ (wWt (.queue 1000 qReq) 1000).pending 0
      ∧ ((wWt (.queue 1000 qReq) 1000).launches.get 0).idsOut = false ∧ ((wIdsT (.queue 1000 qReq)).launches.get 0).idsOut = true
      ∧ LiveHere (wIdsT (.queue 1000 qReq)) 1 ∧ LiveHere (wFullT (.queue 1000 qReq)) 1 ∧ 1024 ≤ (wFullT (.queue 1000 qReq)).pending 0
      ∧ (wFullT (.queue 1000 qReq)).coreGoes 0 = true ∧ 1000 ≤ (wClk (wFullT (.queue 1000 qReq)) 1).clk 0)
    ∧ ((w0.thr w0.cur).live = true ∧ w0.SeqRuns)
    ∧ (((w0.modSeq 1 (fun q => { q with faulted := true })).plots.get 1).seq.faulted = true)
    ∧ (((w0.modCore 0 (fun c => { c with mmaBusy := some mmRun })).cores.get 0).mmaBusy = some mmRun ∧ mmRun.ends ≤ (wClk w0 1).clk 0 ∧ w0.clk 0 < mmRun.ends)
    ∧ (((w0.modCore 0 (fun c => { c with arrayWarm := true })).cores.get 0).arrayWarm = true ∧ (0 : Nat) + 1024000 ≤ (wClk w0 1024).clk 0)
    ∧ (((wWt .bankWait 1000).modCore 0 (fun c => { c with updates := [(1, .unbind 0)] })).cores.get 0).updates = [(1, .unbind 0)]
      ∧ ((wWt .bankWait 1000).thr 1).wait = .bankWait ∧ (default : Core).updateFits (.load 0 0 (List.replicate 1024 0)) = true
      ∧ (default : Core).updateFits (.load 0 0 (List.replicate 1025 0)) = false
    ∧ (((wMacro.thr 1).mrun = some mRun ∧ (wMacro.thr 1).wait = .scoreboard) ∧
      (let ws := ((wMacro.cores.get 0).banks.get 1).seqs.get 2
       (uCommit (uAt ws 0) || uOp (uAt ws 0) == 0x2F) = true) ∧ wMacro.macroHit (wMacro.thr 1) mRun = false)
    ∧ (PlotHere (wBins 32 2 2000) 1 ∧ (wBins 32 2 2000).allLanesFree 1 = true ∧ (wBins 32 2 2000).coreGoes 0 = true
      ∧ ((wBins 1 1 1000).plots.get 1).bins.find? (fun b => b.entry == 0x10040) = some ⟨0x10040, 1000, [kid 0]⟩
      ∧ (1000 : Nat) ≤ (wClk (wBins 1 1 1000) 1).clk 0 ∧ (wBins 1 1 1000).freeSlots 1 ≠ []
      ∧ (wBins 32 2 2000).freeArea 1 = some 1)
    ∧ ((wBins 1 0 1000).freeSlots 1 = [] ∧ ((wBins 1 0 1000).freeBlocks 0).head? = some 0)
    ∧ (PlotHere (wRegroup .bin 1000) 1 ∧ ((wRegroup .bin 1000).thr 1).slot < 2048 ∧ (1000 : Nat) ≤ (wClk (wRegroup .bin 1000) 1).clk 0
      ∧ (∀ u ∈ (wRegroup .bin 1000).plotThreads 1, ((wRegroup .bin 1000).thr u).wait = .bin)
      ∧ ((wRegroup .bin 1000).plots.get 1).rbins.find? (fun b => b.pc == 0x10004 && b.val == 7) = some ⟨0x10004, 7, 1000, [1]⟩) := by
  simp only [State.SeqRuns, LiveHere, PlotHere]
  refine ⟨?_, ?_, ?_, ?_, ?_, ?_, ?_, ?_, ?_, ?_, ?_, ?_, ?_, ?_, ?_, ?_, ?_, ?_⟩ <;> decide +kernel

/-! ### Statements met: launches, plots and contexts -/

/-- A launch record: threads, SHAPE, flags, die mask, predecessor, group table. -/
def lRec (n shape flags mask pred gt : Nat) : List Byte :=
  leBytes 8 0x10000 ++ leBytes 4 n ++ leBytes 4 shape ++ leBytes 8 (flags * 2 ^ 32) ++ leBytes 4 mask ++ leBytes 4 pred ++ leBytes 8 0 ++ leBytes 8 gt
    ++ List.replicate 80 0
/-- Launch 1 of context 0, whose virtual die 0 is die 0. -/
def wLaunch (r : List Byte) (st : LStage) (cls : Nat) : State :=
  { w0 with
    launches := [(1, { (default : Launch) with stage := st, id := 1, record := r, cls := cls })]
    dies := FMap.set [] 0 { (default : Die) with tlb := [placedPage], ingress := [1], held := [(0, some { (default : Desc) with vd := [0x80] })] } }
/-- Die 0 whose context 0 must have a control-store bank. -/
def wLbank : State :=
  (wLaunch (lRec 1 1 0 1 0 0) .waiting 0).modDie 0 (fun d => { d with held := [(0, some { (default : Desc) with vd := [0x80], flags := 1 })] })
def picksOf (s : State) (d : Nat) : List (Nat × Nat) :=
  (((List.range 8).map s.served).filterMap (fun ks => s.pick [] ks)).filter (fun e => dieOf e.2 == d)
/-- Plot 1, of the placed launch 1, with no thread left; and one that has been switched out. -/
def wEnded : State :=
  { (wLaunch (lRec 1 1 0 1 0 0) .placed 0).modPlot 1 (fun p => { p with launch := 1, seq := default }) with threads := [] }
def wOut : State := (wLaunch (lRec 1 1 0 1 0 0) .placed 0).modPlot 1 (fun p => { p with launch := 1, resident := false })
def wLeaving : State := w0.modPlot 1 (fun p => { p with switching := some 900 })
def wHeldStore : State := wT (fun t => { t with stores := [default] })

theorem witness_LaunchEvents :
    (let s := wLaunch (lRec 1 1 0 1 0 0) .queued 0
     (s.launches.get 1).stage = .queued ∧ (s.launches.get 1).pav = none ∧ (s.dies.get 0).ingress.head? = some 1
      ∧ (unqueued s 1).recordBad (s.launches.get 1) = none ∧ (s.launches.get 1).groupTable = 0)
    ∧ ((unqueued (wLaunch (lRec 0 1 0 1 0 0) .queued 0) 1).recordBad ((wLaunch (lRec 0 1 0 1 0 0) .queued 0).launches.get 1) = some 2
      ∧ (unqueued (wLaunch (lRec 1 2049 0 1 0 0) .queued 0) 1).recordBad ((wLaunch (lRec 1 2049 0 1 0 0) .queued 0).launches.get 1) = some 2
      ∧ (unqueued (wLaunch (lRec 1 2048 0 1 0 0) .queued 0) 1).recordBad ((wLaunch (lRec 1 2048 0 1 0 0) .queued 0).launches.get 1) = none
      ∧ (unqueued (wLaunch (lRec 1 1 16 1 0 0) .queued 0) 1).recordBad ((wLaunch (lRec 1 1 16 1 0 0) .queued 0).launches.get 1) = some 1)
    ∧ ((wLaunch (lRec 1 1 0 1 0 16) .reading 0).launches.get 1).stage = .reading
    ∧ (((wLaunch (lRec 1 1 0 1 0 0) .waiting 2).launches.get 1).cls < 3
      ∧ (0 : Nat) + [8000000, 2000000, 500000].getD 2 0 < ({ wLaunch (lRec 1 1 0 1 0 0) .waiting 2 with time := 500001 } : State).time
      ∧ ({ wLaunch (lRec 1 1 0 1 0 0) .waiting 2 with time := 500000 } : State).time ≤ 0 + [8000000, 2000000, 500000].getD 2 0)
    ∧ ((wLaunch (lRec 33 32 0 1 0 0) .waiting 0).bestPick (picksOf (wLaunch (lRec 33 32 0 1 0 0) .waiting 0) 0) = some (1, 0)
      ∧ wLbank.bestPick (picksOf wLbank 0) = none ∧ wLbank.bankWanted 0 ((List.range 8).map wLbank.served).flatten = some (0, 0))
    ∧ (PlotHere wEnded 1 ∧ wEnded.plotEnded 1 = true ∧ wEnded.plotQuiet 1 = true ∧ (wEnded.launches.get 1).stage = .placed
      ∧ (wEnded.launches.get 1).retired + 1 = (wEnded.launches.get 1).plotCount)
    ∧ (PlotHere w0 1 ∧ isService (w0.plots.get 1).core = false ∧ (w0.plots.get 1).switching = none)
    ∧ ((wLeaving.plots.get 1).switching = some 900 ∧ wLeaving.switchReady 1 = true
      ∧ (wHeldStore.modPlot 1 (fun p => { p with switching := some 900 })).switchReady 1 = false)
    ∧ ((wOut.plots.get 1).live = true ∧ (wOut.plots.get 1).resident = false ∧ wOut.plots.wf = true ∧ wOut.restoreCore (wOut.plots.get 1) = some 0) := by
  simp only [PlotHere]
  refine ⟨?_, ?_, ?_, ?_, ?_, ?_, ?_, ?_, ?_⟩ <;> decide +kernel

/-! ### Statements met: ingress and launch ports -/

/-- Port 7 of die 0 with `n` tokens in its buffer and a stream of `left` more tokens open, headed by `v`. -/
def wPort (n left : Nat) (v : DWord) (ovf : Bool) : State :=
  { w0 with ports := [(7, { (default : Port) with buf := (List.range n).map (fun i => BitVec.ofNat 64 (i + 1)), open_ := some (v, left), ovf := ovf })] }
/-- Configuration 5 of context 0 on core 0, whose node 28 is an ingress tap that feeds slot 2 of element 3. -/
def imgTap : Image := { (default : Image) with edges := [(28, 2)], map := [BitVec.ofNat 64 (2 * 2 ^ 13 + 3 * 2 ^ 17)] }
def cfgTap (st : CfgStage) : Cfg := { (default : Cfg) with handle := 5, image := imgTap, stage := st }
def wFed (left : Nat) (st : CfgStage) : State :=
  { wPort 1 left (BitVec.ofNat 64 (5 * 2 ^ 12 + 2 ^ 32 + 3 * 2 ^ 48)) false with grids := [(0, { (default : Grid) with cfgs := [cfgTap st] })] }
/-- Pavilion 3 whose LREC holds a launch of one thread; the virtual die 0 of context 0 is bound on its die. -/
def wLrec (n : Nat) (busy : Bool) : State :=
  { w0 with
    pavs := [(3, { (default : Pav) with lrec := Memory.write [] 0 (lRec n 1 0 1 0 0), busy := busy })]
    dies := FMap.set w0.dies (dieOf 1283) { (default : Die) with held := [(0, some { (default : Desc) with vd := [0x80] })] } }

theorem witness_IngressEvents :
    (let s := wPort 511 1 0 false
     s.portLive 7 = true ∧ 0x78 < 0x80 ∧ 0x79 % 8 ≠ 0 ∧ 0x80 < 0x78 + 16 ∧ (leBytes 8 5).length = 8 ∧ (s.ports.get 7).open_.isSome = true
      ∧ (s.ports.get 7).dead = false ∧ (s.ports.get 7).skip = 0 ∧ (s.ports.get 7).buf.length < 512)
    ∧ 512 ≤ ((wPort 512 1 0 false).ports.get 7).buf.length
    ∧ (let s := wPort 16 16 0 false
       (s.ports.get 7).open_ = some (0, 16) ∧ headMode 0 = 0 ∧ 16 ≤ (s.ports.get 7).buf.length ∧ (s.dies.get (portDie 7)).stage = .up
        ∧ (s.dies.get (portDie 7)).ingress.length < 256)
    ∧ (let s := wFed 2 .run
       (s.ports.get 7).open_ = some (BitVec.ofNat 64 (5 * 2 ^ 12 + 2 ^ 32 + 3 * 2 ^ 48), 2) ∧ (s.ports.get 7).buf = [1]
        ∧ s.fedCfg 7 = some (0, cfgTap .run) ∧ imgTap.inTap = some 28 ∧ s.gridRuns 0 = true ∧ (cfgTap .run).tapEnd.get 28 = false)
    ∧ (wFed 2 .clearing).fedCfg 7 = some (0, cfgTap .clearing)
    ∧ (3 < 4 ∧ ((wLrec 1 true).pavs.get 3).busy = true ∧ ((wLrec 1 false).pavs.get 3).busy = false
      ∧ (let s := wLrec 1 false; let l := s.lrecLaunch 3; (s.holdDesc l.home l.ctx).recordBad l = none)
      ∧ (let s := wLrec 2 false; let l := s.lrecLaunch 3; (s.holdDesc l.home l.ctx).recordBad l = some 2)) := by
  refine ⟨?_, ?_, ?_, ?_, ?_, ?_⟩ <;> decide +kernel

/-! ### Statements met: events of memory -/

/-- A page table of context 0 at 0x4_0000 whose first GiB is one leaf; thread 1 waits for the walk of 0x2_0000. -/
def dRoot : Desc := { (default : Desc) with root := BitVec.ofNat 64 (1 + 2 * 2 ^ 17) }
def wWalk (root : Bool) : State :=
  { wT (fun t => { t with wait := .walk 0x20000 .read }) with
    mem := FMap.setMany (FMap.setMany [] 0x40000 (leBytes 8 0x50001)) 0x50000 (leBytes 8 0x1F)
    dies := FMap.set [] 0 { (default : Die) with tlb := [placedPage], held := if root then [(0, some dRoot)] else [] } }
/-- Thread 1, whose chain began at `pend`, waits for the runtime at 0x2_0000. -/
def snap0 : Snap := { (default : Snap) with pc := 0x10000, g := [(1, 9)] }
def wPaged (q : Option Snap) : State :=
  (wT (fun t => { t with wait := .page 0x20000 .read, pend := q })).modDie 0 (fun d => { d with pages := [⟨0, 0x20000, 65536⟩] })
def invW : DWord := 0x10000
def wInv : State := w0.modDie 0 (fun d => { d with invPend := [invW], ctxPend := [invW], held := [(0, some dRoot), (1, some dRoot)] })
/-- Thread 1 with a load whose one part lies at `l`. -/
def ldAt (l : Loc) (d : LoadDst) (x : Option (List Byte)) : Load :=
  { (default : Load) with addr := 0x10100, size := 4, dst := d, parts := [⟨l, 0, 4, x⟩], snap := snap0 }
def wLd (l : Loc) (d : LoadDst) (x : Option (List Byte)) : State :=
  { wT (fun t => { t with loads := [ldAt l d x], seq := 1, wait := if d = .bulk 0 then .bulk else .none }) with bad := [(3, true)] }
def wldsOk : List Loc := [.dev 0x10100 0, .host 0x40, .reg 0x400000000000, .scr 1020, .wgt 0 (63 * 512), .wgt 0 0]
def heldOf (l : Loc) (n : Nat) (op : HeldOp) : Held := { (default : Held) with addr := 0x10100, loc := l, len := n, op := op }
def wSto (l : Loc) (n : Nat) (op : HeldOp) : State :=
  { wT (fun t => { t with stores := [heldOf l n op], seq := 1 }) with
    bad := [(3, true)] }
def homes : List Loc := [.dev 0x1017C 0, .host 0x40, .scr 1016]
def wSeqSto : State := w0.modSeq 1 (fun q => { q with stores := [heldOf (.dev 0x10100 0) 4 (.store [1, 2, 3, 4])] })
def amoOf (op : AOp) (d : Nat) : HeldOp := .amo op 5 3 d snap0

theorem witness_MemoryEvents :
    ((wWalk true).walkers 0 ⟨0, 0x20000, 65536⟩ = [1] ∧ ((wWalk true).thr 1).ctx = 0 ∧ dieOf ((wWalk true).coreOf ((wWalk true).thr 1)) = 0
      ∧ ((wWalk true).holdDesc 0 0).walk 0 0 0x20000 (accOf 0) = .leaf ⟨0, 0, 2 ^ 30, 0x1F⟩
      ∧ ((wWalk false).holdDesc 0 0).walk 0 0 0x20000 (accOf 0) = .ending 5 3 ∧ (wWalk false).walkers 0 ⟨0, 0x20000, 65536⟩ = [1]
      ∧ (wWalk false).pageOpen 0 0 0x20000 = none)
    ∧ (∀ q ∈ [none, some snap0], let e : PageEv := ⟨0, 0x20000, 65536⟩
      (wPaged q).pageOpen 0 0 0x20000 = some e ∧ (wPaged q).pagers 0 e = [1]
      ∧ (wPaged q).pageSeqs 0 e = [] ∧ (wPaged q).pageLaunches 0 e = [] ∧ ((wPaged q).thr 1).wait = .page 0x20000 .read)
    ∧ ((wInv.dies.get 0).invPend = [invW] ∧ wInv.invBusy invW = false ∧ (wInv.dies.get 0).ctxPend = [invW])
    ∧ ((0x400000000000 : Nat) + 0x10000 * 20 + 0xFFF8 < 0x400000000000 + 0x10000 * 21 ∧ (0xFFF8 : Nat) % 8 = 0 ∧ (0x400000000000 : Nat) - 8 < 0x400000000000)
    ∧ (∀ l ∈ wldsOk, let s := wLd l (.regs 10 1 false) none
       (s.thr 1).loads[0]? = some (ldAt l (.regs 10 1 false) none) ∧ (ldAt l (.regs 10 1 false) none).grp = 0
       ∧ (ldAt l (.regs 10 1 false) none).parts[0]? = some ⟨l, 0, 4, none⟩ ∧ (s.thr 1).wait ≠ .grid
       ∧ (s.thr 1).earlierOpen 0 l 4 = false ∧ (s.plotOf (s.thr 1)).resident = true ∧ s.homeFault 1 l 4 = none
       ∧ (s.thr 1).storesFirst 0 l 4 = false)
    ∧ ((wLd (.dev 0x1FC 0) (.regs 10 1 false) none).homeFault 1 (.dev 0x1FC 0) 4 = some 7
      ∧ (wLd (.dev 0x1FC 0) .line none).homeFault 1 (.dev 0x1FC 0) 4 = some 7
      ∧ ((wLd (.scr 1020) .none none).plotOf ((wLd (.scr 1020) .none none).thr 1)).fullAt 1020 4 = true
      ∧ (w0.dies.get 0).bankClosed 0 = true ∧ (w0.dies.get 0).bankClosed 63 = false)
    ∧ (((wLd (.scr 0) (.regs 59 1 false) (some [1, 2, 3, 4])).thr 1).loads[0]? = some (ldAt (.scr 0) (.regs 59 1 false) (some [1, 2, 3, 4]))
      ∧ 59 + 1 ≤ 60 ∧ (4 + 3) / 4 = 1 ∧ ((wLd (.scr 0) (.bulk 0) (some [1, 2, 3, 4])).thr 1).wait = .bulk)
    ∧ (∀ l ∈ homes, let s := wSto l 4 (.store [1, 2, 3, 4]); let h := heldOf l 4 (.store [1, 2, 3, 4])
       (1 : Nat) < 2 ^ 32 ∧ (s.thr 1).stores[0]? = some h ∧ s.heldReady (s.thr 1) h = true
       ∧ h.grp = 0 ∧ plainHome l = true ∧ s.homeFault 1 l 4 = none ∧ (s.homesTry (h.acc 1) [(l, 4)]).2 = true)
    ∧ ((wSto (.dev 0x180 0) 4 (.store [1, 2, 3, 4])).homeFault 1 (.dev 0x180 0) 4 = some 7
      ∧ (wSto (.reg 0x400000000000) 8 (.store (leBytes 8 5))).homeFault 1 (.reg 0x400000000000) 8 = none)
    ∧ ((wSeqSto.plots.get 1).seq.stores = [heldOf (.dev 0x10100 0) 4 (.store [1, 2, 3, 4])] ∧ wSeqSto.homeFault 1 (.dev 0x10100 0) 4 = none
      ∧ (wSeqSto.homesTry (.tile 1 0) [(.dev 0x10100 0, 4)]).2 = true)
    ∧ (∀ l ∈ homes, ∀ n ∈ [4, 8], let s := wSto l n (amoOf .cas 58); let h := heldOf l n (amoOf .cas 58)
       (s.thr 1).stores[0]? = some h ∧ s.heldReady (s.thr 1) h = true ∧ s.atomFull (s.thr 1) h = true ∧ (s.thr 1).precise h = true
       ∧ s.homeFault 1 l n = none ∧ (s.homesTry (h.acc 1) [(l, n)]).2 = true)
    ∧ ((wSto (.dev 0x180 0) 4 (amoOf .add 10)).homeFault 1 (.dev 0x180 0) 4 = some 7)
    ∧ (0xBFFFFFFFF8 + 8 ≤ 0xC000000000 ∧ (w0.homesTry (.host 0xBFFFFFFFF8) [(.dev 0xBFFFFFFFF8 0, 8)]).2 = true ∧ 0xBFFFFFFFF8 % 8 = 0)
    ∧ (∀ x ∈ w0.ctxsOn 7, ∀ v ∈ List.range 16, w0.boundDie (w0.desc 7 x).vd v = none) := by
  refine ⟨?_, ?_, ?_, ?_, ?_, ?_, ?_, ?_, ?_, ?_, ?_, ?_, ?_, ?_⟩ <;> decide +kernel

/-! ### Statements met: copies, streams, gathers and scatters -/

/-- A copy of six bytes from scratchpad offset 0x201 to 0x103, whose barrier object at 0x300 counts 100. -/
def cpD : CopyDesc := { (default : CopyDesc) with src := 0x1000000000000201, dst := 0x1000000000000103, rowlen := 6, bobj := 0x300, setfull := true }
def cp0 (dn : FMap Nat) (ct : FMap Bool) : Copy := { (default : Copy) with id := 9, plot := 1, thread := 1, desc := cpD, done := dn, counted := ct }
def wCopy (dn : FMap Nat) (ct : FMap Bool) (sw : Option Nat) : State :=
  (w0.modCore 0 (fun c => { c with copies := [cp0 dn ct] })).modPlot 1 (fun p => { p with
    switching := sw, scratch := FMap.setMany (FMap.setMany [] 0x200 [9, 1, 2, 3, 4, 5, 6, 7]) 0x300 (leBytes 8 100) })
/-- Stream 2 of core 0: tiles of one line of device memory into two slots at 0x100, counted at 0x300. -/
def st0 (src : DWord) (pos at_ : Nat) : Strm := { (default : Strm) with
  active := true, plot := 1, thread := 1, src := src, slotB := 1, nslot := 2, ring := 0x100, tstride := 128, ntile := 4, bobj := 0x300,
  next := 1, slots := FMap.set [] 0 (.filled 0), pos := pos, posAt := at_ }
def wStrmX (src : DWord) (pos at_ : Nat) : State :=
  { (w0.modCore 0 (fun c => { c with streams := [(2, st0 src pos at_)] })).modPlot 1 (fun p => { p with
      scratch := FMap.setMany [] 0x300 (leBytes 8 128), empty := [(2, true), (3, true)] }) with mem := FMap.setMany [] 0x10180 [1, 2, 3] }
def wNoticed : State :=
  w0.modCore 0 (fun c => { c with streams := [(2, { st0 0 0 0 with freed := 1, slots := FMap.set [] 1 .noticed })] })
/-- Gather or scatter 4 of plot 1: two elements of four bytes, indices at 0x40, table at 0x80, packed elements at 0xC0. -/
def gs0 (sc : Bool) (op : Nat) (dn : FMap Nat) : Gs := { (default : Gs) with
  seq := 4, scatter := sc, thread := 1, table := 0x1000000000000080, index := 0x1000000000000040, dense := 0x10000000000000C0, count := 2, esz := 4,
  op := op, bobj := 0x300, done := dn }
def wGsX (sc : Bool) (op : Nat) (dn : FMap Nat) : State :=
  w0.modPlot 1 (fun p => { p with
    gss := [gs0 sc op dn]
    scratch := FMap.setMany (FMap.setMany (FMap.setMany [] 0x44 [3, 0, 0, 0]) 0x8C [0xFF, 0xFF, 0xFF, 0xFF, 1]) 0xC4 ([2, 0, 0, 0] ++ List.replicate 568 0 ++ [4]) })
def streamParts : List Part := [⟨.dev 0x101FC 0, 0, 4, none⟩]

/-- The answer of an engine's checks, evaluated. -/
def engOkB (x : State × EngChk) (s : State) (ps : List Part) : Bool :=
  match x with
  | (s1, .ok qs) => decide (s1 = s) && decide (qs = ps)
  | _ => false
def engWaitB (x : State × EngChk) : Bool :=
  match x with
  | (_, .wait) => true
  | _ => false

theorem of_engOkB {x : State × EngChk} {s : State} {ps : List Part} (h : engOkB x s ps = true) : x = (s, .ok ps) := by
  unfold engOkB at h
  split at h
  · simp only [Bool.and_eq_true, decide_eq_true_eq] at h
    obtain ⟨rfl, rfl⟩ := h; rfl
  · exact absurd h (by decide)

theorem of_engWaitB {x : State × EngChk} (h : engWaitB x = true) : x = (x.1, .wait) := by
  unfold engWaitB at h
  split at h
  · rfl
  · exact absurd h (by decide)

theorem witness_TransferEvents :
    (let s := wCopy [] [] none
     (s.cores.get 0).copies.find? (fun x => x.id == 9) = some (cp0 [] []) ∧ s.clockRuns 0 = true ∧ (s.plots.get 1).resident = true
      ∧ (cpD.piece 0).2.2 ≠ 0 ∧ (cpD.piece 2).2.2 ≠ 0 ∧ ScratchAt s 1 (BitVec.ofNat 64 (cpD.piece 0).1) (cpD.piece 0).2.2 0x103
      ∧ ScratchAt s 1 (BitVec.ofNat 64 (cpD.piece 0).2.1) (cpD.piece 0).2.2 0x201
      ∧ ScratchAt s 1 (BitVec.ofNat 64 (cpD.piece 2).1) (cpD.piece 2).2.2 0x108
      ∧ ScratchAt s 1 (BitVec.ofNat 64 (cpD.piece 2).2.1) (cpD.piece 2).2.2 0x206
      ∧ CleanAt s 1 (cpD.piece 2).2.2 0x108 ∧ CleanAt s 1 (cpD.piece 2).2.2 0x206 ∧ (cp0 [] []).sent.get 2 = false)
    ∧ (let s := wCopy [(2, 1000)] [] none
       (cp0 [(2, 1000)] []).done.get 2 ≠ 0 ∧ (cp0 [(2, 1000)] []).done.get 2 ≤ s.time ∧ (cp0 [(2, 1000)] []).counted.get 2 = false
        ∧ (cpD.piece 2).2.2 ≤ objLeft s 1 0x300)
    ∧ ((∀ k ∈ cpD.pieces, (cp0 [] [(0, true), (1, true), (2, true)]).counted.get k = true) ∧ 1 ∈ cpD.pieces
      ∧ (cp0 [] [(0, true), (2, true)]).counted.get 1 = false)
    ∧ (((wCopy [] [] (some 0)).cores.get 0).copies = [cp0 [] []] ∧ ((wCopy [] [] (some 0)).plots.get 1).switching = some 0
      ∧ (0 : Nat) + 200000 ≤ ({ wCopy [] [] (some 0) with time := 200000 } : State).time ∧ (wCopy [] [] (some 0)).time < 0 + 200000)
    ∧ (let s := wStrmX 0x10100 124 900
       let m := st0 0x10100 124 900
       (s.cores.get 0).streams.get 2 = m ∧ (s.plots.get 1).resident = true ∧ (s.plots.get 1).switching = none ∧ s.clockRuns 0 = true
        ∧ m.next < m.ntile ∧ m.next < m.freed + m.nslot ∧ m.slots.get 1 = .ready ∧ m.pos % 128 ≠ 0
        ∧ s.engCheck (s.whoPlot 1) (s.askEngine (s.plots.get 1) 1 3) m.refused .read 0x101FC 4 2 = (s, .ok streamParts)
        ∧ (s.readParts 1 streamParts).length = 4 ∧ streamParts.all (fun b => decide (b.loc = .dev 0x101FC 0)) = true)
    ∧ (let s := wStrmX 0x20000 0 0
       let x := s.engCheck (s.whoPlot 1) (s.askEngine (s.plots.get 1) 1 3) [] .read 0x20080 4 2
       x = (x.1, .wait))
    ∧ ((wStrmX 0x10100 0 0).clockRuns 0 = true ∧ (st0 0x10100 0 0).posAt = 0 ∧ (wStrmX 0x10100 128 1000).time = 1000
      ∧ (st0 0x10100 128 1001).pos % 128 = 0 ∧ (wStrmX 0x10100 128 1001).time < 1001 ∧ 128 ≤ objLeft (wStrmX 0x10100 128 1000) 1 0x300
      ∧ (st0 0x10100 128 1000).pos = 128 * (st0 0x10100 128 1000).slotB)
    ∧ (let m := (wNoticed.cores.get 0).streams.get 2
       m.active = true ∧ ((List.range m.nslot).map (fun i => (m.freed + i) % m.nslot)).find? (fun k => m.slots.get k == .noticed) = some 1)
    ∧ (∀ sc ∈ [false, true], ∀ op ∈ [0, 1], let s := wGsX sc op [(0, 5)]
       (s.plots.get 1).gss.find? (fun g => g.seq == 4) = some (gs0 sc op [(0, 5)]) ∧ 1 < (gs0 sc op []).count ∧ (s.plots.get 1).resident = true
        ∧ (gs0 sc op [(0, 5)]).done.get 1 = 0 ∧ (s.plots.get 1).gsMay (gs0 sc op [(0, 5)]) 1 = true
        ∧ ScratchAt s 1 (0x1000000000000040 + BitVec.ofNat 64 (4 * 1)) 4 0x44 ∧ ScratchAt s 1 (0x10000000000000C0 + BitVec.ofNat 64 (4 * 1)) 4 0xC4
        ∧ leNat (scr s 1 0x44 4) = 3 ∧ ScratchAt s 1 (0x1000000000000080 + BitVec.ofNat 64 (3 * 4)) 4 0x8C
        ∧ CleanAt s 1 4 0x44 ∧ CleanAt s 1 4 0xC4 ∧ CleanAt s 1 4 0x8C ∧ (gs0 sc op [(0, 5)]).sent.get 1 = false ∧ 0x8C % 4 = 0)
    ∧ (let g := gs0 false 0 [(1, 1000)]
       g.done.get 1 ≠ 0 ∧ g.done.get 1 ≤ (wGsX false 0 [(1, 1000)]).time ∧ g.counted.get 1 = false ∧ g.esz ≤ objLeft (wGsX false 0 [(1, 1000)]) 1 g.bobj) := by
  simp only [ScratchAt, CleanAt]
  refine ⟨?_, ?_, ?_, ?_, ⟨?_, ?_, ?_, ?_, ?_, ?_, ?_, ?_, of_engOkB ?_, ?_, ?_⟩, of_engWaitB ?_, ?_, ?_, ?_, ?_⟩ <;> decide +kernel

/-! ### Statements met: events of the Trellis -/

/-- A loop of `add` and a branch back, at 0x1_0100 to 0x1_0104; at 0x1_0104 thread 1 waits for its placement. -/
def body0 (last : DWord) : Body := { (default : Body) with head := 0x10100, last := last, threads := [1] }
def wBody (last : DWord) (cs : List Cfg) : State :=
  { wT (fun t => { t with wait := .capture, hotHead := some 0x10100, pc := 0x10104 }) with
    mem := FMap.setMany [] 0x10100 (leBytes 4 0x01C50830 ++ leBytes 4 0xC5FFFFFF), bodies := [body0 last]
    grids := [(0, { (default : Grid) with cfgs := cs })] }
def wEnter (cs : List Cfg) : State := { wBody 0x10104 cs with bodies := [] }
def cap0 : Cfg :=
  { (default : Cfg) with
    captured := true, head := 0x10100, last := 0x10104, stage := .run, code := [(0, 0x01C50830, 0), (4, 0xC5FFFFFF, 0)], sites := [(0, 0), (0, 1)] }
/-- The core's clock at `n` cycles. -/
def clkAt (s : State) (n : Nat) : State := s.modDie 0 (fun d => { d with mcycles := 1000 * n })

/-- Configuration 5 of context 0: slot 2 of element 3 multiplies port 0 by constant 0; node 28 is an ingress tap and node 0 an address
generator that feed that slot; element 16 reduces. -/
def mulWord : DWord := 0x0401000041C00082
def el3 : Elem := { (default : Elem) with slots := FMap.set [] 2 mulWord, consts := FMap.set [] 0 0x40000000 }
def img5 : Image :=
  { (default : Image) with elems := [(3, el3)], edges := [(28, 2)], map := [BitVec.ofNat 64 (2 * 2 ^ 13 + 3 * 2 ^ 17), BitVec.ofNat 64 (4 + 2 * 2 ^ 13 + 3 * 2 ^ 17)] }
def redC : RedCfg := ⟨0, 2, 49, 1⟩
def red16 : Red := { (default : Red) with cfg := some redC, parts := FMap.set [] 0 [5], j := 1 }
def lay (op ext : Nat) : List Word := [0x10100, 0, 4, 0, 0, 0, BitVec.ofNat 32 (ext - 1), 0, 0, 0, BitVec.ofNat 32 (op + 8)]
def agen0 (op ext : Nat) : Agen := { (default : Agen) with active := true, colour := 2, tag := 7, layout := lay op ext, it := [0, 0, 0, 0] }
def cfg5 (st : CfgStage) (op : Nat) (buf : List DWord) (fin : Bool) : Cfg :=
  { (default : Cfg) with
    handle := 5, image := img5, stage := st, reds := FMap.set [] 16 red16, agens := FMap.set [] 0 (agen0 op 3)
    tapBuf := FMap.set [] 28 buf, tapEnd := FMap.set [] 28 fin }
def tkG (e : Nat) (edge null : Bool) (stop : Nat) : Tok :=
  { (default : Tok) with
    handle := 5, colour := 2, tag := 7, edge := edge, elem := e, slot := if edge then 0 else 2, width := 1, null := null, stop := stop, src := 64
    lanes := if stop = 0 then [0x40400000] else [] }
def wG (q : Cfg) (ts : List Tok) (os : List Opd) : State :=
  { w0 with grids := [(0, { (default : Grid) with cfgs := [q], toks := ts, arb := os })], mem := FMap.setMany [] 0x10100 [1, 2, 3, 4] }
def q5 : Cfg := cfg5 .run 0 [] false
def opd (sp : Bool) : Opd := ⟨tkG 3 false false 0, sp, 900⟩
def fnd5 : Found := [some (opd false, 0), none, none, none]

/-- A configuration like 5 whose slot 1 is complete too, with an operand that came earlier. -/
def q5b : Cfg :=
  { q5 with image := { img5 with elems := [(3, { el3 with slots := FMap.set [(1, mulWord)] 2 mulWord })] } }
def older : Opd := ⟨{ tkG 3 false false 0 with slot := 1 }, false, 800⟩

/-- The answers of a firing, of a slot, of a node's accesses and of a placement, evaluated. -/
def fireDone (x : FireRes) : Bool :=
  match x with
  | .done _ => true
  | _ => false
theorem of_fireDone {x : FireRes} (h : fireDone x = true) : ∃ s1, x = .done s1 := by
  cases x with
  | done s1 => exact ⟨s1, rfl⟩
  | wait s1 => exact absurd h Bool.false_ne_true
  | fault s1 c va => exact absurd h Bool.false_ne_true
def tryDone (x : Option ((Nat × Nat) × Nat × FireRes)) : Option ((Nat × Nat) × Nat) :=
  match x with
  | some (e, l, .done _) => some (e, l)
  | _ => none
theorem of_tryDone {x : Option ((Nat × Nat) × Nat × FireRes)} {e : Nat × Nat} {l : Nat} (h : tryDone x = some (e, l)) :
    ∃ s1, x = some (e, l, .done s1) := by
  unfold tryDone at h
  split at h
  · rename_i s1
    simp only [Option.some.injEq, Prod.mk.injEq] at h
    obtain ⟨rfl, rfl⟩ := h
    exact ⟨s1, rfl⟩
  · exact absurd h (by simp)
def nodeLs (x : State × NodeRes) : Option (List (List Word × Bool)) :=
  match x.2 with
  | .ok ls => some ls
  | _ => none
theorem of_nodeLs {x : State × NodeRes} {ls : List (List Word × Bool)} (h : nodeLs x = some ls) : x = (x.1, .ok ls) := by
  obtain ⟨s1, r⟩ := x
  cases r with
  | ok ks => simp only [nodeLs, Option.some.injEq] at h; subst h; rfl
  | wait => simp [nodeLs] at h
  | bad c va => simp [nodeLs] at h
def placedCfg (x : Placed) : Option (Option Cfg) :=
  match x with
  | .body q => some (some q)
  | .unread => some none
  | .broken => none

/-- Peloton 1 of thread 1, at tag 1 of the capture `cap0`, holding colour 15 of core 0. -/
def ck0 (n : Nat) : Ckpt := ⟨1, snap0, n⟩
def pel0 (d : Option Drain) : Pel :=
  { (default : Pel) with
    live := true, plot := 1, head := 0x10100, last := 0x10104, colour := 15, lanes := [1], tag := 1, ckpts := [(0, [ck0 0]), (1, [ck0 0])], drain := d }
def wPel (d : Option Drain) : State :=
  { clkAt (wT (fun t => { t with wait := .grid, pel := 1 })) 65536 with
    pels := [(1, pel0 d)], nextPel := 2, time := 10000000
    grids := [(0, { (default : Grid) with cfgs := [cap0], colours := FMap.set [] 15 ⟨true, 1, 0, 0, 15, 1⟩ })] }
def wPelRun : State := (wPel none).modThr 1 (fun t => { t with pc := 0x10100 })
/-- The same with the plot leaving; with the lane gone since iteration 0, the peloton at its iteration 1. -/
def wPelGo : State := (wPel none).modPlot 1 (fun p => { p with switching := some 900 })
def wPelLeft : State := (wPel none).modPel 1 (fun p => { p with open_ := 1, left := [(1, 0)], drain := some ⟨1, 0, some 1⟩ })
/-- The 132-byte image of a configuration without elements, at 0x1_0100, as alternative and as original of configuration 5. -/
def imgB : List Byte :=
  leBytes 4 1 ++ List.replicate 52 0 ++ leBytes 4 128 ++ leBytes 4 128 ++ leBytes 4 132 ++ leBytes 4 132 ++ leBytes 4 1
    ++ List.replicate 52 0 ++ leBytes 4 0
def cfgR (st : CfgStage) (ph : Nat) : Cfg :=
  { (default : Cfg) with
    handle := 5, addr := 0x10100, image := { (default : Image) with althalf := 0x10100, altqtr := 0x10100, elems := [(3, el3)] }, stage := st, phases := ph }
def wR (st : CfgStage) (ph : Nat) (os : List Opd) : State :=
  clkAt { wG (cfgR st ph) [] os with mem := FMap.setMany [] 0x10100 imgB } (2 ^ 24)
def circ0 : Circ := ⟨31, 1279, 5, 0, 0⟩
/-- A token that element 4 sends to element 3 over switches that are off; one that tap 31 sends to configuration 5 of core 1. -/
def far : Tok := { tkG 3 false false 0 with src := 4 }
def outTok : Tok := { tkG 31 true false 0 with core := 1, route := some (BitVec.ofNat 64 (5 * 2 ^ 44)) }
def wTap : State :=
  { wG q5 [outTok] [] with
    grids := [(0, { (default : Grid) with cfgs := [q5], toks := [outTok] }), (1, { (default : Grid) with cfgs := [q5] })]
    dies := FMap.set [] 0 { (default : Die) with held := [(0, some { (default : Desc) with vd := [0x80] })] } }
def wCirc (n : Nat) : State := clkAt { w0 with grids := [(0, { (default : Grid) with circuits := [circ0] })] } n
def wKickG (st : Bool) : State :=
  { wG q5 [tkG 3 false false 0] [opd false] with
    grids := [(0, { (default : Grid) with cfgs := [q5], toks := [tkG 3 false false 0], kick := { (default : Kick) with stop := st, hsel := 1023 } })] }
def wHang (n : Nat) : State := clkAt (wG q5 [tkG 3 false false 0] []) n

theorem witness_TrellisEvents :
    (let i : Instr := .fmul ⟨7, 0, 0, 8, false, 0⟩
     (∀ q ∈ [q5, q5b], let s := wG q [] [opd false]
        (s.grids.get 0).cfgs[0]? = some q ∧ q.open_ 3 2 = true ∧ s.gridRuns 0 = true ∧ slotInstr (slotOpw mulWord) = some i
        ∧ (s.grids.get 0).found q i (slotPm mulWord) 3 2 2 7 = some fnd5
        ∧ fireDone (fireBody i ⟨0, q⟩ ((s.grids.get 0).mkFiring q 0 3 2 2 7 mulWord fnd5) s) = true
        ∧ (s.elemTries 0 3).all (fun r => r.2.2.stalls || decide (fnd5.last < r.1) || (decide (fnd5.last = r.1) && decide (2 ≤ r.2.1))) = true)
      ∧ (let s := wG q5b [] [opd false, older]
         (s.grids.get 0).found q5b i (slotPm mulWord) 3 2 2 7 = some fnd5 ∧ (s.elemTries 0 3).any (fun r => !r.2.2.stalls && decide (r.1 < fnd5.last)) = true))
    ∧ (∃ s1, wPelRun.pelTry (wPelRun.pelAt 0 15) = some ((0, 0), 0, .done s1))
    ∧ (wPelRun.gridRuns 0 = true ∧ wPelRun.elemTries 0 0 ≠ [])
    ∧ (∀ e ∈ [(3, false, false, 0), (16, true, false, 0), (16, true, false, 2), (23, true, true, 0), (16, true, false, 1), (24, true, false, 0),
        (27, true, false, 3), (15, true, false, 0)],
      let t := tkG e.1 e.2.1 e.2.2.1 e.2.2.2
      Arrives (wG q5 [t] []) 0 0 t q5 ∧ (e.2.1 = false → q5.brings t = true))
    ∧ (Arrives (wG q5 [far] []) 0 0 far q5 ∧ q5.brings far = false)
    ∧ (((wG q5 [tkG 3 false false 0] []).grids.get 0).arbAt 3 < 64
      ∧ 64 ≤ ((wG q5 [tkG 3 false false 0] (List.replicate 64 (opd false))).grids.get 0).arbAt 3
      ∧ ((wG q5 [tkG 3 false false 0] (List.replicate 64 (opd false))).grids.get 0).spilt 0 < 7281
      ∧ Arrives (wG q5 [tkG 3 false false 0] (List.replicate 64 (opd false))) 0 0 (tkG 3 false false 0) q5)
    ∧ (let g := (wG q5 [tkG 3 false false 0] (List.replicate 64 (opd false) ++ List.replicate 7281 (opd true))).grids.get 0
       64 ≤ g.arbAt 3 ∧ 7281 ≤ g.spilt 0)
    ∧ (let r : DWord := BitVec.ofNat 64 (5 * 2 ^ 44)
       Arrives wTap 0 0 outTok q5 ∧ outTok.route.getD 0 = r ∧ r.toNat / 2 ^ 23 % 2 ^ 9 = 0 ∧ routeRemote r = false
        ∧ wTap.boundDie (wTap.desc 0 (routeCtx r)).vd (routeVdie r) = some (0, 0) ∧ wTap.routeEnd 0 1 (routeCtx r) (routeHandle r) = some (1, 3, 2))
    ∧ ((q5.reds.get 16).cfg = some redC ∧ redC.level ≤ 2 ∧ 1 < redC.level ∧ ((tkG 24 true false 0).adapt (q5.wads.get 24)).1.length = 1)
    ∧ (∀ op ∈ [0, 2, 3], let q := cfg5 .run op [] false
       let s := wG q [] []
       named s 0 5 = some q ∧ s.gridRuns 0 = true ∧ q.stage = .run ∧ (q.agens.get 0).active = true ∧ q.memSlot 0 = some (3, 2)
        ∧ (s.grids.get 0).grant q 2 = none ∧ 1 = min 1 ((q.agens.get 0).extent 0 - (q.agens.get 0).idx 0) ∧ (q.agens.get 0).bad = false
        ∧ (q.agens.get 0).op = op)
    ∧ (let q := cfg5 .run 0 [] false
       let s := wG q [] []
       let a := q.agens.get 0
       let x := s.nodeAccess ⟨0, q⟩ (a.spot 0) ((List.range 1).map (fun k => ⟨a.addr (a.idx 0 + k), .load .none a.size false false⟩))
       x = (x.1, .ok [([0x04030201], false)]) ∧ x.1.grids = s.grids)
    ∧ ((cfg5 .run 0 [7] false).tapSlot 28 = some (3, 2) ∧ 1 ≤ ((cfg5 .run 0 [7] false).tapBuf.get 28).length
      ∧ (cfg5 .run 0 [7] false).tapEnd.get 28 = false ∧ (cfg5 .run 0 [7] true).tapEnd.get 28 = true
      ∧ named (wG (cfg5 .run 0 [7] true) [] []) 0 5 = some (cfg5 .run 0 [7] true))
    ∧ ((wCirc 0).gridRuns 0 = true ∧ (∀ q ∈ ((wCirc 0).grids.get 0).circuits, q.node ≠ 30 ∨ q.dst ≠ 1279) ∧ 31 < 32 ∧ 1279 < 1280
      ∧ ((wCirc 0).grids.get 0).circuits[0]? = some circ0 ∧ 0 + 16000 * (0 + 1) ≤ (wCirc 16).clk 0 ∧ (wCirc 15).clk 0 < 0 + 16000 * (0 + 1)) := by
  simp only [Arrives, named]
  refine ⟨?_, of_tryDone ?_, ?_, ?_, ?_, ?_, ?_, ?_, ?_, ?_, ⟨of_nodeLs ?_, ?_⟩, ?_, ?_⟩ <;> decide +kernel

/-- A body whose words lie in no mapped page; threads that wait where no lane is free. -/
def bodyFar : Body := { (default : Body) with head := 0x30100, last := 0x30104, threads := [1] }
def wNoLane : State :=
  { wEnter [cap0] with grids := [(0, { (default : Grid) with cfgs := [cap0], colours := FMap.set [] 0 { (default : Colour) with taken := true, grant := 128 } })] }

theorem witness_TrellisRegionEvents :
    ((wBody 0x10104 []).gridRuns 0 = true ∧ (wBody 0x10104 []).bodies.find? (fun b => b.core == 0 && b.ctx == 0 && b.head == 0x10100) = some (body0 0x10104)
      ∧ (match placedCfg (({ wBody 0x10104 [] with bodies := [] } : State).captureCfg (body0 0x10104)) with
        | some (some q) => (((wBody 0x10104 []).grids.get 0).place q).isSome && (((wBody 0x10104 (List.replicate 4 default)).grids.get 0).place q).isNone
        | _ => false) = true
      ∧ placedCfg (w0.captureCfg bodyFar) = some none
      ∧ placedCfg (({ wBody 0x10100 [] with bodies := [] } : State).captureCfg (body0 0x10100)) = none
      ∧ ((wBody 0x10104 []).thr 1).wait = .capture)
    ∧ ((wEnter []).entrantGroup 0 0 0x10100 = [1] ∧ ((wEnter []).grids.get 0).captureOf 0 0x10100 = none
      ∧ (wEnter [cap0]).entrantGroup 0 0 0x10100 = [1] ∧ ((wEnter [cap0]).grids.get 0).captureOf 0 0x10100 = some cap0
      ∧ ((wEnter [cap0]).thr 1).mayEnter = true ∧ ((wEnter [cap0]).grids.get 0).pickColour = some 15
      ∧ ((wEnter [cap0]).plots.get 1).switching = none ∧ cap0.stage = .run ∧ 1 ≤ ((wEnter [cap0]).grids.get 0).freeLanes
      ∧ ((wEnter [cap0]).thr 1).inFlight = false
      ∧ wNoLane.entrantGroup 0 0 0x10100 = [1] ∧ (wNoLane.grids.get 0).freeLanes = 0 ∧ (wNoLane.grids.get 0).pickColour = some 15)
    ∧ ((∀ d ∈ [none, some ⟨0, 0, none⟩, some ⟨0, 0, some 0⟩], PelHere (wPel d) 0 15 ∧ (wPel d).pelAt 0 15 = 1 ∧ (wPel d).pel 1 = pel0 d)
      ∧ (pel0 none).mayClose = true ∧ ((wPel none).grids.get 0).captureOf 0 0x10100 = some cap0 ∧ (pel0 none).open_ < (pel0 none).tag
      ∧ (pel0 none).left = [] ∧ (pel0 none).lanes = [1]
      ∧ (wPelGo.plots.get 1).switching = some 900 ∧ wPelGo.pel 1 = pel0 none ∧ PelHere wPelGo 0 15 ∧ ((wPel none).plots.get 1).switching = none
      ∧ 0 ≤ (pel0 none).open_ ∧ 0 + 65536000 ≤ (wPel none).clk 0 ∧ ((wPel none).thr 1).scrOwed = false
      ∧ (pel0 none).ckpts.get 0 = [ck0 0] ∧ PelHere wPelLeft 0 15 ∧ (wPelLeft.pel 1).left = [(1, 0)] ∧ (wPelLeft.pel 1).drain = some ⟨1, 0, some 1⟩
      ∧ 1 ≤ (wPelLeft.pel 1).open_ ∧ 1 ≤ (wPelLeft.pel 1).tag ∧ (wPelLeft.pel 1).lanes = [1])
    ∧ (∀ st ∈ [CfgStage.run, .halted true, .halted false, .clearing, .dropping], named (wR st 0 []) 0 5 = some (cfgR st 0) ∧ (wR st 0 []).gridRuns 0 = true
      ∧ (cfgR st 0).hung = false ∧ (cfgR st 0).faults = [] ∧ ((wR st 0 []).grids.get 0).occupied (cfgR st 0) = false
      ∧ ((wR st 0 [opd false]).grids.get 0).occupied (cfgR st 0) = true)
    ∧ ((cfgR .run 0).image.althalf ≠ 0 ∧ (cfgR .run 0).image.altqtr ≠ 0 ∧ (cfgR .run 2).addr ≠ 0 ∧ named (wR .run 2 []) 0 5 = some (cfgR .run 2))
    ∧ (let s := wR (.halted true) 0 []
       let q := cfgR (.halted true) 0
       let x := s.cfgImage ⟨0, q⟩ 0x10100
       x.2 = some imgB ∧ x.1.grids = s.grids ∧ (x.1.withImage 0 q imgB 2 (keptBy false)).isSome = true ∧ (x.1.withImage 0 q imgB 4 (keptBy true)).isSome = true)
    ∧ (named (wR .run 4 []) 0 5 = some (cfgR .run 4) ∧ 3 ∈ (cfgR .run 4).image.elems.keys ∧ (cfgR .run 4).phaseSince.get 3 + 256000 ≤ (wR .run 4 []).clk 0)
    ∧ (let s := wR (.halted false) 0 []
       let q := cfgR (.halted false) 0
       let x := s.cfgImage ⟨0, q⟩ q.addr
       x.2 = some imgB ∧ 128 ≤ imgB.length
        ∧ (let y := x.1.nodeAccess ⟨0, q⟩ Site.imageSpot [⟨0x10200, .store (q.savedImage (s.grids.get 0) imgB) none⟩]
           y = (y.1, .ok [([], false)])))
    ∧ (let s := wHang (2 ^ 24)
       (s.grids.get 0).placeNamed 5 = some 0 ∧ s.tokenOf 0 q5 = some (tkG 3 false false 0) ∧ q5.hung = false ∧ s.gridRuns 0 = true
        ∧ (s.grids.get 0).cfgs.getD 0 default = q5 ∧ q5.lastFire + 1000 * 2 ^ 24 ≤ s.clk 0 ∧ (wHang 0).clk 0 < q5.lastFire + 1000 * 2 ^ 24)
    ∧ ((wKickG false).gridCore 0 = true ∧ ((wKickG false).grids.get 0).kick.stop = false ∧ ((wKickG true).grids.get 0).kick.stop = true
      ∧ ((wKickG false).grids.get 0).kick.hsel < 1024) := by
  simp only [PelHere, named]
  refine ⟨?_, ?_, ?_, ?_, ?_, ?_, ?_, ⟨?_, ?_, of_nodeLs ?_⟩, ?_, ?_⟩ <;> decide +kernel

/-! ### Statements met: events of the package -/

/-- Pavilion 3 with ring `n` as given, at device time `t`. -/
def wRing14 (n : Nat) (r : Ring) (b : RBank) (t : Nat) : State :=
  { w0 with pavs := [(3, { (default : Pav) with rings := FMap.set [] n r, banks := FMap.set [] (n / 16) b })], time := t }
def rLock : Ring := { (default : Ring) with lock := true }
def unitOf (k : Nat) : UnitId := ⟨k, 7, 150, 0⟩
def wTest (u : UnitId) (n : Nat) : State :=
  w0.modDie u.die (fun d => { d with tests := List.replicate n (u.kind, u.idx, 1000) })

theorem witness_PavilionAndErrorEvents :
    (3 < 4 ∧ (w0.pavs.get 3).started = false)
    ∧ (1023 < 1024 ∧ (0x1FFF : Word).getLsbD 12 = true ∧ (0xFFF : Word).getLsbD 12 = false
      ∧ (((wRing14 1023 { (default : Ring) with acq := true } default 0).pavs.get 3).rings.get 1023).acq = true
      ∧ (((wRing14 1023 rLock default 0).pavs.get 3).rings.get 1023).acq = false ∧ 1022 % 16 ≠ 15
      ∧ (((wRing14 1022 rLock default 0).pavs.get 3).rings.get 1022).off = false
      ∧ (((wRing14 1022 rLock default 0).pavs.get 3).banks.get (1022 / 16)).moved = false ∧ 4095 < 4096)
    ∧ (rLock.acq = false ∧ rLock.off = false ∧ rLock.lock = true ∧ (((9 : Word).setWidth 16).toInt : Int) > 8
      ∧ (((0xFFF7 : Word).setWidth 16).toInt : Int) < -8 ∧ (default : Ring).lock = false ∧ (((0xFFF8 : Word).setWidth 16).toInt : Int) = -8)
    ∧ (63 < 64 ∧ ((wRing14 1023 default default 0).pavs.get 3).acqBank 63 = false ∧ 14 < 15
      ∧ (({ (default : RBank) with suben := true }).suben = true)
      ∧ ¬ 14 ∈ (((wRing14 1022 default default 10000).pavs.get 3).banks.get 63).down
      ∧ (((wRing14 1022 default default 10000).pavs.get 3).carrier 63 14).lock = false
      ∧ (((wRing14 1022 default default 10000).pavs.get 3).carrier 63 14).since + 10000 ≤ 10000
      ∧ 14 ∈ (((wRing14 1022 rLock { (default : RBank) with down := [3, 14] } 10000).pavs.get 3).banks.get 63).down
      ∧ (((wRing14 1022 rLock { (default : RBank) with down := [3, 14] } 10000).pavs.get 3).carrier 63 14).lock = true)
    ∧ (w0.fabricTime = none ∧ ({ w0 with fabricTime := some 5 } : State).fabricTime = some 5)
    ∧ (∀ k ∈ [1, 3, 5, 7], let u := unitOf k
       (u.kind, u.idx, (wTest u 1).time) ∈ ((wTest u 1).dies.get u.die).tests
        ∧ (∀ t ∈ ((wTest u 1).dies.get u.die).tests, t = (u.kind, u.idx, (wTest u 1).time)) ∧ (wTest u 1).ctxsAt (· == 160 * u.die + u.idx % 160) = []) := by
  refine ⟨?_, ?_, ?_, ?_, ?_, ?_⟩ <;> decide +kernel

/-- Launch 1 of context 0 as PLIMID names it, with 100 µJ debited; a measure of 30 µJ of context 0. -/
def wPlim : State :=
  { w0 with
    launches := [(1, { (default : Launch) with stage := .placed, id := 1, record := List.replicate 128 0, debit := 100 })]
    ctxs := FMap.set [] 0 { (default : Ctx) with pannier := 30 }, energy := { w0.energy with plimid := 0x100000000, pwin := 10, prsv := 50 } }
def meas0 : Measure := ⟨[(0, 30), (1, 9)], 5, 7, 8, [(0, 1, 3)], []⟩
/-- Die 7 in a stage, with nothing on it. -/
def wDie (st : DieStage) (n : Nat) : State :=
  { w0 with dies := FMap.set w0.dies 7 { (default : Die) with stage := st, cols := n, weight := [(5, 1)], opNext := some 7 }, mem := [(5, 6)], lineKey := [(0, 3)] }

theorem witness_DieAndEnergyEvents :
    ((wPlim.launches.get (launchKey (wPlim.energy.plimid.toNat % 4096) (wPlim.energy.plimid.toNat / 2 ^ 32))).live = true
      ∧ (wPlim.launches.get 1).record.length = 128 ∧ launchKey (wPlim.energy.plimid.toNat % 4096) (wPlim.energy.plimid.toNat / 2 ^ 32) = 1
      ∧ windowLaunches meas0 = [1] ∧ (windowDebit meas0 (fun q => q / 2 ^ 32 == 0) : Int) ≤ (wPlim.ctxs.get 0).pannier ∧ (wPlim.launches.get 1).live = true)
    ∧ (((wDie .up 0).dies.get 7).opNext = some 7 ∧ (7 : Nat) < 8 ∧ (wDie .up 0).mayGate 7 = true)
    ∧ (((wDie .gated 0).dies.get 7).stage = .gated ∧ ((wDie .gated 0).dies.get 7).disabled = false)
    ∧ (((wDie (.waking 1000) 19).dies.get 7).stage = .waking 1000 ∧ (wDie (.waking 1000) 19).time = 1000
      ∧ ((wDie (.waking 1001) 0).dies.get 7).stage = .waking 1001)
    ∧ (((wDie (.draining 1000) 0).dies.get 7).stage = .draining 1000 ∧ (wDie (.draining 1000) 0).dieQuiet 7 = true
      ∧ ((w0.modDie 0 (fun d => { d with stage := .draining 1000 })).dies.get 0).stage = .draining 1000
      ∧ (w0.modDie 0 (fun d => { d with stage := .draining 1000 })).dieQuiet 0 = false
      ∧ ((wDie (.draining 1001) 0).dies.get 7).stage = .draining 1001 ∧ (wDie (.draining 1001) 0).time < 1001)
    ∧ ((wDie .resetting 0).dies.get 7).stage = .resetting ∧ (0 < 8191 ∧ 8191 < 8192) := by
  decide +kernel

/-! ### Statements met: the Tarnil fabric -/

/-- A packet of package 9 for this package. -/
def pk (typ off size : Nat) (data : List Byte) : Packet :=
  { (default : Packet) with typ := typ, src := 9, dst := Config.packageId.toNat, tag := 4, offset := off, size := size, data := data }
/-- Context 0 is admitted here (or not), its virtual die 0 is die 0; package 9 lies over link 127. -/
def wTar (root : Bool) : State :=
  { w0 with
    dies := FMap.set [] 0 { (default : Die) with tlb := [placedPage], held := [(0, some { (default : Desc) with root := if root then 1 else 0, vd := [0x80] })] }
    routes := [(9, 128)] }
def rq (k : RemKind) : RemReq := ⟨4, 9, 1, k, 0, false, default⟩
def wReq (k : RemKind) : State :=
  { wTar true with
    remReqs := [rq k]
    threads := FMap.set [] 1 { th0 with
      loads := [{ (default : Load) with parts := [⟨.rem 9 0x40, 0, 4, none⟩] }]
      stores := [{ (default : Held) with seq := 1, loc := .rem 9 0x40, len := 4, op := .amo .add 1 0 10 snap0, sent := true }] } }
def fc (out : Bool) (left : Nat) : FabCirc := ⟨out, 9, 0, 4, 0x10100, left, 0⟩
def wFab (out : Bool) (left : Nat) : State := { wTar true with fabCircs := [fc out left] }

theorem comes {s : State} {typ : Nat} {q : Packet} (h1 : q.typ = typ) (h2 : q.dst = Config.packageId.toNat)
    (h3 : (!(s.links.get (s.backLink q)).down && !(s.links.get (s.backLink q)).retraining) = true) (h4 : q.rsvd = false) : Comes s typ q := by
  refine ⟨?_, h4⟩
  unfold State.takes
  rw [h1, h2, beq_self_eq_true, beq_self_eq_true, Bool.true_and, Bool.true_and]
  exact h3

/-- The answers of a packet's check, evaluated. -/
def pkOkB (x : State × PkChk) (s : State) (ps : List Part) : Bool :=
  match x with
  | (s1, .ok qs) => decide (s1 = s) && decide (qs = ps)
  | _ => false
theorem of_pkOkB {x : State × PkChk} {s : State} {ps : List Part} (h : pkOkB x s ps = true) : x = (s, .ok ps) := by
  unfold pkOkB at h
  split at h
  · simp only [Bool.and_eq_true, decide_eq_true_eq] at h
    obtain ⟨rfl, rfl⟩ := h; rfl
  · exact absurd h (by decide)
def pkNo (x : State × PkChk) (k : Nat) : Bool :=
  match x with
  | (_, .refuse j) => j == k
  | _ => false
theorem of_pkNo {x : State × PkChk} {k : Nat} (h : pkNo x k = true) : x = (x.1, .refuse k) := by
  unfold pkNo at h
  split at h
  · rw [eq_of_beq h]
  · exact absurd h (by decide)

theorem witness_TarnilEvents :
    (∀ e ∈ [0, 1, 2, 3, 4, 5, 6, 7, 8, 9], Comes (wReq (.amo 1)) e (pk e 0x10100 3 [1, 2, 3, 4]))
    ∧ (∀ e ∈ [0, 2], ∀ root ∈ [false, true], Comes (wTar root) e (pk e 0x10100 3 (leBytes 8 5)))
    ∧ ((received (wTar true) (pk 0 0x10100 3 [])).packetCheck (pk 0 0x10100 3 []) .read 0x10100 8
        = (received (wTar true) (pk 0 0x10100 3 []), .ok [⟨.dev 0x10100 0, 0, 8, none⟩]))
    ∧ ((received (wTar true) (pk 2 0x10100 3 [])).packetCheck (pk 2 0x10100 3 []) .write 0x10100 8
        = (received (wTar true) (pk 2 0x10100 3 []), .ok [⟨.dev 0x10100 0, 0, 8, none⟩]))
    ∧ (∃ s1, (received (wTar false) (pk 2 0x10100 3 [])).packetCheck (pk 2 0x10100 3 []) .write 0x10100 8 = (s1, .refuse 2))
    ∧ ((received (wTar true) (pk 3 0x10100 2 [])).packetCheck (pk 3 0x10100 2 []) .atomic 0x10100 4
        = (received (wTar true) (pk 3 0x10100 2 []), .ok [⟨.dev 0x10100 0, 0, 4, none⟩]))
    ∧ ((wTar false).admits 0 = false ∧ (wTar true).admits 0 = true ∧ aopOf (pk 3 0x10100 2 []).aop = some .add ∧ 0x10100 % 4 = 0)
    ∧ (∀ k ∈ [RemKind.load 0 0, .amo 1, .fetch (.seqRead 1) 0x40 4, .addTo (.seqRead 1) 0x40], requestOf (wReq k) (pk 1 0 2 []) = some (rq k) ∧ (rq k).late = false
      ∧ (wReq k).remReqs.filter (fun k => k.tag == 4 && k.pkg == 9) = [rq k])
    ∧ (((wReq (.amo 1)).thr 1).stores.find? (fun h => h.seq == 1)).isSome = true
    ∧ (let s := { wFed 2 .run with dies := (wTar true).dies }
       (pk 5 0x50 0 []).offset / 2 ^ 24 = 0 ∧ s.boundDie (s.desc 0 0).vd (0x50 % 16) = some (0, 0) ∧ s.routeEnd 0 (tokOf (pk 5 0x50 0 []).data).core 0 (0x50 / 16 % 2 ^ 20) = some (0, 3, 2))
    ∧ (∀ left ∈ [1, 2], (wFab false left).fabCircs = [fc false left] ∧ (fc false left).outward = false ∧ (fc false left).peer = 9
      ∧ (fc false left).tag = 4)
    ∧ ((received (wFab false 1) (pk 7 0 3 (leBytes 8 5))).packetCheck { pk 7 0 3 (leBytes 8 5) with ctx := 0 } .write 0x10100 8
        = (received (wFab false 1) (pk 7 0 3 (leBytes 8 5)), .ok [⟨.dev 0x10100 0, 0, 8, none⟩]))
    ∧ ((wFab true 1).fabCircs[0]? = some (fc true 1) ∧ 0 + 4096000 ≤ ({ wFab true 1 with time := 3151 } : State).clk 1280)
    ∧ (127 < 128 ∧ ((wTar true).links.get 127).down = false ∧ ((wTar true).links.get 127).retraining = false
      ∧ 16 ≤ (((wTar true).modLink 127 (fun l => { l with replays := 16 })).links.get 127).replays
      ∧ (((wTar true).modLink 127 (fun l => { l with retraining := true })).links.get 127).retraining = true
      ∧ (∀ r ∈ (wReq (.amo 1)).remReqs, (wReq (.amo 1)).linkTo r.pkg ≠ some 126))
    ∧ ((wReq (.amo 1)).remReqs.find? (fun r => r.tag == 4 && !r.late) = some (rq (.amo 1)) ∧ (wReq (.amo 1)).time < 0 + 10000000
      ∧ 0 + 10000000 ≤ ({ wReq (.amo 1) with time := 10000000 } : State).time) := by
  refine ⟨?_, ?_, of_pkOkB ?_, of_pkOkB ?_, ⟨_, of_pkNo ?_⟩, of_pkOkB ?_, ?_, ?_, ?_, ?_, ?_, of_pkOkB ?_, ?_, ?_, ?_⟩
  · intro e _; exact comes rfl rfl rfl rfl
  · intro e _ root _; cases root <;> exact comes rfl rfl rfl rfl
  all_goals decide +kernel

/-! ### Statements met: words and steps -/

/-- The word `w` where thread 1 fetches, its turn next; and where the sequencer of plot 1 does. -/
def wTurn (w : Nat) (a : List Turn) : State := { w0 with mem := FMap.setMany [] 0x10000 (leBytes 4 w), agenda := a }
def fire0 : Firing := ⟨0, 3, 2, 0xE9C00400, 2, 7, 1, [some { (default : Tok) with width := 1, lanes := [1] }, none, none, none]⟩

/-- What an outcome says, evaluated. -/
def goesB (o : Host.Outcome State Fault Refusal) : Bool :=
  match o with
  | .next _ => true
  | _ => false
theorem of_goesB {o : Host.Outcome State Fault Refusal} (h : goesB o = true) : ∃ s', o = .next s' := by
  cases o with
  | next s' => exact ⟨s', rfl⟩
  | fault r => exact absurd h Bool.false_ne_true
  | refused r => exact absurd h Bool.false_ne_true

def fetchedB (x : Fetched) (w : Word) : Bool :=
  match x with
  | .word v => decide (v = w)
  | _ => false
theorem of_fetchedB {x : Fetched} {w : Word} (h : fetchedB x w = true) : x = .word w := by
  cases x with
  | word v => exact congrArg _ (of_decide_eq_true h)
  | miss va => exact absurd h Bool.false_ne_true
  | bad c => exact absurd h Bool.false_ne_true
def turns : List (List Turn) := [[.thread 1], [.thread 1, .wait 5], [.peloton [1]]]
def restOf (a : List Turn) : List Turn := if a.length = 2 then [.wait 5] else []

theorem witness_StepRunsTheDecodedInstruction :
    (∀ a ∈ turns, ∀ w ∈ [0x01C50830, 0xE8000000, 0xD5C4FC02], (wTurn w a).canTurn 1 = true ∧ hasLiteral (BitVec.ofNat 32 w) = false)
    ∧ (∀ a ∈ turns, ∀ w ∈ [0x01C50830, 0xE8000000, 0xD5C4FC02], let s1 := threadTurn (wTurn w a) 1 (restOf a)
       s1.fetch (s1.who (me s1)) (me s1).pc = .word (BitVec.ofNat 32 w))
    ∧ decodeIn .thread 0xD5C4FC02 0 = .error .field
    ∧ decodeIn .thread 0x01C50830 0 = .ok (.add ⟨7, 5, 2, 3, false, 0⟩) ∧ decodeIn .thread 0xE8000000 0 = .error .op
    ∧ (∃ s', exec (.add ⟨7, 5, 2, 3, false, 0⟩) (threadTurn (wTurn 0x01C50830 [.thread 1]) 1 []) = .next s')
    ∧ (∃ s', exec .illegalOp (threadTurn (wTurn 0xE8000000 [.thread 1]) 1 []) = .next s')
    ∧ (let s := { wTurn 0x22000000 [.seq 1] with curPlot := 1 }
       let s1 : State := { s with agenda := [], curPlot := 1 }
       s.canSeq 1 = true ∧ s1.check (s1.whoSeq 1) .fetch (s.plots.get 1).seq.pc 4 = .ok [⟨.dev 0x10000 0, 0, 4, none⟩]
        ∧ s1.fetch (s1.whoSeq 1) (s.plots.get 1).seq.pc = .word 0x22000000)
    ∧ decodeIn .cadence 0x22000000 0 = .ok .kend
    ∧ ((wTurn 0 [.fire 0 fire0]).agenda = [.fire 0 fire0] ∧ decodeIn .trellis (slotOpw fire0.word) 0 = .ok (.calloc 1))
    ∧ ((wTurn 0 [.event (.platformMessage 0)]).agenda = [.event (.platformMessage 0)] ∧ encode (.platformMessage 0) = []) := by
  refine ⟨?_, fun a ha w hw => of_fetchedB ?_, ?_, ?_, ?_, of_goesB ?_, of_goesB ?_, ⟨?_, ?_, of_fetchedB ?_⟩, ?_, ?_, ?_⟩
  case refine_2 =>
    have h : (turns.all fun a => [0x01C50830, 0xE8000000, 0xD5C4FC02].all fun w =>
        let s1 := threadTurn (wTurn w a) 1 (restOf a)
        fetchedB (s1.fetch (s1.who (me s1)) (me s1).pc) (BitVec.ofNat 32 w)) = true := by decide +kernel
    exact List.all_eq_true.mp (List.all_eq_true.mp h a ha) w hw
  all_goals decide +kernel

/-! ### Statements met: encodings, invariants and steps in general -/

noncomputable def encSamples : List (Instr × List Word × Stream) :=
  [(.add ⟨7, 5, 2, 3, false, 0⟩, [0x01C50830], .thread), (.add ⟨7, 5, 63, 3, false, 0xDEADBEEF⟩, [0x01C5FC30, 0xDEADBEEF], .thread),
   (.kmovi 10 256, [0x1D480100], .cadence), (.calloc 1, [0xE9C00400], .trellis)]

theorem witness_DecodeAfterEncode : ∀ e ∈ encSamples, e.1.wellFormed = true ∧ encode e.1 = e.2.1 ∧ streamIn e.1 = e.2.2 := by
  decide +kernel

theorem witness_EncodeAfterDecode :
    ∀ e ∈ encSamples, ∃ w ∈ e.2.1.head?, decodeIn e.2.2 w ((e.2.1.drop 1).headD 0) = .ok e.1 := by
  intro e he
  have h : ∀ e ∈ encSamples, decodeIn e.2.2 (e.2.1.headD 0) ((e.2.1.drop 1).headD 0) = .ok e.1 ∧ e.2.1.head? = some (e.2.1.headD 0) := by
    decide +kernel
  exact ⟨_, (h e he).2, (h e he).1⟩

/-- The memory with a word in it keeps its form, and a step at it answers a next state. -/
theorem witness_StepKeepsMemoryForm :
    (wTurn 0x01C50830 [.thread 1]).MemOk ∧ ∃ s', step (wTurn 0x01C50830 [.thread 1]) = .next s' := by
  refine ⟨?_, of_goesB ?_⟩
  · unfold State.MemOk
    refine ⟨?_, ?_⟩ <;> decide +kernel
  · decide +kernel

theorem witness_StepAnswersNext :
    ∀ s ∈ [State.reset, wTurn 0xE8000000 [.thread 1], wTurn 0 [.event (.platformMessage 0)]],
      ∀ rest, s.agenda ≠ .event .illegalOp :: rest ∧ s.agenda ≠ .event .cadenceIllegalOp :: rest := by
  intro s hs rest
  simp only [List.mem_cons, List.not_mem_nil, or_false] at hs
  obtain rfl | rfl | rfl := hs <;> exact ⟨fun h => by simp [wTurn, State.reset] at h, fun h => by simp [wTurn, State.reset] at h⟩

/-! ### Ill-formed terms, one for each check, each refused -/

theorem test_guard_15_and_destinations_refused :
    ∀ i ∈ [Instr.add ⟨15, 5, 2, 3, false, 0⟩, .add ⟨7, 60, 2, 3, false, 0⟩, .add ⟨7, 61, 2, 3, false, 0⟩, .add ⟨7, 63, 2, 3, false, 0⟩,
      .add ⟨7, 5, 2, 3, true, 0⟩, .addD ⟨7, 5, 2, 4, false, 0⟩, .mulwU ⟨7, 7, 2, 4, false, 0⟩, .fma ⟨7, 63, 2, 3, false, 0⟩],
      i.wellFormed = false := by decide +kernel

theorem test_source_registers_refused :
    ∀ i ∈ [Instr.addD ⟨7, 6, 3, 4, false, 0⟩, .addD ⟨7, 6, 2, 5, false, 0⟩, .redAdd ⟨7, 5, 60, false, 0⟩, .shflIdx ⟨7, 5, 2, 61, false, 0⟩,
      .smxFin ⟨7, 5, 2, 3, false, 0⟩, .vmxE4 ⟨10, 3, 20, 62, 0, 0⟩, .add ⟨7, 5, 2, 3, false, 1⟩], i.wellFormed = false := by decide +kernel

theorem test_register_groups_refused :
    ∀ i ∈ [Instr.npkE2m1 ⟨7, 9, 14, 20, false, 0⟩, .npkE4m3 ⟨7, 9, 18, 20, false, 0⟩, .npkE3m2 ⟨7, 9, 56, 20, false, 0⟩,
      .npkE2m1 ⟨7, 9, 52, 20, false, 0⟩, .nupE4m3 ⟨7, 13, 4, 20, false, 0⟩, .nupE3m2 ⟨7, 58, 4, 20, false, 0⟩,
      .nupE2m1 ⟨7, 14, 4, 20, false, 0⟩, .qntF4 ⟨7, 20, 4, 24, false, 0⟩, .qntF4 ⟨7, 20, 56, 24, false, 0⟩,
      .qntF4o ⟨7, 20, 8, 26, false, 0⟩, .qntF4o ⟨7, 20, 8, 60, false, 0⟩], i.wellFormed = false := by decide +kernel

theorem test_memory_fields_refused :
    ∀ i ∈ [Instr.ld ⟨7, 5, 16, 0, 3, 2, 0⟩, .ld ⟨7, 5, 16, 0, 0, 3, 0⟩, .ld ⟨7, 5, 17, 0, 0, 2, 0⟩, .ld ⟨7, 5, 63, 32, 0, 2, 0⟩,
      .lds ⟨7, 5, 16, 0, 0, 2, 0⟩, .st ⟨7, 5, 16, 0, 0, 3, 0⟩, .ldq ⟨7, 6, 16, 0, 0⟩, .stq ⟨7, 6, 16, 0, 0⟩, .ldNc ⟨7, 5, 16, 0, 3, 0⟩,
      .pf ⟨7, 17, 0, 0⟩, .amoCas ⟨7, 5, 16, 3, false, 0⟩, .amoCas ⟨7, 6, 16, 6, true, 0⟩, .amoAdd ⟨7, 5, 16, 4, true, 0⟩],
      i.wellFormed = false := by decide +kernel

theorem test_code_fields_refused :
    ∀ i ∈ [Instr.exp ⟨7, 4, 5, 5, false, 0⟩, .xfence ⟨7, 0, 1, 0⟩, .xfence ⟨7, 1, 0, 0⟩, .gwct ⟨7, 4, 4, 0⟩, .gwct ⟨7, 5, 0, 0⟩,
      .srd ⟨7, 4, 0x3F, 0⟩, .srd ⟨7, 5, 0x12, 0⟩, .cmpEq ⟨7, 1, 2, 3, true, 0⟩], i.wellFormed = false := by decide +kernel

theorem test_cadence_fields_refused :
    (∀ i ∈ ([.mmaBf16 ⟨4, 0, 1, false⟩, .mmaBf16 ⟨0, 16, 1, false⟩, .mmaI8 ⟨0, 0, 16, false⟩, .mmaMxf6 ⟨4, 0, 1, 0, 0, false⟩] : List Instr),
      i.wellFormed = false)
    ∧ (∀ i ∈ ([.tld ⟨16, 8, 10, 0, 0⟩, .tld ⟨1, 9, 10, 0, 0⟩, .tld ⟨1, 8, 11, 0, 0⟩, .tstRaw ⟨4, 8, 10, true⟩, .tstRaw ⟨16, 8, 10, false⟩,
        .tstRaw ⟨0, 9, 10, true⟩, .tstBf16 ⟨0, 8, 10, false⟩, .tstE4m3 ⟨0, 8, 10, 0, false⟩] : List Instr), i.wellFormed = false)
    ∧ ∀ i ∈ ([.tzT 16, .tzA 4, .olClr 16, .tsetW 16 0, .tsetH 16 0, .tsetC 16 0, .olLim 16 0, .tsetEsc 16 0, .tsetEsc 0 1, .krep 6 0, .krep 6 0xFFFF,
        .cadNbarArr 16, .cadNbarWt 16] : List Instr), i.wellFormed = false := by
  refine ⟨?_, ?_, ?_⟩ <;> decide +kernel

theorem test_slot_fields_refused :
    ∀ i ∈ ([.calloc 4, .steer 16, .agen 63, .pack 1 7, .merge 4 1, .isect 1 60, .unionCoord 1 16, .emit 1 17, .unpack ⟨0, 1, 4⟩,
      .redCfg ⟨0, 0, 1, 2⟩, .redCfg ⟨1, 0, 5, 2⟩, .eos ⟨0, 1⟩, .eos ⟨1, 20⟩, .wadapt ⟨0, 8, 1⟩, .wadapt ⟨0, 1, 6⟩] : List Instr),
      i.wellFormed = false := by
  decide +kernel

/-! ### Words of every family, read back -/

/-- The result words of the thread decoder on fixed words. -/
noncomputable def reads (l : List (Nat × Instr)) : Bool :=
  l.all fun e => match decodeIn .thread (BitVec.ofNat 32 e.1) 0 with
    | .ok i => decide (i = e.2)
    | .error _ => false

theorem test_decode_alu_words : reads [(0x01C50830, .add ⟨7, 5, 2, 3, false, 0⟩), (0x0DC72094, .divS ⟨7, 7, 8, 9, false, 0⟩),
    (0x15C21052, .cmpLtS ⟨7, 2, 4, 5, false, 0⟩), (0x19C60831, .sel ⟨7, 6, 2, 3, false, 1, 0⟩),
    (0x1DCA1836, .lea8 ⟨7, 10, 6, 3, false, 0⟩), (0x35F313FF, .cmpiGtS ⟨7, 3, 4, 0x3FF, 0⟩),
    (0x39CAFFFE, .movi ⟨7, 10, 0xFFFE⟩), (0x3DCA1234, .movhi ⟨7, 10, 0x1234⟩)] = true := by decide +kernel

theorem test_decode_float_words : reads [(0x41C41460, .fadd ⟨7, 4, 5, 6, false, 0⟩), (0x45C80830, .fma ⟨7, 8, 2, 3, false, 0⟩),
    (0x49C11052, .fcmpLt ⟨7, 1, 4, 5, false, 0⟩), (0x4DC31C07, .cvtBf16F32 ⟨7, 3, 7, false, 0⟩),
    (0x79C41420, .exp ⟨7, 4, 5, 2, false, 0⟩)] = true := by decide +kernel

theorem test_decode_number_words : reads [(0x59C94144, .npkE2m1 ⟨7, 9, 16, 20, false, 0⟩), (0x61CA2CC0, .dot4E4 ⟨7, 10, 11, 12, false, 0⟩),
    (0x71D42183, .qntF4o ⟨7, 20, 8, 24, false, 0⟩), (0x75C51801, .kc2DecHi ⟨7, 5, 6, false, 0⟩),
    (0x81C60833, .rsDev ⟨7, 6, 2, 3, false, 0⟩), (0x8DC00001, .tblSw ⟨7⟩)] = true := by decide +kernel

theorem test_decode_lane_and_control_words : reads [(0x85C41093, .shflXor ⟨7, 4, 4, 9, false, 0⟩), (0x89C30805, .redFadd ⟨7, 3, 2, false, 0⟩),
    (0xC9C00014, .call ⟨7, 20⟩), (0xCDC00002, .ret ⟨7⟩), (0xD1C13020, .spawn ⟨7, 1, 12, 2, false, 0⟩),
    (0xD5C40012, .srd ⟨7, 4, 0x12, 0⟩), (0xC5FFFFFF, .br ⟨7, 0x3FFFFF⟩)] = true := by decide +kernel

theorem test_decode_cadence_words : (decodeIn .cadence 0x14040000 0 = .ok (.tsetW 0 4)) ∧ (decodeIn .cadence 0x1D480100 0 = .ok (.kmovi 10 256))
    ∧ (decodeIn .cadence 0x24000100 0 = .ok (.cadNbarWt 0)) ∧ (decodeIn .cadence 0x20060006 0 = .ok (.krep 6 6))
    ∧ (decodeIn .cadence 0x08285000 0 = .ok (.tld ⟨1, 8, 10, 0, 0⟩)) ∧ (decodeIn .cadence 0x00000800 0 = .ok (.mmaBf16 ⟨0, 0, 1, false⟩))
    ∧ (decodeIn .cadence 0x22000000 0 = .ok .kend) ∧ (decodeIn .cadence 0x0C085001 0 = .ok (.tstRaw ⟨0, 8, 10, true⟩))
    ∧ (decodeIn .cadence 0x28000000 0 = .ok .cend) ∧ decodeIn .cadence 0xFFFFFFFF 0 = .error .op := by
  refine ⟨?_, ?_, ?_, ?_, ?_, ?_, ?_, ?_, ?_, ?_⟩ <;> decide +kernel

theorem test_decode_trellis_words : decodeIn .trellis 0xE9C00400 0 = .ok (.calloc 1) ∧ decodeIn .thread 0xE8000000 0 = .error .op
    ∧ decodeIn .thread 0xD5C4FC02 0 = .error .field := by
  refine ⟨?_, ?_, ?_⟩ <;> decide +kernel

/-! ### Worked examples of the spec, one step each -/

/-- What holds of the thread after an instruction that answers a next state. -/
def after (o : Host.Outcome State Fault Refusal) (p : Thread → Bool) : Bool :=
  match o with
  | .next s' => p (me s')
  | _ => false

/-- R63: addition wraps: 7 + 0xFFFF_FFFE is 5. -/
theorem test_add_wraps : after (exec (.add fa) w0) (fun t => decide (t.g.get 10 = 5 ∧ t.pc = 0x10004)) = true := by decide +kernel

/-- R147's own example: under nearest-even `cvt.u.f32` takes −0.3 to 0 with `nx` only, and −0.7 to 0 with `nv`. -/
theorem test_cvt_u_rounds_first :
    after (exec (.cvtUF32 fu) (wT (fun t => { t with g := [(2, 0xBE99999A)] }))) (fun t => decide (t.g.get 10 = 0) && t.fpsr.getLsbD 4 && !t.fpsr.getLsbD 0) = true
    ∧ after (exec (.cvtUF32 fu) (wT (fun t => { t with g := [(2, 0xBF333333)] }))) (fun t => decide (t.g.get 10 = 0) && t.fpsr.getLsbD 0 && !t.fpsr.getLsbD 4) = true := by
  refine ⟨?_, ?_⟩ <;> decide +kernel

/-- R155's worked example: the scale of 9.0 for E2M1 is 128. -/
theorem test_scl_of_nine : after (exec (.scl ⟨7, 17, 2, 62, false, 0⟩) (wT (fun t => { t with g := [(2, 0x41100000)] })))
    (fun t => decide (t.g.get 17 = 128)) = true := by decide +kernel

/-- R80: `call` over 20 words goes 80 bytes on and holds the next word's address. -/
theorem test_call_goes_on_and_holds_the_return : after (exec (.call ⟨7, 20⟩) w0) (fun t => decide (t.pc = 0x10050 ∧ t.cs.length = 1 ∧ t.cs.headD 0 = 0x10004)) = true := by
  decide +kernel

/-- R312's example: the slot word 0x0401_0000_41C0_0082 holds `fmul in0, c0`, which goes to element 1, slot 0, port 0. -/
theorem test_slot_word_example : slotInstr (slotOpw 0x0401000041C00082) = some (.fmul ⟨7, 0, 0, 8, false, 0⟩) := by decide +kernel

/-! ### Statements met: the words of the result statements -/

/-- The word of major `m` and FN `n`, always executed, with D = 2, A = 4 and the given B. -/
def wordAt (m n b : Nat) : Word := BitVec.ofNat 32 (m * 2 ^ 26 + 7 * 2 ^ 22 + 2 * 2 ^ 16 + 4 * 2 ^ 10 + b * 16 + n)

theorem witness_CodedWords :
    (∀ e ∈ aluBin.zip aluBinCodes ++ (mulBin.map fun e => (e.1, e.2)).zip ([0, 1, 2, 4, 5, 6, 7].map (Prod.mk 3)),
      decodeIn .thread (wordAt e.2.1 e.2.2 6) 0 = .ok (e.1.1 ⟨7, 2, 4, 6, false, 0⟩))
    ∧ decodeIn .thread (wordAt 3 3 6) 0 = .ok (.mad ⟨7, 2, 4, 6, false, 0⟩)
    ∧ (∀ e ∈ pairOps.zip (List.range 8), decodeIn .thread (wordAt 4 e.2 6) 0 = .ok (e.1.1 ⟨7, 2, 4, 6, false, 0⟩))
    ∧ (∀ e ∈ aluUn.zip aluUnCodes, decodeIn .thread (wordAt e.2.1 e.2.2 0) 0 = .ok (e.1.1 ⟨7, 2, 4, false, 0⟩))
    ∧ (∀ e ∈ cmpOps.zip (List.range 8), decodeIn .thread (wordAt 5 e.2 6) 0 = .ok (e.1.1 ⟨7, 2, 4, 6, false, 0⟩))
    ∧ (∀ e ∈ fcmpOps.zip (List.range 8), decodeIn .thread (wordAt 0x12 e.2 6) 0 = .ok (e.1.1 ⟨7, 2, 4, 6, false, 0⟩))
    ∧ decodeIn .thread (wordAt 4 0 7) 0 = .error .field ∧ majorOf (wordAt 4 0 7) = 4 ∧ fnOf (wordAt 4 0 7) ≤ 2 := by
  refine ⟨?_, ?_, ?_, ?_, ?_, ?_, ?_⟩ <;> decide +kernel

end Sys2Proof.Tests
end

/-! Proofs of the integer and control family (02_integer_control.md): what a producer instruction leaves behind, the numbers behind the
results of the word operations, and the words that code them. The first part serves every producer. -/

namespace Sys2Proof.Proofs

open Sys2Proof.Machine Sys2Proof.Stmt

/-! ### What an operation on a thread writes -/

/-- The outcome `o` of an operation on thread `t` (the thread after it, and its latch value) is the result `r` in its registers and
predicates, with `fpsr` and `lfsr` as given, and nothing else of the thread has changed. -/
def Writes (t : Thread) (r : Res) (fpsr lfsr : Word) (o : Thread × DWord) : Prop :=
  ∃ g p, o = ({ t with g := g, p := p, fpsr := fpsr, lfsr := lfsr }, r.latch)
    ∧ (∀ n, g.get n = r.reg t.g n) ∧ ∀ k, k < 7 → p.getLsbD k = r.prd t.p k

theorem setG_get (t : Thread) (k : Nat) (v : Word) (n : Nat) :
    (t.setG k v).g.get n = if n < 60 ∧ n = k then v else t.g.get n := by
  unfold Thread.setG
  split
  · simp only [FMap.get_set, eq_comm (a := k)]
    exact if_congr (by omega) rfl rfl
  · exact (if_neg (by omega)).symm

theorem setG_frame (t : Thread) (k : Nat) (v : Word) : t.setG k v = { t with g := (t.setG k v).g } := by
  unfold Thread.setG
  split <;> rfl

theorem writes_res32 (t : Thread) (nw : Bool) (d : BitVec 6) (v : Word) :
    Writes t (.word nw d v) t.fpsr t.lfsr (res32 t nw d v) := by
  cases nw with
  | true => exact ⟨t.g, t.p, rfl, fun n => by simp [Res.reg], fun _ _ => rfl⟩
  | false =>
    refine ⟨(t.setG d.toNat v).g, t.p, ?_, fun n => by simp [Res.reg, setG_get], fun _ _ => rfl⟩
    rw [← setG_frame]; rfl

theorem lo_eq (v : DWord) : v.lo = v.extractLsb' 0 32 := rfl

theorem hi_eq (v : DWord) : v.hi = v.extractLsb' 32 32 := rfl

theorem writes_res64 (t : Thread) (nw : Bool) (d : BitVec 6) (v : DWord) :
    Writes t (.pair nw d v) t.fpsr t.lfsr (res64 t nw d v) := by
  cases nw with
  | true => exact ⟨t.g, t.p, rfl, fun n => by simp [Res.reg], fun _ _ => rfl⟩
  | false =>
    refine ⟨((t.setG d.toNat v.lo).setG (d.toNat + 1) v.hi).g, t.p, ?_, fun n => ?_, fun _ _ => rfl⟩
    · exact Prod.ext ((setG_frame _ _ _).trans (by rw [setG_frame t])) rfl
    · simp only [Res.reg, setG_get, lo_eq, hi_eq, true_and]
      rw [ite_ite_comm]
      omega

/-- The model's write of one predicate bit changes that bit only. -/
theorem getLsbD_setBit (p : BitVec 7) (n k : Nat) (v : Bool) (hk : k < 7) :
    ((p &&& ~~~(1#7 <<< n)) ||| (BitVec.ofNat 7 (b2n v) <<< n)).getLsbD k = if k = n then v else p.getLsbD k := by
  have hv : BitVec.ofNat 7 (b2n v) = (BitVec.ofBool v).setWidth 7 := by cases v <;> rfl
  simp only [hv, BitVec.getLsbD_or, BitVec.getLsbD_and, BitVec.getLsbD_not, BitVec.getLsbD_shiftLeft, BitVec.getLsbD_one,
    BitVec.getLsbD_setWidth, BitVec.getLsbD_ofBool, hk]
  rcases Nat.lt_trichotomy k n with h | h | h
  · simp [h, Nat.ne_of_lt h]
  · simp [h]
  · have h0 : k - n ≠ 0 := by omega
    simp [h0, Nat.ne_of_gt h]

theorem wrp_of_discard (t : Thread) {nw : Bool} {p : BitVec 3} (v : Bool) (h : nw = true ∨ p = 7) : t.wrp nw p v = t :=
  if_pos (by simpa using h)

theorem wrp_of_write (t : Thread) {p : BitVec 3} (v : Bool) (h : p ≠ 7) :
    t.wrp false p v = { t with p := (t.p &&& ~~~(1#7 <<< p.toNat)) ||| (BitVec.ofNat 7 (b2n v) <<< p.toNat) } :=
  if_neg (by simpa using h)

theorem writes_resP (t : Thread) (nw : Bool) (p : BitVec 3) (v : Bool) :
    Writes t (.pred nw p v) t.fpsr t.lfsr (resP t nw p v) := by
  have hlatch : BitVec.ofNat 64 (b2n v) = (Res.pred nw p v).latch := by cases v <;> rfl
  by_cases h : nw = true ∨ p = 7
  · refine ⟨t.g, t.p, by rw [resP, wrp_of_discard t v h, hlatch], fun _ => rfl, fun k hk => (if_neg ?_).symm⟩
    rintro ⟨hnw, hkp⟩
    obtain h | rfl := h
    · simp [hnw] at h
    · exact Nat.ne_of_lt hk hkp
  · obtain ⟨hnw, hp⟩ := not_or.1 h
    obtain rfl := Bool.eq_false_of_not_eq_true hnw
    refine ⟨t.g, _, by rw [resP, wrp_of_write t v hp, hlatch], fun _ => rfl, fun k hk => ?_⟩
    rw [getLsbD_setBit _ _ _ _ hk]
    simp [Res.prd]

/-! ### Producers -/

theorem produce_b0_val (t : Thread) (q : Snap) (c : Option Chain) (v : DWord) : (t.produce q c v).b0.map (·.val) = some v := by
  cases c <;> rfl

theorem produce_b1_val (t : Thread) (q : Snap) (c : Option Chain) (v : DWord) :
    (t.produce q c v).b1.map (·.val) = t.b0.map (·.val) := by
  cases h : t.b0 <;> simp [Thread.produce, h, Latch.older]

theorem readyAt_frame (t q : Thread) (now : Nat) : t.readyAt q now = { t with age := (t.readyAt q now).age } := by
  unfold Thread.readyAt
  split <;> rfl

/-- The instruction `i` is a producer that changes its thread by the operation `op`. -/
structure IsAlu (i : Instr) (op : Thread → Thread × DWord) : Prop where
  exec_eq : ∀ s, exec i s = issueAlu (shape i) op s
  producer : (shape i).producer = true

/-- A producer whose operation writes the result `r` completes with it. -/
theorem IsAlu.completes {i : Instr} {op : Thread → Thread × DWord} (hi : IsAlu i op) {s : State} (hrun : s.Runs (shape i)) {r : Res}
    {fpsr lfsr : Word} (hw : Writes (s.thr s.cur) r fpsr lfsr (op (s.thr s.cur))) :
    ∃ s', exec i s = .next s' ∧ Produced s s' (shape i) r fpsr lfsr := by
  have hb0 := produce_b0_val (op (s.thr s.cur)).1 (s.thr s.cur).snap ((s.thr s.cur).nextChain (shape i)) (op (s.thr s.cur)).2
  have hb1 := produce_b1_val (op (s.thr s.cur)).1 (s.thr s.cur).snap ((s.thr s.cur).nextChain (shape i)) (op (s.thr s.cur)).2
  obtain ⟨g, p, hop, hreg, hprd⟩ := hw
  refine ⟨_, (hi.exec_eq s).trans (issueAlu_run op hrun hi.producer), ⟨rfl, fun u hu => s.thr_setThr_ne _ (Ne.symm hu)⟩, ?_⟩
  simp only [State.thr_setThr]
  rw [hop] at hb0 hb1 ⊢
  rw [readyAt_frame]
  exact ⟨hreg, hprd, rfl, rfl, hb0, hb1, rfl, rfl, rfl⟩

/-! ### Words as numbers -/

theorem shiftLeft_eq_ofNat {w : Nat} (a : BitVec w) (n : Nat) : a <<< n = BitVec.ofNat w (a.toNat * 2 ^ n) := by
  apply BitVec.eq_of_toNat_eq
  simp [Nat.shiftLeft_eq]

theorem ushiftRight_eq_ofNat {w : Nat} (a : BitVec w) (n : Nat) : a >>> n = BitVec.ofNat w (a.toNat / 2 ^ n) := by
  apply BitVec.eq_of_toNat_eq
  rw [BitVec.toNat_ushiftRight, Nat.shiftRight_eq_div_pow, BitVec.toNat_ofNat,
    Nat.mod_eq_of_lt (Nat.lt_of_le_of_lt (Nat.div_le_self _ _) a.isLt)]

theorem sshiftRight_eq_ofInt {w : Nat} (a : BitVec w) (n : Nat) : a.sshiftRight n = BitVec.ofInt w (a.toInt / 2 ^ n) := by
  rw [BitVec.sshiftRight_eq, Int.shiftRight_eq_div_pow]
  norm_cast

/-- A shift by the last bit's number leaves the sign in every bit. -/
theorem sshiftRight_last {w : Nat} (a : BitVec (w + 1)) : a.sshiftRight w = if a.msb then BitVec.allOnes (w + 1) else 0 := by
  ext k hk
  rw [BitVec.getElem_sshiftRight, BitVec.msb_eq_getLsbD_last]
  by_cases h : k = 0
  · subst h
    cases hm : a.getLsbD w <;> simp [← BitVec.getLsbD_eq_getElem, hm]
  · rw [dif_neg (by omega)]
    cases a.getLsbD (w + 1 - 1) <;> simp

/-- The two parts of a rotation share no bit. -/
theorem shiftLeft_and_ushiftRight_eq_zero {w : Nat} (a : BitVec w) (k : Nat) : a <<< k &&& a >>> (w - k) = 0 := by
  ext i hi
  by_cases h : i < k
  · simp [h]
  · have : a.getLsbD (w - k + i) = false := BitVec.getLsbD_of_ge _ _ (by omega)
    simp [this]

theorem rotateLeft_eq_ofNat {w : Nat} (a : BitVec w) {k : Nat} (hk : k < w) :
    a.rotateLeft k = BitVec.ofNat w (a.toNat * 2 ^ k + a.toNat / 2 ^ (w - k)) := by
  rw [BitVec.rotateLeft_eq_rotateLeftAux_of_lt hk, BitVec.rotateLeftAux, BitVec.ofNat_add, ← shiftLeft_eq_ofNat,
    ← ushiftRight_eq_ofNat, BitVec.add_eq_or_of_and_eq_zero _ _ (shiftLeft_and_ushiftRight_eq_zero a k)]

theorem rotateRight_eq_ofNat {w : Nat} (a : BitVec w) {k : Nat} (hk : k < w) :
    a.rotateRight k = BitVec.ofNat w (a.toNat / 2 ^ k + a.toNat * 2 ^ (w - k)) := by
  have hdisj := shiftLeft_and_ushiftRight_eq_zero a (w - k)
  rw [Nat.sub_sub_self hk.le, BitVec.and_comm] at hdisj
  rw [BitVec.rotateRight_eq_rotateRightAux_of_lt hk, BitVec.rotateRightAux, BitVec.ofNat_add, ← shiftLeft_eq_ofNat,
    ← ushiftRight_eq_ofNat, BitVec.add_eq_or_of_and_eq_zero _ _ hdisj]

/-- Bits [63:32] of a 64-bit product, as a number. -/
theorem high_word_of_ofInt (z : Int) : ((BitVec.ofInt 64 z) >>> 32).setWidth 32 = BitVec.ofInt 32 (z / 2 ^ 32) := by
  apply BitVec.eq_of_toNat_eq
  simp only [BitVec.toNat_setWidth, BitVec.toNat_ushiftRight, BitVec.toNat_ofInt, Nat.shiftRight_eq_div_pow]
  omega

/-! ### Results of the ALU words (R63) -/

theorem shlW_eq (a b : Word) : shlW a b = if b.toNat < 32 then BitVec.ofNat 32 (a.toNat * 2 ^ b.toNat) else 0 := by
  rw [shlW, shiftLeft_eq_ofNat]

theorem shrW_eq (a b : Word) : shrW a b = if b.toNat < 32 then BitVec.ofNat 32 (a.toNat / 2 ^ b.toNat) else 0 := by
  rw [shrW, ushiftRight_eq_ofNat]

theorem sraW_eq (a b : Word) : sraW a b =
    if b.toNat < 32 then BitVec.ofInt 32 (a.toInt / 2 ^ b.toNat) else if a.msb then BitVec.allOnes 32 else 0 := by
  rw [sraW, sshiftRight_eq_ofInt, sshiftRight_last]

theorem rolW_eq (a b : Word) :
    rolW a b = BitVec.ofNat 32 (a.toNat * 2 ^ (b.toNat % 32) + a.toNat / 2 ^ (32 - b.toNat % 32)) :=
  rotateLeft_eq_ofNat a (Nat.mod_lt _ (by decide))

theorem rorW_eq (a b : Word) :
    rorW a b = BitVec.ofNat 32 (a.toNat / 2 ^ (b.toNat % 32) + a.toNat * 2 ^ (32 - b.toNat % 32)) :=
  rotateRight_eq_ofNat a (Nat.mod_lt _ (by decide))

theorem minS_eq (a b : Word) : (if a.slt b then a else b) = BitVec.ofInt 32 (min a.toInt b.toInt) := by
  simp only [BitVec.slt_eq_decide, decide_eq_true_eq, min_def_lt, apply_ite (BitVec.ofInt 32), BitVec.ofInt_toInt]

theorem maxS_eq (a b : Word) : (if a.slt b then b else a) = BitVec.ofInt 32 (max a.toInt b.toInt) := by
  simp only [BitVec.slt_eq_decide, decide_eq_true_eq, max_def_lt, apply_ite (BitVec.ofInt 32), BitVec.ofInt_toInt]

theorem minU_eq (a b : Word) : (if a.ult b then a else b) = BitVec.ofNat 32 (min a.toNat b.toNat) := by
  simp only [BitVec.ult_eq_decide, decide_eq_true_eq, min_def_lt, apply_ite (BitVec.ofNat 32), BitVec.ofNat_toNat, BitVec.setWidth_eq]

theorem maxU_eq (a b : Word) : (if a.ult b then b else a) = BitVec.ofNat 32 (max a.toNat b.toNat) := by
  simp only [BitVec.ult_eq_decide, decide_eq_true_eq, max_def_lt, apply_ite (BitVec.ofNat 32), BitVec.ofNat_toNat, BitVec.setWidth_eq]

/-- Counting down from bit `n - 1` stops at the highest one bit. -/
theorem clzFrom_eq (a : Word) (n : Nat) (h : a.toNat < 2 ^ n) :
    clzFrom a n = if a.toNat = 0 then n else n - 1 - Nat.log2 a.toNat := by
  induction n with
  | zero => simp [clzFrom]
  | succ n ih =>
    by_cases hb : a.toNat < 2 ^ n
    · have hbit : a.getLsbD n = false := Nat.testBit_lt_two_pow hb
      simp only [clzFrom, hbit, Bool.false_eq_true, if_false, ih hb]
      split
      case isTrue => omega
      case isFalse h0 =>
        have := (Nat.log2_lt h0).2 hb
        omega
    · have h0 : a.toNat ≠ 0 := by have := Nat.two_pow_pos n; omega
      have hlog : a.toNat.log2 = n := by
        rw [Nat.log2_eq_log_two]
        exact Nat.log_eq_of_pow_le_of_lt_pow (not_lt.1 hb) h
      have hbit : a.getLsbD n = true := by
        rw [← hlog]
        exact Nat.testBit_log2 h0
      rw [clzFrom, if_pos hbit, if_neg h0]
      omega

theorem clzW_eq (a : Word) : clzW a = BitVec.ofNat 32 (leadZeros a) := by
  rw [clzW, leadZeros, clzFrom_eq a 32 a.isLt]
  exact congrArg _ (if_congr (BitVec.toNat_eq (y := 0#32)).symm rfl rfl)

theorem onesBelow_eq (a : Word) (n : Nat) : onesBelow a n = ((List.range n).filter (fun k => a.getLsbD k)).length := by
  induction n with
  | zero => rfl
  | succ n ih =>
    rw [onesBelow, ih, List.range_succ, List.filter_append, List.length_append, Nat.add_comm]
    cases h : a.getLsbD n <;> simp [b2n, h]

theorem popcW_eq (a : Word) : popcW a = BitVec.ofNat 32 (ones a) := by
  rw [popcW, onesBelow_eq, ones]

theorem brevW_eq (a : Word) : brevW a = BitVec.ofBoolListLE ((List.range 32).map (fun k => a.getLsbD (31 - k))) := by
  apply BitVec.eq_of_getLsbD_eq
  intro i hi
  have hlist : ((List.range 32).map (fun k => a.getLsbD (31 - k))).getD i false = a.getLsbD (31 - i) := by
    simp [List.getD, hi]
  refine Eq.trans ?_ (hlist.symm.trans BitVec.getLsbD_ofBoolListLE.symm)
  rw [brevW, BitVec.getLsbD_reverse, BitVec.getMsbD_eq_getLsbD, decide_eq_true hi, Bool.true_and]

theorem abs_eq (a : Word) : (if a.getLsbD 31 then 0 - a else a) = BitVec.ofInt 32 |a.toInt| := by
  have hsign : a.getLsbD 31 = true ↔ a.toInt < 0 := by
    rw [← decide_eq_true_iff (p := a.toInt < 0), ← BitVec.msb_eq_toInt, BitVec.msb_eq_getLsbD_last]
  simp only [hsign]
  split_ifs with h
  · rw [abs_of_neg h, BitVec.ofInt_neg, BitVec.ofInt_toInt, ← BitVec.zero_sub]
    rfl
  · rw [abs_of_nonneg (not_lt.1 h), BitVec.ofInt_toInt]

theorem neg_eq (a : Word) : 0 - a = BitVec.ofInt 32 (-a.toInt) := by
  rw [BitVec.ofInt_neg, BitVec.ofInt_toInt]
  exact BitVec.zero_sub a

/-! ### Products, quotients and remainders (R64, R65) -/

theorem mul_eq (a b : Word) : a * b = BitVec.ofNat 32 (a.toNat * b.toNat) := rfl

theorem mulwS_eq (a b : Word) : a.signExtend 64 * b.signExtend 64 = BitVec.ofInt 64 (a.toInt * b.toInt) := by
  rw [BitVec.ofInt_mul]; rfl

theorem mulhiS_eq (a b : Word) :
    ((a.signExtend 64 * b.signExtend 64) >>> 32).setWidth 32 = BitVec.ofInt 32 (a.toInt * b.toInt / 2 ^ 32) := by
  rw [mulwS_eq, high_word_of_ofInt]

theorem mulwU_eq (a b : Word) : a.setWidth 64 * b.setWidth 64 = BitVec.ofNat 64 (a.toNat * b.toNat) := by
  rw [BitVec.ofNat_mul, BitVec.ofNat_toNat, BitVec.ofNat_toNat]

theorem mulhiU_eq (a b : Word) :
    ((a.setWidth 64 * b.setWidth 64) >>> 32).setWidth 32 = BitVec.ofNat 32 (a.toNat * b.toNat / 2 ^ 32) := by
  have hprod : a.toNat * b.toNat < 2 ^ 32 * 2 ^ 32 := Nat.mul_lt_mul'' a.isLt b.isLt
  apply BitVec.eq_of_toNat_eq
  simp only [mulwU_eq, BitVec.toNat_setWidth, BitVec.toNat_ushiftRight, BitVec.toNat_ofNat, Nat.shiftRight_eq_div_pow]
  omega

theorem sdiv_eq_ofInt {w : Nat} (a b : BitVec w) : a.sdiv b = BitVec.ofInt w (a.toInt.tdiv b.toInt) := by
  apply BitVec.eq_of_toInt_eq
  rw [BitVec.toInt_sdiv, BitVec.toInt_ofInt]

theorem divSW_eq (a b : Word) : divSW a b = if b = 0 then 0xFFFFFFFF else BitVec.ofInt 32 (a.toInt.tdiv b.toInt) := by
  rw [divSW, sdiv_eq_ofInt]

theorem remSW_eq (a b : Word) : remSW a b = if b = 0 then a else BitVec.ofInt 32 (a.toInt.tmod b.toInt) := by
  rw [remSW, divSW_eq]
  split
  case isTrue => rfl
  case isFalse =>
    rw [Int.tmod_def, Int.sub_eq_add_neg, BitVec.ofInt_add, BitVec.ofInt_neg, BitVec.ofInt_mul, BitVec.ofInt_toInt,
      BitVec.ofInt_toInt, BitVec.sub_eq_add_neg]

theorem udiv_eq_ofNat {w : Nat} (a b : BitVec w) : a / b = BitVec.ofNat w (a.toNat / b.toNat) := by
  apply BitVec.eq_of_toNat_eq
  rw [BitVec.toNat_udiv, BitVec.toNat_ofNat, Nat.mod_eq_of_lt (Nat.lt_of_le_of_lt (Nat.div_le_self _ _) a.isLt)]

theorem umod_eq_ofNat {w : Nat} (a b : BitVec w) : a % b = BitVec.ofNat w (a.toNat % b.toNat) := by
  apply BitVec.eq_of_toNat_eq
  rw [BitVec.toNat_umod, BitVec.toNat_ofNat, Nat.mod_eq_of_lt (Nat.lt_of_le_of_lt (Nat.mod_le _ _) a.isLt)]

/-! ### Shifts of pairs (R65) -/

theorem shlD64_eq (a : DWord) (n : Word) :
    shlD64 a n = if n.toNat < 64 then BitVec.ofNat 64 (a.toNat * 2 ^ n.toNat) else 0 := by
  rw [shlD64, shiftLeft_eq_ofNat]

theorem shrD64_eq (a : DWord) (n : Word) :
    shrD64 a n = if n.toNat < 64 then BitVec.ofNat 64 (a.toNat / 2 ^ n.toNat) else 0 := by
  rw [shrD64, ushiftRight_eq_ofNat]

theorem sraD64_eq (a : DWord) (n : Word) : sraD64 a n =
    if n.toNat < 64 then BitVec.ofInt 64 (a.toInt / 2 ^ n.toNat) else if a.msb then BitVec.allOnes 64 else 0 := by
  rw [sraD64, sshiftRight_eq_ofInt, sshiftRight_last]

/-! ### Words that decode, and the fields they are made of (R28, R35) -/

/-- What the decoder of thread words answers is well-formed, and encodes to the word. -/
theorem decodeThread_ok {w l : Word} {i : Instr} (h : decodeIn .thread w l = .ok i) :
    encodeWord i = some w ∧ i.wellFormed = true := by
  simp only [decodeIn, decodeThread, decodeBy] at h
  split_ifs at h
  split at h
  · cases h
  · split_ifs at h with hok
    cases h
    exact hok

/-- A word whose instruction is not well-formed, whatever its literal, raises ILLEGAL.FIELD. -/
theorem decodeThread_ill_formed {w : Word} (l : Word) (hmaj : major w ≠ 0x3a ∧ major w ≠ 0x3b)
    (h : ∀ lit, ∃ i, rawThread w lit = some i ∧ i.wellFormed = false) : decodeIn .thread w l = .error .field := by
  have hlit : ∃ i, literalOf w l rawThread = some i ∧ i.wellFormed = false := by
    obtain ⟨i, hi, hwf⟩ := h 0
    simp only [literalOf, hi]
    split
    · exact h l
    · exact ⟨i, rfl, hwf⟩
  obtain ⟨i, hi, hwf⟩ := hlit
  simp [decodeIn, decodeThread, decodeBy, hmaj, hi, hwf]

/-- The fields of a word in the A layout: each is found by dropping what stands below it. -/
theorem fields_of_append (m : BitVec 6) (g : BitVec 4) (d a b : BitVec 6) (nw : Bool) (n : BitVec 3) :
    (m ++ g ++ d ++ a ++ b ++ BitVec.ofBool nw ++ n).extractLsb' 26 6 = m
    ∧ (m ++ g ++ d ++ a ++ b ++ BitVec.ofBool nw ++ n).extractLsb' 0 3 = n
    ∧ (m ++ g ++ d ++ a ++ b ++ BitVec.ofBool nw ++ n).extractLsb' 22 4 = g
    ∧ (m ++ g ++ d ++ a ++ b ++ BitVec.ofBool nw ++ n).extractLsb' 16 6 = d
    ∧ (m ++ g ++ d ++ a ++ b ++ BitVec.ofBool nw ++ n).extractLsb' 10 6 = a
    ∧ (m ++ g ++ d ++ a ++ b ++ BitVec.ofBool nw ++ n).extractLsb' 4 6 = b
    ∧ (m ++ g ++ d ++ a ++ b ++ BitVec.ofBool nw ++ n).getLsbD 3 = nw := by
  refine ⟨?major, BitVec.extractLsb'_append_eq_right, ?_, ?_, ?_, ?_, ?nw⟩
  case nw =>
    rw [BitVec.getLsbD_append, BitVec.getLsbD_append]
    simp
  all_goals repeat rw [BitVec.extractLsb'_append_eq_of_le (by decide)]
  case major => exact BitVec.extractLsb'_eq_self
  all_goals exact BitVec.extractLsb'_append_eq_right

/-- The D field of a word that writes a predicate is `z ++ p`; so read, the word is in the A layout. -/
theorem pred_fields_of_append (m : BitVec 6) (g : BitVec 4) (z p : BitVec 3) (a b : BitVec 6) (nw : Bool) (n : BitVec 3) :
    (m ++ g ++ z ++ p ++ a ++ b ++ BitVec.ofBool nw ++ n).extractLsb' 16 3 = p
    ∧ (m ++ g ++ z ++ p ++ a ++ b ++ BitVec.ofBool nw ++ n).extractLsb' 19 3 = z
    ∧ m ++ g ++ z ++ p ++ a ++ b ++ BitVec.ofBool nw ++ n = m ++ g ++ (z ++ p) ++ a ++ b ++ BitVec.ofBool nw ++ n := by
  refine ⟨?_, ?_, congrArg (· ++ a ++ b ++ BitVec.ofBool nw ++ n) (BitVec.append_assoc (x₁ := m ++ g))⟩
  all_goals
    repeat rw [BitVec.extractLsb'_append_eq_of_le (by decide)]
    exact BitVec.extractLsb'_append_eq_right

theorem toNat_of_eq_ofNat {k w : Nat} {x : BitVec w} (hk : k < 2 ^ w) (h : x = BitVec.ofNat w k) : x.toNat = k := by
  rw [h, BitVec.toNat_ofNat, Nat.mod_eq_of_lt hk]

theorem codedA_of_enc {c : FA → Instr} {m n : Nat} (hm : m < 64) (hn : n < 8)
    (h : ∀ f, encodeWord (c f) = some (f.enc (BitVec.ofNat 6 m) (BitVec.ofNat 3 n))) : CodedA c m n := by
  intro w l f hdec
  obtain rfl : f.enc _ _ = w := Option.some.inj ((h f).symm.trans (decodeThread_ok hdec).1)
  obtain ⟨hm', hn', hg, hd, ha, hb, hw⟩ := fields_of_append (BitVec.ofNat 6 m) f.g f.d f.a f.b f.nw (BitVec.ofNat 3 n)
  exact ⟨toNat_of_eq_ofNat hm hm', toNat_of_eq_ofNat hn hn', hg.symm, hd.symm, ha.symm, hb.symm, hw.symm⟩

theorem codedU_of_enc {c : FU → Instr} {m n : Nat} (hm : m < 64) (hn : n < 8)
    (h : ∀ f, encodeWord (c f) = some (f.enc (BitVec.ofNat 6 m) (BitVec.ofNat 3 n))) : CodedU c m n := by
  intro w l f hdec
  obtain rfl : f.enc _ _ = w := Option.some.inj ((h f).symm.trans (decodeThread_ok hdec).1)
  obtain ⟨hm', hn', hg, hd, ha, hb, hw⟩ := fields_of_append (BitVec.ofNat 6 m) f.g f.d f.a 0#6 f.nw (BitVec.ofNat 3 n)
  exact ⟨toNat_of_eq_ofNat hm hm', toNat_of_eq_ofNat hn hn', hg.symm, hd.symm, ha.symm, hb, hw.symm⟩

/-- With NW = 1 a well-formed instruction that writes a predicate names p0 (R31). -/
theorem pred_zero_of_wellFormed {i : Instr} {f : FP} (hshape : shape i = shP f) (hwf : i.wellFormed = true) (hnw : f.nw = true) :
    f.p = 0 := by
  simp only [Instr.wellFormed, hshape, Shape.ok, Bool.and_eq_true] at hwf
  obtain ⟨⟨⟨⟨-, hextra⟩, -⟩, -⟩, -⟩ := hwf
  simpa [shP, hnw] using hextra

theorem codedP_of_enc {c : FP → Instr} {m n : Nat} (hm : m < 64) (hn : n < 8)
    (h : ∀ f, encodeWord (c f) = some (f.enc (BitVec.ofNat 6 m) (BitVec.ofNat 3 n)))
    (hshape : ∀ f, shape (c f) = shP f) : CodedP c m n := by
  intro w l f hdec
  obtain ⟨henc, hwf⟩ := decodeThread_ok hdec
  obtain rfl : f.enc _ _ = w := Option.some.inj ((h f).symm.trans henc)
  obtain ⟨hp, hz, hlayout⟩ := pred_fields_of_append (BitVec.ofNat 6 m) f.g 0#3 f.p f.a f.b f.nw (BitVec.ofNat 3 n)
  obtain ⟨hm', hn', hg, -, ha, hb, hw⟩ := fields_of_append (BitVec.ofNat 6 m) f.g (0#3 ++ f.p) f.a f.b f.nw (BitVec.ofNat 3 n)
  rw [← hlayout] at hm' hn' hg ha hb hw
  exact ⟨toNat_of_eq_ofNat hm hm', toNat_of_eq_ofNat hn hn', hg.symm, hp.symm, hz, ha.symm, hb.symm, hw.symm,
    pred_zero_of_wellFormed (hshape f) hwf⟩

/-! ### Forms of producers

Each predicate is what a result statement asks of one row of its list; each lemma gives it from the model's form of the operation. -/

/-- The row's instruction writes its function of the words A and B to D. -/
def GivesWord2 (e : (FA → Instr) × (Word → Word → Word)) : Prop :=
  ∀ (f : FA) (s : State), s.Runs (shape (e.1 f)) →
    Plain s (e.1 f) (.word f.nw f.d (e.2 ((s.thr s.cur).src32 f.lit f.a) ((s.thr s.cur).src32 f.lit f.b)))

theorem givesWord2_of_opBin {c : FA → Instr} {g : Word → Word → Word} (hi : ∀ f, IsAlu (c f) (opBin g f)) : GivesWord2 (c, g) :=
  fun f _ hrun => (hi f).completes hrun (writes_res32 _ _ _ _)

/-- The row's instruction writes its function of the word A to D. -/
def GivesWord1 (e : (FU → Instr) × (Word → Word)) : Prop :=
  ∀ (f : FU) (s : State), s.Runs (shape (e.1 f)) →
    Plain s (e.1 f) (.word f.nw f.d (e.2 ((s.thr s.cur).src32 f.lit f.a)))

theorem givesWord1_of_opUn {c : FU → Instr} {g : Word → Word} (hi : ∀ f, IsAlu (c f) (opUn g f)) : GivesWord1 (c, g) :=
  fun f _ hrun => (hi f).completes hrun (writes_res32 _ _ _ _)

/-- The row's instruction writes its function of the operands to the pair D. -/
def GivesPair (e : (FA → Instr) × (Thread → FA → DWord)) : Prop :=
  ∀ (f : FA) (s : State), s.Runs (shape (e.1 f)) → Plain s (e.1 f) (.pair f.nw f.d (e.2 (s.thr s.cur) f))

theorem givesPair_of_res64 {c : FA → Instr} {g : Thread → FA → DWord}
    (hi : ∀ f, IsAlu (c f) (fun t => res64 t f.nw f.d (g t f))) : GivesPair (c, g) :=
  fun f _ hrun => (hi f).completes hrun (writes_res64 _ _ _ _)

/-- The row's instruction writes its condition on the words A and B to the predicate. -/
def GivesPred (e : (FP → Instr) × (Word → Word → Bool)) : Prop :=
  ∀ (f : FP) (s : State), s.Runs (shape (e.1 f)) →
    Plain s (e.1 f) (.pred f.nw f.p (e.2 ((s.thr s.cur).src32 f.lit f.a) ((s.thr s.cur).src32 f.lit f.b)))

theorem givesPred_of_opCmp {c : FP → Instr} {g : Word → Word → Bool} (hi : ∀ f, IsAlu (c f) (opCmp g f)) : GivesPred (c, g) :=
  fun f _ hrun => (hi f).completes hrun (writes_resP _ _ _ _)

/-- The row's instruction writes its condition on the word A and the sign-extended immediate to the predicate. -/
def GivesPredImm (e : (FCi → Instr) × (Word → Word → Bool)) : Prop :=
  ∀ (f : FCi) (s : State), s.Runs (shape (e.1 f)) →
    Plain s (e.1 f) (.pred false f.p (e.2 ((s.thr s.cur).src32 f.lit f.a) (BitVec.ofInt 32 f.i.toInt)))

theorem givesPredImm_of_opCmpi {c : FCi → Instr} {g : Word → Word → Bool} (hi : ∀ f, IsAlu (c f) (opCmpi g f)) :
    GivesPredImm (c, g) :=
  fun f _ hrun => (hi f).completes hrun (writes_resP _ _ _ _)

/-! ### Flags of the FP32 compares (R146) -/

@[simp] theorem fpsr_raise (t : Thread) (fl : Word) : (t.raise fl).fpsr = raised t fl := by
  simp [Thread.raise, raised, Thread.pinv, fPSN]

@[simp] theorem lfsrAfter_zero (t : Thread) : lfsrAfter t 0 = t.lfsr := ite_self _

/-- Raising flags before the write changes only `fpsr`. -/
theorem writes_raise {t : Thread} {r : Res} {fl lfsr : Word} {o : Thread × DWord}
    (h : Writes (t.raise fl) r (t.raise fl).fpsr lfsr o) : Writes t r (raised t fl) lfsr o := by
  rwa [fpsr_raise] at h

theorem isNan_of_isSnan {x : Fp} (h : x.isSnan = true) : x.isNan = true := by
  cases x with
  | nan => rfl
  | inf => simp [Fp.isSnan] at h
  | fin => simp [Fp.isSnan] at h

/-- A compare that signals raises `nv` for a NaN of either kind, a quiet one for a signalling NaN only. -/
theorem fcmp_nv_eq (signals : Bool) (x y : Fp) : (if !signals then x.isSnan || y.isSnan else x.isNan || y.isNan)
    = (x.isSnan || y.isSnan || (signals && (x.isNan || y.isNan))) := by
  cases signals with
  | false => simp
  | true =>
    have hx : x.isSnan = true → x.isNan = true := isNan_of_isSnan
    have hy : y.isSnan = true → y.isNan = true := isNan_of_isSnan
    rw [Bool.eq_iff_iff]
    simp only [Bool.not_true, Bool.false_eq_true, if_false, Bool.true_and, Bool.or_eq_true]
    tauto

/-- The row's instruction writes its condition on the values A and B to the predicate, and raises `nv` as its third component says. -/
def GivesFcmp (e : (FP → Instr) × (Fp → Fp → Bool) × Bool) : Prop :=
  ∀ (f : FP) (s : State), s.Runs (shape (e.1 f)) →
    let x := f32.decode ((s.thr s.cur).src32 f.lit f.a).toNat
    let y := f32.decode ((s.thr s.cur).src32 f.lit f.b).toNat
    let nv := x.isSnan || y.isSnan || (e.2.2 && (x.isNan || y.isNan))
    Rounds s (e.1 f) (.pred f.nw f.p (e.2.1 x y)) (if nv then 1 else 0) 0

theorem givesFcmp_of_opFcmp {c : FP → Instr} {g : Fp → Fp → Bool} {signals : Bool}
    (hi : ∀ f, IsAlu (c f) (opFcmp (!signals) g f)) : GivesFcmp (c, g, signals) := by
  intro f s hrun
  refine (hi f).completes hrun ?_
  rw [opFcmp, fcmp_nv_eq, lfsrAfter_zero]
  exact writes_raise (writes_resP _ _ _ _)

/-! ### The lists of the statements

In each list the results as numbers are first read as the model's own; every row is then its arm of `exec`, or of the encoder. -/

/-- What `List.forall_mem_cons` leaves at the end of a list, as an equation for `simp`. -/
theorem forall_mem_nil {α : Type} (P : α → Prop) : (∀ e ∈ ([] : List α), P e) = True := by simp

theorem aluBin_results : ∀ e ∈ aluBin, GivesWord2 e := by
  simp only [aluBin, ← shlW_eq, ← shrW_eq, ← sraW_eq, ← rolW_eq, ← rorW_eq, ← minS_eq, ← maxS_eq, ← minU_eq, ← maxU_eq,
    List.forall_mem_cons, forall_mem_nil, and_true]
  and_intros
  all_goals exact givesWord2_of_opBin fun _ => ⟨fun _ => rfl, rfl⟩

theorem aluUn_results : ∀ e ∈ aluUn, GivesWord1 e := by
  simp only [aluUn, ← clzW_eq, ← popcW_eq, ← brevW_eq, ← abs_eq, ← neg_eq, List.forall_mem_cons, forall_mem_nil, and_true]
  and_intros
  all_goals exact givesWord1_of_opUn fun _ => ⟨fun _ => rfl, rfl⟩

theorem mulBin_results : ∀ e ∈ mulBin, GivesWord2 e := by
  simp only [mulBin, ← mul_eq, ← mulhiS_eq, ← mulhiU_eq, ← divSW_eq, ← remSW_eq, ← udiv_eq_ofNat, ← umod_eq_ofNat,
    List.forall_mem_cons, forall_mem_nil, and_true]
  and_intros
  all_goals exact givesWord2_of_opBin fun _ => ⟨fun _ => rfl, rfl⟩

theorem mad_result (f : FA) (s : State) (hrun : s.Runs (shape (.mad f))) :
    Plain s (.mad f) (.word f.nw f.d (BitVec.ofNat 32
      (((s.thr s.cur).src32 f.lit f.a).toNat * ((s.thr s.cur).src32 f.lit f.b).toNat + ((s.thr s.cur).old32 f.d).toNat))) := by
  have hi : IsAlu (.mad f) (opMad f) := ⟨fun _ => rfl, rfl⟩
  rw [BitVec.ofNat_add, ← mul_eq, BitVec.ofNat_toNat, BitVec.setWidth_eq]
  exact hi.completes hrun (writes_res32 _ _ _ _)

theorem pairOps_results : ∀ e ∈ pairOps, GivesPair e := by
  simp only [pairOps, ← mulwS_eq, ← mulwU_eq, ← shlD64_eq, ← shrD64_eq, ← sraD64_eq,
    List.forall_mem_cons, forall_mem_nil, and_true]
  and_intros
  all_goals exact givesPair_of_res64 fun _ => ⟨fun _ => rfl, rfl⟩

theorem cmpOps_results : ∀ e ∈ cmpOps, GivesPred e := by
  simp only [cmpOps, ne_eq, decide_not, List.forall_mem_cons, forall_mem_nil, and_true]
  and_intros
  all_goals exact givesPred_of_opCmp fun _ => ⟨fun _ => rfl, rfl⟩

theorem cmpiOps_results : ∀ e ∈ cmpiOps, GivesPredImm e := by
  simp only [cmpiOps, ne_eq, decide_not, List.forall_mem_cons, forall_mem_nil, and_true]
  and_intros
  all_goals exact givesPredImm_of_opCmpi fun _ => ⟨fun _ => rfl, rfl⟩

theorem fcmpOps_results : ∀ e ∈ fcmpOps, GivesFcmp e := by
  simp only [fcmpOps, Bool.not_or, List.forall_mem_cons, forall_mem_nil, and_true]
  and_intros
  all_goals exact givesFcmp_of_opFcmp fun _ => ⟨fun _ => rfl, rfl⟩

theorem aluBin_coded : ∀ e ∈ aluBin.zip aluBinCodes, CodedA e.1.1 e.2.1 e.2.2 := by
  simp only [aluBin, aluBinCodes, List.zip_cons_cons, List.zip_nil_right, List.forall_mem_cons, forall_mem_nil, and_true]
  and_intros
  all_goals exact codedA_of_enc (by decide) (by decide) fun _ => rfl

theorem aluUn_coded : ∀ e ∈ aluUn.zip aluUnCodes, CodedU e.1.1 e.2.1 e.2.2 := by
  simp only [aluUn, aluUnCodes, List.zip_cons_cons, List.zip_nil_right, List.forall_mem_cons, forall_mem_nil, and_true]
  and_intros
  all_goals exact codedU_of_enc (by decide) (by decide) fun _ => rfl

theorem mulBin_coded : ∀ e ∈ mulBin.zip [0, 1, 2, 4, 5, 6, 7], CodedA e.1.1 3 e.2 := by
  simp only [mulBin, List.zip_cons_cons, List.zip_nil_right, List.forall_mem_cons, forall_mem_nil, and_true]
  and_intros
  all_goals exact codedA_of_enc (by decide) (by decide) fun _ => rfl

theorem range_eight : List.range 8 = [0, 1, 2, 3, 4, 5, 6, 7] := rfl

theorem pairOps_coded : ∀ e ∈ pairOps.zip (List.range 8), CodedA e.1.1 4 e.2 := by
  simp only [pairOps, range_eight, List.zip_cons_cons, List.zip_nil_right, List.forall_mem_cons, forall_mem_nil, and_true]
  and_intros
  all_goals exact codedA_of_enc (by decide) (by decide) fun _ => rfl

theorem cmpOps_coded : ∀ e ∈ cmpOps.zip (List.range 8), CodedP e.1.1 5 e.2 := by
  simp only [cmpOps, range_eight, List.zip_cons_cons, List.zip_nil_right, List.forall_mem_cons, forall_mem_nil, and_true]
  and_intros
  all_goals exact codedP_of_enc (by decide) (by decide) (fun _ => rfl) fun _ => rfl

theorem fcmpOps_coded : ∀ e ∈ fcmpOps.zip (List.range 8), CodedP e.1.1 0x12 e.2 := by
  simp only [fcmpOps, range_eight, List.zip_cons_cons, List.zip_nil_right, List.forall_mem_cons, forall_mem_nil, and_true]
  and_intros
  all_goals exact codedP_of_enc (by decide) (by decide) (fun _ => rfl) fun _ => rfl

/-! ### Odd pairs (R32, R35) -/

/-- The field names a register, and an odd one. -/
def OddReg (v : BitVec 6) : Prop := v.toNat < 60 ∧ v.toNat % 2 = 1

/-- The same, said of the field of `w` whose lowest bit is bit `k`. -/
def OddField (w : Word) (k : Nat) : Prop := (w.extractLsb' k 6).toNat < 60 ∧ w.getLsbD k = true

theorem OddField.oddReg {w : Word} {k : Nat} (h : OddField w k) : OddReg (w.extractLsb' k 6) := by
  have hbit : (w.extractLsb' k 6).getLsbD 0 = true := by simpa using h.2
  exact ⟨h.1, by rwa [BitVec.getLsbD, Nat.testBit_zero, decide_eq_true_eq] at hbit⟩

theorem shape_not_ok_of_field {sh : Shape} {r : Role} {v : BitVec 6} (hmem : (r, v) ∈ sh.fields) (h : r.ok v = false) :
    sh.ok = false := by
  have hall : sh.fields.all (fun f => f.1.ok f.2) = false := List.all_eq_false.2 ⟨_, hmem, by simp [h]⟩
  simp [Shape.ok, hall]

theorem pairRole_not_ok {v : BitVec 6} (h : OddReg v) :
    (Role.dst 2).ok v = false ∧ (Role.acc 2).ok v = false ∧ (Role.src 2).ok v = false := by
  obtain ⟨hlt, hodd⟩ := h
  have h62 : v.toNat ≠ 62 := by omega
  simp [Role.ok, hodd, h62, hlt]

/-- The operand shape of a word of major 4 with FN `n` (R65). -/
def pairShape (n : Nat) (f : FA) : Shape :=
  if n ≤ 1 then shA f 2 2 2 else if n = 2 then shAcc f 2 2 2 else if n ≤ 4 then shA f 2 1 1 else shA f 2 2 1

theorem rawThread_pair {w : Word} (lit : Word) (h : majorOf w = 4) :
    ∃ i, rawThread w lit = some i ∧ shape i = pairShape (fnOf w) (.dec w lit) := by
  have hmaj : major w = 4 := h
  have hfn : (w.extractLsb' 0 3).toNat = fnOf w := rfl
  have hlt : fnOf w < 8 := (w.extractLsb' 0 3).isLt
  simp only [rawThread, rawLoop, rawInt, hmaj, hfn]
  generalize fnOf w = n at *
  interval_cases n <;> exact ⟨_, rfl, rfl⟩

theorem pairShape_not_ok_of_d {n : Nat} {f : FA} (hnw : f.nw = false) (h : OddReg f.d) : (pairShape n f).ok = false := by
  obtain ⟨hdst, hacc, -⟩ := pairRole_not_ok h
  have hA (an bn : Nat) : (shA f 2 an bn).ok = false := shape_not_ok_of_field (by simp [shA, dstField, hnw]) hdst
  have hAcc : (shAcc f 2 2 2).ok = false := shape_not_ok_of_field (by simp [shAcc]) hacc
  unfold pairShape
  split_ifs
  exacts [hA 2 2, hAcc, hA 1 1, hA 2 1]

theorem pairShape_not_ok_of_a {n : Nat} {f : FA} (h3 : n ≠ 3) (h4 : n ≠ 4) (h : OddReg f.a) : (pairShape n f).ok = false := by
  obtain ⟨-, -, hsrc⟩ := pairRole_not_ok h
  refine shape_not_ok_of_field ?_ hsrc
  unfold pairShape
  split_ifs
  · simp [shA]
  · simp [shAcc]
  · omega
  · simp [shA]

theorem pairShape_not_ok_of_b {n : Nat} {f : FA} (hn : n ≤ 2) (h : OddReg f.b) : (pairShape n f).ok = false := by
  obtain ⟨-, -, hsrc⟩ := pairRole_not_ok h
  refine shape_not_ok_of_field ?_ hsrc
  unfold pairShape
  split_ifs
  · simp [shA]
  · simp [shAcc]
  all_goals omega

/-- A word of major 4 with an odd register in a field that names a pair is refused. -/
theorem odd_pair_refused (w l : Word) (hmaj : majorOf w = 4)
    (hodd : w.getLsbD 3 = false ∧ OddField w 16 ∨ fnOf w ≠ 3 ∧ fnOf w ≠ 4 ∧ OddField w 10 ∨ fnOf w ≤ 2 ∧ OddField w 4) :
    decodeIn .thread w l = .error .field := by
  refine decodeThread_ill_formed l (by rw [show major w = 4 from hmaj]; decide) fun lit => ?_
  obtain ⟨i, hi, hsh⟩ := rawThread_pair lit hmaj
  have hok : (pairShape (fnOf w) (.dec w lit)).ok = false := by
    obtain ⟨hnw, hd⟩ | ⟨h3, h4, ha⟩ | ⟨hn, hb⟩ := hodd
    · exact pairShape_not_ok_of_d hnw hd.oddReg
    · exact pairShape_not_ok_of_a h3 h4 ha.oddReg
    · exact pairShape_not_ok_of_b hn hb.oddReg
  exact ⟨i, hi, by rw [Instr.wellFormed, hsh, hok]; rfl⟩

/-! ### `sel` (R70) -/

theorem isAlu_sel (f : FSel) : IsAlu (.sel f) (opSel f) := ⟨fun _ => rfl, rfl⟩

theorem opSel_writes (f : FSel) (t : Thread) :
    Writes t (.word f.nw f.d (if f.p = 7 ∨ t.p.getLsbD f.p.toNat = true then t.src32 f.lit f.a else t.src32 f.lit f.b)) t.fpsr t.lfsr
      (opSel f t) := by
  have hp : f.p = 7 ∨ t.p.getLsbD f.p.toNat = true ↔ t.pred f.p = true := by simp [Thread.pred]
  simp only [hp]
  exact writes_res32 _ _ _ _

theorem sel_passes (f : FSel) (s : State) (h : s.Issues (shape (.sel f))) (hg : (me s).guard f.g = false) :
    ∃ t', exec (.sel f) s = .next (withMe s t') ∧ t'.g = (me s).g ∧ t'.p = (me s).p ∧ t'.fpsr = (me s).fpsr
      ∧ t'.pc = nextPc s (.sel f) :=
  ⟨((me s).pass ((me s).nextChain (shape (.sel f)))).goTo (nextPc s (.sel f)),
    ((isAlu_sel f).exec_eq s).trans (issue_pass _ h hg), rfl, rfl, rfl, rfl⟩

theorem sel_coded (w l : Word) (f : FSel) (hdec : decodeIn .thread w l = .ok (.sel f)) :
    w.extractLsb' 26 6 = 6 ∧ f.p = w.extractLsb' 0 3 ∧ f.d = w.extractLsb' 16 6 ∧ f.a = w.extractLsb' 10 6
    ∧ f.b = w.extractLsb' 4 6 := by
  obtain rfl : f.enc 6 = w := Option.some.inj (decodeThread_ok hdec).1
  obtain ⟨hm, hp, -, hd, ha, hb, -⟩ := fields_of_append 6#6 f.g f.d f.a f.b f.nw f.p
  exact ⟨hm, hp.symm, hd.symm, ha.symm, hb.symm⟩

/-! ### The obligations -/

/-- Settles O1: each row of R63 writes its result in the frame of a producer, and its word is the encoder's. -/
theorem aluResults : Obligations.AluResults := ⟨aluBin_results, aluUn_results, aluBin_coded, aluUn_coded⟩

/-- Settles O2: the rows of R64 and R65 in the frame of a producer, their words, and the pair roles that refuse an odd field. -/
theorem mulDivAndPairResults : Obligations.MulDivAndPairResults :=
  ⟨⟨mulBin_results, mad_result⟩, pairOps_results, mulBin_coded, codedA_of_enc (by decide) (by decide) fun _ => rfl, pairOps_coded,
    fun w l hmaj _ hodd => odd_pair_refused w l hmaj hodd⟩

/-- Settles O4: the rows of R69, R67 and R146 write one predicate in the frame of a producer, and their words are the encoder's. -/
theorem compareAndFloatCompareResults : Obligations.CompareAndFloatCompareResults :=
  ⟨⟨cmpOps_results, cmpiOps_results⟩, fcmpOps_results, cmpOps_coded, fcmpOps_coded⟩

/-- Settles O60: `sel` writes what its predicate picks, passes under a false guard, and its fields are those of the A layout. -/
theorem selectResult : Obligations.SelectResult :=
  ⟨fun f _ hrun => (isAlu_sel f).completes hrun (opSel_writes f _), sel_passes, sel_coded⟩

end Sys2Proof.Proofs

/-! Proofs of the memory and system family (03_memory_system_instructions.md): what a word that is no producer leaves behind, the words that
call for no literal, the completion time that `gwct` reads, and the return from a trap. The first two parts serve every such word. -/

namespace Sys2Proof.Proofs

open Sys2Proof.Machine Sys2Proof.Stmt

/-! ### Words that produce no latch value (R37, R39) -/

/-- The instruction `i` is no producer, and its own effect is `body`. -/
structure IsBreaker (i : Instr) (body : State → Eff) : Prop where
  exec_eq : ∀ s, exec i s = issue (shape i) body s
  breaker : (shape i).producer = false

/-- What the statements say an instruction has begun is what the model marks at the end of a chain. -/
theorem begun_eq_chained (s : State) (i : Instr) (t : Thread) :
    begun s i t = t.chained (s.thr s.cur) ((s.thr s.cur).nextChain (shape i)) := by
  unfold begun Thread.chained
  cases (s.thr s.cur).nextChain (shape i) with
  | none => rfl
  | some c =>
    dsimp only
    congr 4
    funext h
    cases h.op <;> rfl

/-- A thread that leaves its instruction for `pc`, its latches broken: what it keeps, and since when it is ready. -/
theorem leave_eq (t q : Thread) (pc : DWord) (now : Nat) :
    (t.breakLatches.goTo pc).readyAt q now = { t with
      b0 := none, b1 := none, chain := none, pend := none, wait := .none, bulk := none, mrun := none, barArr := false, pc := pc,
      age := if q.wait = .none then t.age else now } := by
  unfold Thread.readyAt
  split_ifs <;> rfl

theorem thr_nbDepart (s : State) (p u : Nat) : (s.nbDepart p).thr u = s.thr u := rfl

section

variable {i : Instr} {body : State → Eff} {s : State} (hi : IsBreaker i body) (hrun : s.Runs (shape i))
include hi hrun

theorem IsBreaker.does {s1 : State} {v : DWord} (hbody : body s = .done s1 v) : Does s i s1 := by
  rw [Does, hi.exec_eq, issue_run _ hrun, hbody]
  simp only [State.settle, hi.breaker, Bool.false_eq_true, if_false, after, State.modThr, State.setThr_setThr, State.thr_setThr,
    begun_eq_chained, leave_eq]
  rfl

theorem IsBreaker.jumps {s1 : State} {v : DWord} (hbody : body s = .jump s1 v) : Jumps s i s1 v := by
  rw [Jumps, hi.exec_eq, issue_run _ hrun, hbody]
  simp only [State.settle, after, leave_eq]

theorem IsBreaker.faults {code : Nat} {va : DWord} (hbody : body s = .fault code 0 va) : Faults s i code va := by
  rw [Faults, hi.exec_eq, issue_run _ hrun, hbody]
  rfl

/-- R79: a transfer to an address in window 0 takes place, and one to any other address faults. -/
theorem IsBreaker.transfers {s1 : State} {v : DWord} (hbody : body s = transfer s1 v) :
    (inWindow0 v → Jumps s i s1 v) ∧ (¬ inWindow0 v → Faults s i 3 v) := by
  have hok : targetOk v = true ↔ inWindow0 v := by
    simp [targetOk, inWindow0]
  refine ⟨fun hv => hi.jumps hrun ?_, fun hv => hi.faults hrun ?_⟩
  · rw [hbody, transfer, if_pos (hok.2 hv)]
  · rw [hbody, transfer, if_neg (mt hok.1 hv)]; rfl

/-- R84: a thread whose effect is its end leaves its stores and the other threads as they are. -/
theorem IsBreaker.ends (hbody : body s = .gone (s.endThread s.cur)) : Ends s i := by
  have hme : me (s.endThread s.cur) = (s.endThread s.cur).thr s.cur := rfl
  refine ⟨s.endThread s.cur, ?_, ?_⟩
  · rw [hi.exec_eq, issue_run _ hrun, hbody]; rfl
  · rw [hme, State.endThread, thr_nbDepart, State.thr_modThr]
    exact ⟨rfl, rfl, rfl, rfl, fun u hu => (thr_nbDepart ..).trans (s.thr_modThr_ne _ (Ne.symm hu)), rfl⟩

end

/-! ### Fields of a word that calls for no literal (R28, R35) -/

theorem ofBool_getLsbD {k : Nat} (w : BitVec k) (n : Nat) : BitVec.ofBool (w.getLsbD n) = w.extractLsb' n 1 := by
  ext j hj
  obtain rfl : j = 0 := by omega
  simp

/-- The inverse of `fields_of_append`: a word is in the A layout with the fields that are read from it. -/
theorem append_eq_iff_fields (m : BitVec 6) (g : BitVec 4) (d a b : BitVec 6) (nw : Bool) (n : BitVec 3) (w : Word) :
    m ++ g ++ d ++ a ++ b ++ BitVec.ofBool nw ++ n = w ↔
      w.extractLsb' 26 6 = m ∧ w.extractLsb' 0 3 = n ∧ w.extractLsb' 22 4 = g ∧ w.extractLsb' 16 6 = d ∧ w.extractLsb' 10 6 = a
      ∧ w.extractLsb' 4 6 = b ∧ w.getLsbD 3 = nw := by
  constructor
  · rintro rfl
    exact fields_of_append m g d a b nw n
  · rintro ⟨rfl, rfl, rfl, rfl, rfl, rfl, rfl⟩
    rw [ofBool_getLsbD]
    repeat rw [BitVec.extractLsb'_append_extractLsb'_eq_extractLsb' (by decide)]
    exact BitVec.extractLsb'_eq_self

/-- A range of bits is zero where its upper and its lower part are. -/
theorem extractLsb'_eq_zero_iff {k : Nat} (w : BitVec k) (start n m : Nat) :
    w.extractLsb' start (n + m) = 0 ↔ w.extractLsb' (start + m) n = 0 ∧ w.extractLsb' start m = 0 := by
  have happ : w.extractLsb' start (n + m) = w.extractLsb' (start + m) n ++ w.extractLsb' start m :=
    (BitVec.extractLsb'_append_extractLsb'_eq_extractLsb' rfl).symm
  constructor
  · intro h
    have hparts : w.extractLsb' (start + m) n ++ w.extractLsb' start m = 0#n ++ 0#m := by
      rw [← happ, h, BitVec.zero_append_zero]
      rfl
    have hhigh := congrArg (BitVec.extractLsb' m n) hparts
    have hlow := congrArg (BitVec.extractLsb' 0 m) hparts
    simp only [BitVec.extractLsb'_append_eq_left, BitVec.extractLsb'_append_eq_right] at hhigh hlow
    exact ⟨hhigh, hlow⟩
  · rintro ⟨hhigh, hlow⟩
    rw [happ, hhigh, hlow]
    exact BitVec.zero_append_zero

theorem extractLsb'_one_eq_zero_iff {k : Nat} (w : BitVec k) (n : Nat) : w.extractLsb' n 1 = 0 ↔ w.getLsbD n = false := by
  rw [← ofBool_getLsbD]
  cases w.getLsbD n <;> decide

/-- B and NW are reserved. -/
theorem reserved_b_nw_iff (w : Word) : w.extractLsb' 3 7 = 0 ↔ w.extractLsb' 4 6 = 0 ∧ w.getLsbD 3 = false :=
  (extractLsb'_eq_zero_iff w 3 6 1).trans (and_congr_right' (extractLsb'_one_eq_zero_iff w 3))

/-- D, A, B and NW are reserved. -/
theorem reserved_d_a_b_nw_iff (w : Word) :
    w.extractLsb' 3 19 = 0 ↔ w.extractLsb' 16 6 = 0 ∧ w.extractLsb' 10 6 = 0 ∧ w.extractLsb' 4 6 = 0 ∧ w.getLsbD 3 = false :=
  (extractLsb'_eq_zero_iff w 3 6 13).trans (and_congr_right' ((extractLsb'_eq_zero_iff w 3 6 7).trans
    (and_congr_right' (reserved_b_nw_iff w))))

/-- A word of a thread's own map whose instruction calls for no literal decodes to it where the word is its encoding and it is
well-formed. -/
theorem decodeThread_of_no_literal {w : Word} (lit : Word) {i : Instr} (hmaj : major w ≠ 0x3a ∧ major w ≠ 0x3b)
    (hraw : rawThread w 0 = some i) (hlit : (shape i).wantsLit = false) (hg : w.extractLsb' 22 4 ≠ 15) :
    decodeIn .thread w lit = if encodeWord i = some w ∧ i.wellFormed then .ok i else .error .field := by
  have hi : literalOf w lit rawThread = some i := by
    rw [literalOf, hraw]
    exact if_neg (by simp [hlit])
  rw [decodeIn, decodeThread, decodeBy, if_neg (not_or.2 hmaj), if_neg fun h => hg h.2, hi]

/-! ### `gwct` (R113) -/

theorem isBreaker_gwct (f : FDa) :
    IsBreaker (.gwct f) (fun s => .done (withMe s ((me s).wr64 false f.d (BitVec.ofNat 64 ((me s).scopeTime f.a.toNat)))) 0) :=
  ⟨fun _ => rfl, rfl⟩

theorem scopeTime_eq_getD (t : Thread) {k : Nat} (hk : k ≤ 3) : t.scopeTime k = [t.tCore, t.tDie, t.tPkg, t.tSys].getD k 0 := by
  interval_cases k <;> rfl

/-- A write to a pair changes the general registers only, as the result says. -/
theorem wr64_frame (t : Thread) (d : BitVec 6) (v : DWord) :
    ∃ g', t.wr64 false d v = { t with g := g' } ∧ ∀ k, g'.get k = (Res.pair false d v).reg t.g k := by
  obtain ⟨g, p, hop, hreg, -⟩ := writes_res64 t false d v
  have hg : (t.wr64 false d v).g = g := congrArg (fun o => o.1.g) hop
  refine ⟨g, ?_, hreg⟩
  rw [← hg, Thread.wr64, setG_frame, setG_frame t]
  rfl

theorem gwct_does {f : FDa} {s : State} (hrun : s.Runs (shape (.gwct f))) (ha : f.a.toNat ≤ 3) :
    ∃ g', Does s (.gwct f) (withMe s { me s with g := g' }) ∧ ∀ k, g'.get k = (Res.pair false f.d (BitVec.ofNat 64
      ([(me s).tCore, (me s).tDie, (me s).tPkg, (me s).tSys].getD f.a.toNat 0))).reg (me s).g k := by
  obtain ⟨g', hwr, hreg⟩ := wr64_frame (me s) f.d (BitVec.ofNat 64 ((me s).scopeTime f.a.toNat))
  refine ⟨g', (isBreaker_gwct f).does hrun (v := 0) ?_, ?_⟩
  · rw [hwr]
  · rwa [scopeTime_eq_getD _ ha] at hreg

theorem rawThread_gwct {w : Word} (hmaj : w.extractLsb' 26 6 = 0x2E) (hfn : w.extractLsb' 0 3 = 5) :
    rawThread w 0 = some (.gwct (.dec w 0)) := by
  have hm : major w = 0x2e := congrArg BitVec.toNat hmaj
  simp only [rawThread, rawLoop, rawMem, rawSys, hm, hfn]
  rfl

theorem gwct_encodes_iff {w : Word} (hmaj : w.extractLsb' 26 6 = 0x2E) (hfn : w.extractLsb' 0 3 = 5) :
    encodeWord (.gwct (.dec w 0)) = some w ↔ w.extractLsb' 3 7 = 0 := by
  have henc : encodeWord (.gwct (.dec w 0)) = some (0x2e#6 ++ w.extractLsb' 22 4 ++ w.extractLsb' 16 6 ++ w.extractLsb' 10 6 ++ 0#6
    ++ BitVec.ofBool false ++ 5#3) := rfl
  rw [henc, Option.some_inj, append_eq_iff_fields, reserved_b_nw_iff]
  simp [hmaj, hfn]

/-- The scope code is at most 3, and D names a pair or nothing. -/
theorem gwct_wellFormed_iff {f : FDa} (hg : f.g ≠ 15) (hlit : f.lit = 0) :
    (Instr.gwct f).wellFormed = true ↔ f.a.toNat ≤ 3 ∧ (f.d.toNat < 60 ∧ f.d.toNat % 2 = 0 ∨ f.d = 62) := by
  have hok : (Instr.gwct f).wellFormed = (shGwct f).ok := (Bool.and_true _).trans (Bool.and_true _)
  have h62 : f.d = 62 ↔ f.d.toNat = 62 := BitVec.toNat_inj.symm
  have hguard : ((shGwct f).g != 15) = true := bne_iff_ne.2 hg
  rw [hok, h62, Shape.ok, hguard]
  simp [shGwct, Role.ok, hlit, and_comm]

/-- Settles O26: `gwct` writes T.S of its scope to the pair D, and its word is refused where a field is not permitted. -/
theorem completionTimeRead : Obligations.CompletionTimeRead := by
  refine ⟨fun f s hrun ha => gwct_does hrun ha, fun w lit hmaj hfn hg => ?_⟩
  have hm : major w = 0x2e := congrArg BitVec.toNat hmaj
  rw [decodeThread_of_no_literal lit (by omega) (rawThread_gwct hmaj hfn) rfl hg]
  refine if_congr ?_ rfl rfl
  rw [gwct_encodes_iff hmaj hfn, gwct_wellFormed_iff hg rfl, and_comm, and_assoc]
  rfl

/-! ### `tret` (R133) -/

/-- A fill whose bytes have arrived goes on with them. -/
theorem withPair_of_bulk {s : State} {u : Nat} {bs : List Byte} {va : DWord} {k : List Byte → Eff} (h : (s.thr u).bulk = some bs) :
    s.withPair u va k = k bs := by
  rw [State.withPair, h]

/-- The effect of `tret` on each stack: two entries on chip, one on chip and one filled, two filled, and fewer than two. -/
theorem tret_effect (f : FG) : ∃ body, IsBreaker (.tret f) body
    ∧ (∀ s v x r, (me s).cs = v :: x :: r → body s = transfer (withMe s { me s with cs := r }) (aligned4 v))
    ∧ (∀ s v bs, (me s).cs = [v] → 2 ≤ (me s).csSp → (me s).bulk = some bs →
      body s = transfer (withMe s { me s with cs := [(fillPair bs).1], csSp := (me s).csSp - 2 }) (aligned4 v))
    ∧ (∀ s bs, (me s).cs = [] → 2 ≤ (me s).csSp → (me s).bulk = some bs →
      body s = transfer (withMe s { me s with cs := [], csSp := (me s).csSp - 2 }) (aligned4 (fillPair bs).2))
    ∧ ∀ s, (me s).cs.length + (me s).csSp < 2 → body s = .gone (s.endThread s.cur) := by
  refine ⟨_, ⟨fun s => show execTret f s = _ from rfl, rfl⟩, ?_, ?_, ?_, ?_⟩
  · intro s v x r hcs
    simp only [me] at hcs
    simp only [hcs]
    rfl
  · intro s v bs hcs hsp hbulk
    simp only [me] at hcs hsp hbulk
    have hfew : ¬ 1 + (s.thr s.cur).csSp < 2 := by omega
    simp only [hcs, withPair_of_bulk hbulk, List.length_singleton, hfew, if_false]
    rfl
  · intro s bs hcs hsp hbulk
    simp only [me] at hcs hsp hbulk
    have hfew : ¬ 0 + (s.thr s.cur).csSp < 2 := by omega
    simp only [hcs, withPair_of_bulk hbulk, List.length_nil, hfew, if_false]
    rfl
  · intro s hfew
    simp only [me] at hfew
    match hcs : (s.thr s.cur).cs with
    | [] | [_] => rw [hcs] at hfew; simp only [hcs, hfew, if_true]
    | _ :: _ :: _ => rw [hcs, List.length_cons, List.length_cons] at hfew; omega

theorem rawThread_tret {w : Word} (hmaj : w.extractLsb' 26 6 = 0x38) (hfn : w.extractLsb' 0 3 = 0) :
    rawThread w 0 = some (.tret (.dec w)) := by
  have hm : major w = 0x38 := congrArg BitVec.toNat hmaj
  simp only [rawThread, rawLoop, rawMem, rawSys, hm, hfn]
  rfl

theorem tret_encodes_iff {w : Word} (hmaj : w.extractLsb' 26 6 = 0x38) (hfn : w.extractLsb' 0 3 = 0) :
    encodeWord (.tret (.dec w)) = some w ↔ w.extractLsb' 3 19 = 0 := by
  have henc : encodeWord (.tret (.dec w)) = some (0x38#6 ++ w.extractLsb' 22 4 ++ 0#6 ++ 0#6 ++ 0#6 ++ BitVec.ofBool false ++ 0#3) := rfl
  rw [henc, Option.some_inj, append_eq_iff_fields, reserved_d_a_b_nw_iff]
  simp [hmaj, hfn]

theorem tret_wellFormed_iff {f : FG} : (Instr.tret f).wellFormed = true ↔ f.g ≠ 15 := by
  have hok : (Instr.tret f).wellFormed = (shG f 0).ok := (Bool.and_true _).trans (Bool.and_true _)
  rw [hok]
  simp [shG, Shape.ok]

/-- The word of `tret`: a guard other than 15, and zero in every reserved field. -/
theorem tret_coded {w : Word} (lit : Word) (hmaj : w.extractLsb' 26 6 = 0x38) (hfn : w.extractLsb' 0 3 = 0) :
    decodeIn .thread w lit = .ok (.tret (.dec w)) ↔ w.extractLsb' 22 4 ≠ 15 ∧ w.extractLsb' 3 19 = 0 := by
  have hm : major w = 0x38 := congrArg BitVec.toNat hmaj
  constructor
  · intro hdec
    obtain ⟨henc, hwf⟩ := decodeThread_ok hdec
    exact ⟨tret_wellFormed_iff.1 hwf, (tret_encodes_iff hmaj hfn).1 henc⟩
  · rintro ⟨hg, hz⟩
    rw [decodeThread_of_no_literal lit (by omega) (rawThread_tret hmaj hfn) rfl hg]
    exact if_pos ⟨(tret_encodes_iff hmaj hfn).2 hz, tret_wellFormed_iff.2 hg⟩

/-- Settles O15: `tret` transfers to the restart counter, on chip or filled, or ends the thread; its reserved fields are zero. -/
theorem trapReturn : Obligations.TrapReturn := by
  refine ⟨fun f s hrun => ?_, fun w lit hmaj hfn => tret_coded lit hmaj hfn⟩
  obtain ⟨body, hi, honchip, hone, hnone, hfew⟩ := tret_effect f
  exact ⟨fun v x r hcs => hi.transfers hrun (honchip s v x r hcs),
    fun bs v hcs hsp hbulk => hi.transfers hrun (hone s v bs hcs hsp hbulk),
    fun bs hcs hsp hbulk => hi.transfers hrun (hnone s bs hcs hsp hbulk),
    fun hlt => hi.ends hrun (hfew s hlt)⟩

end Sys2Proof.Proofs
